-- ==== Sys2Proof/Word.lean ====
section
/-! DEFINITION. The word types of the Limkihal model (spec/00_scope.md, R6: byte 0 of a multi-byte field holds bits
[7:0]) and the sparse table in which like units are held. -/

namespace Sys2Proof

/-- A byte of a store. -/
abbrev Byte := BitVec 8

/-- A register, a header word, a g register: 32 bits. -/
abbrev Word := BitVec 32

/-- An instruction word of the sequencer or of the vector engine (R157, R169). -/
abbrev Word64 := BitVec 64

/-- Like units by index, keys strictly rising; a unit that is not listed stands at its default. -/
abbrev Table (α : Type) := List (Nat × α)

end Sys2Proof
end

