-- ==== Sys2Proof/Syntax.lean ====
section
/-! DEFINITION. The commands of the block: one constructor of `Instr` per row of spec/opcode_table.json, with the
operands that name the unit a step happens at and the values that reach the device from outside it at that step. -/

namespace Sys2Proof

/-- A packet of the package network: the header flit of R236 (its route is chosen by the source NI, R241) with LEN
payload bytes and the poison of the granules that hold them (R234 PSN). `rsv` says that a reserved header field is
not 0 (R240). -/
structure Packet where
  opc : BitVec 4
  cls : BitVec 2
  dst : BitVec 8
  src : BitVec 8
  sport : BitVec 4
  dport : BitVec 4
  len : BitVec 9
  tag : BitVec 10
  age : BitVec 8
  hops : BitVec 5
  ptr : BitVec 5
  rb : Bool
  status : BitVec 8
  space : BitVec 3
  route : BitVec 48
  addr : BitVec 48
  aux : Word
  byteEn : BitVec 256
  rsv : Bool
  data : List Byte
  psn : List Bool
deriving DecidableEq, Repr

/-- One array's failed checks of a command (R79): the array, the rows that failed the column check and the columns
that failed the row check. -/
structure CheckFail where
  array : Nat
  rows : List Nat
  cols : List Nat
deriving DecidableEq, Repr

/-- One block's BIST signature as its die returns it (R446). -/
structure BistSig where
  da : Nat
  block : Nat
  sig : Word
deriving DecidableEq, Repr

/-- The commands: one per row of the table of operations and events. `t` is a physical tile die 0 to 59, `c` a
physical core 0 to 8, `w` an instruction word, `i` a timetable index, `e` an edge die (0 to 5 for E0 to E5),
`f` a fabric die, `r` a region or a roll, `ch` a channel, `da` a die address, `l` a logical die. -/
inductive Instr where
  /-- TICK_EDGE (R36): The Pacer's count of P core cycles expires and a tick edge strobe reaches every die, which takes its local cycle 0 and advances the tick number. -/
  | tickEdge
  /-- TIMETABLE_DISPATCH (R46): The Pacer dispatches timetable entries over the tick lines 32 cycles ahead of their AT, at up to 4 per cycle. -/
  | timetableDispatch
  /-- NOP (R43): A NOP timetable entry reaches its AT and does nothing. -/
  | ttNop (i : Nat)
  /-- START (R50): A START entry takes effect at its AT on a logical core, starting, preempting with or holding a program of its class. -/
  | start (i : Nat)
  /-- BARRIER (R209): A BARRIER entry arms a tally with its expected count at AT. -/
  | barrier (i : Nat)
  /-- STREAM (R194): A STREAM entry enters its class's streamer queue at AT with a fixed descriptor. -/
  | stream (i : Nat)
  /-- SAMPLE (R310): A SAMPLE entry latches every member of an input group and starts writing the input record to the die stores. -/
  | sample (i : Nat)
  /-- CLEAR (R384): A CLEAR entry latches each entry's digest, poison flag and ready mask and hands a digest message to the NI. -/
  | clear (i : Nat)
  /-- RELEASE (R311): A RELEASE entry starts the fetch of its output group's output record from the die store. -/
  | release (i : Nat)
  /-- SIGNAL (R43): A SIGNAL entry sends a header-only signal packet to a fabric die port. -/
  | signal (i : Nat)
  /-- DEADLINE (R48): An entry's deadline cycle AT + SPAN is reached and the target die checks whether the action is complete. -/
  | deadline (i : Nat)
  /-- ARM (R41): A write of ARM to TKC_CMD arms the tick if it is disarmed and the timetable is verified for the current period. -/
  | arm
  /-- DISARM (R42): A write of DISARM to TKC_CMD disarms the tick at the next edge, discarding that tick's outputs and commits. -/
  | disarm
  /-- FAULT_REPORT (R379): A fault report message reaches the Pacer, which records it and restarts, rolls back, disarms or counts by its kind and class. -/
  | faultReport (p : Packet)
  /-- RESTART_STROBE (R389): 32 cycles after a restarting fault report the Pacer drives the restart strobe, withholding releases and stopping class 0 and 1 work. -/
  | restartStrobe
  /-- RESTORE_ACK (R390): A tile die acknowledges to the Pacer that its restore from the current generations is complete. -/
  | restoreAck (t : Nat)
  /-- DIE_LOST (R396): A tile die that has not acknowledged its restore by x + 8,180 is lost, retired, and its clearing groups go to single-entry mode. -/
  | dieLost (t : Nat)
  /-- RESTART_EDGE (R390): The restart edge falls and the job resumes from the current generations, with changed bindings taking effect. -/
  | restartEdge
  /-- PLANNED_STRETCH (R393): A planned stretch performs a restore without a fault to apply a retirement, bring in a reserve die or rejoin a logical core. -/
  | plannedStretch (l k : Nat)
  /-- RESERVE_LOAD (R397): The Keeper's load of a reserve die from the image source completes and task dispatch resumes. -/
  | reserveLoad (l : Nat)
  /-- DIGEST (R385): A clearing digest message arrives and the entry compares digests, poison and tick, committing or withholding. -/
  | digest (p : Packet)
  /-- ESCROW_COMMIT (R386): An entry's commit of its dirty granules to escrow completes and its verdict messages are sent. -/
  | escrowCommit (t c : Nat)
  /-- VERDICT (R53): A release verdict message arrives at an output group, which keeps the first verdict of the tick. -/
  | verdict (p : Packet)
  /-- RECORD_APPLY (R311): At tick edge n + 1 plus D an output group applies its fetched record if the verdict and fetch arrived, else withholds. -/
  | recordApply (da g : Nat)
  /-- RD (R237): A read request packet reaches its target, which answers with a read response. -/
  | rdPkt (p : Packet)
  /-- WR (R237): A write request packet reaches its target, which writes the enabled bytes and answers with a write response. -/
  | wrPkt (p : Packet)
  /-- ARR (R209): A tally arrival packet reaches a die unit and counts at its tally. -/
  | arr (p : Packet)
  /-- SIG (R292): A fabric signal packet reaches a fabric port and is presented as a SIG strobe with its tag. -/
  | sig (p : Packet)
  /-- RDR (R251): A read response reaches its initiator and is delivered, or dropped as late. -/
  | rdr (p : Packet)
  /-- WRR (R251): A write response reaches its initiator and is delivered, or dropped as late. -/
  | wrr (p : Packet)
  /-- STEAL_REQUEST (R185): A steal request message reaches a victim's dispatcher, which gives up to G tasks from its ring head. -/
  | stealRequest (p : Packet)
  /-- STEAL_REPLY (R187): A steal reply reaches the thief, which places the given descriptors in its steal buffer. -/
  | stealReply (p : Packet)
  /-- LEDGER_CHARGE (R380): A Ledger charge message reaches the Keeper, which updates the unit's record and judges the fault transient or permanent. -/
  | ledgerCharge (p : Packet)
  /-- TIMEOUT (R250): An NI request timer expires and a TIMEOUT response is synthesised to the initiator. -/
  | timeout (da port tag : Nat)
  /-- FORWARD (R242): A router forwards a packet on the port that its route names, or ejects it when PTR equals HOPS. -/
  | forward (da out : Nat) (upset : Option Nat)
  /-- AGE_INCREMENT (R249): A packet head that has waited 32 network cycles at a router has its AGE incremented. -/
  | ageIncrement (da inp q : Nat)
  /-- FLIT_CRC_ERROR (R235): A receiver finds a flit's CRC failed, discards it and sends NAK so the transmitter replays. -/
  | flitCrcError (da port : Nat)
  /-- RETRAIN_COMPLETE (R255): A link retrain ends with failing lanes replaced by spares, or fails the link. -/
  | retrainComplete (da port : Nat) (bad : List Nat)
  /-- LINK_FAILURE (R244): A link or router fails and its failure is reported, taken into NI_FAILED_LINK, or disarms the tick if second. -/
  | linkFailure (link : Nat)
  /-- PREEMPT (R145): At the first interruptible boundary after recognising a higher-class START, the sequencer switches banks. -/
  | preempt (t c : Nat)
  /-- MOV (R154): Issues only the parallel moves of its format. -/
  | mov (t c : Nat) (w : Word64)
  /-- ADD (R154): Integer add of two g registers. -/
  | addG (t c : Nat) (w : Word64)
  /-- SUB (R154): Integer subtract of two g registers. -/
  | subG (t c : Nat) (w : Word64)
  /-- AND (R154): Bitwise AND of two g registers. -/
  | andG (t c : Nat) (w : Word64)
  /-- OR (R154): Bitwise OR of two g registers. -/
  | orG (t c : Nat) (w : Word64)
  /-- XOR (R154): Bitwise XOR of two g registers. -/
  | xorG (t c : Nat) (w : Word64)
  /-- SHL (R154): Shift left by gs2[4:0]. -/
  | shl (t c : Nat) (w : Word64)
  /-- SHR (R154): Logical shift right by gs2[4:0]. -/
  | shr (t c : Nat) (w : Word64)
  /-- SAR (R154): Arithmetic shift right by gs2[4:0]. -/
  | sar (t c : Nat) (w : Word64)
  /-- MUL (R154): Integer multiply keeping the low 32 bits. -/
  | mulG (t c : Nat) (w : Word64)
  /-- MIN (R154): Signed minimum of two g registers. -/
  | minG (t c : Nat) (w : Word64)
  /-- MAX (R154): Signed maximum of two g registers. -/
  | maxG (t c : Nat) (w : Word64)
  /-- CMP (R154): Sets flags from gs1 minus gs2. -/
  | cmp (t c : Nat) (w : Word64)
  /-- FADD (R154): fp32 add, merging flags into ASTAT. -/
  | fadd (t c : Nat) (w : Word64)
  /-- FSUB (R154): fp32 subtract, merging flags into ASTAT. -/
  | fsub (t c : Nat) (w : Word64)
  /-- FMUL (R154): fp32 multiply, merging flags into ASTAT. -/
  | fmul (t c : Nat) (w : Word64)
  /-- FMA (R154): fp32 fused multiply-add rounded once. -/
  | fma (t c : Nat) (w : Word64)
  /-- FCMP (R154): fp32 compare setting Z, N and UO. -/
  | fcmp (t c : Nat) (w : Word64)
  /-- FCVTI (R154): Converts an int32 to fp32. -/
  | fcvti (t c : Nat) (w : Word64)
  /-- FCVTZ (R154): Converts an fp32 to int32 rounding toward zero. -/
  | fcvtz (t c : Nat) (w : Word64)
  /-- LDI (R154): Loads an immediate into a g register. -/
  | ldi (t c : Nat) (w : Word64)
  /-- ADDI (R154): Adds an immediate to a g register. -/
  | addi (t c : Nat) (w : Word64)
  /-- CMPI (R154): Sets flags from a g register minus an immediate. -/
  | cmpi (t c : Nat) (w : Word64)
  /-- LD (R154): Loads 32 bits on X, Y or C and post-modifies the address register. -/
  | ld (t c : Nat) (w : Word64)
  /-- ST (R133): Stores 32 bits on X, Y or C, written at n + 3, and post-modifies. -/
  | st (t c : Nat) (w : Word64)
  /-- SETA (R154): Sets an address register from an immediate. -/
  | seta (t c : Nat) (w : Word64)
  /-- SETM (R154): Sets a modifier register from an immediate. -/
  | setm (t c : Nat) (w : Word64)
  /-- SETL (R154): Sets a length register from an immediate. -/
  | setl (t c : Nat) (w : Word64)
  /-- MOVA (R154): Sets an address register from a g register. -/
  | mova (t c : Nat) (w : Word64)
  /-- MOVM (R154): Sets a modifier register from a g register. -/
  | movm (t c : Nat) (w : Word64)
  /-- MOVL (R154): Sets a length register from a g register. -/
  | movl (t c : Nat) (w : Word64)
  /-- MOVG (R154): Copies an address register into a g register. -/
  | movg (t c : Nat) (w : Word64)
  /-- RDS (R156): Reads a special register into a g register. -/
  | rds (t c : Nat) (w : Word64)
  /-- CLST (R154): Clears selected bits of the own class's ASTAT. -/
  | clst (t c : Nat) (w : Word64)
  /-- CLEV (R154): Clears selected own event flags. -/
  | clev (t c : Nat) (w : Word64)
  /-- B (R140): Conditional branch with two delay slots. -/
  | br (t c : Nat) (w : Word64)
  /-- CALL (R140): Conditional call pushing the return address. -/
  | call (t c : Nat) (w : Word64)
  /-- RET (R140): Conditional return popping the return stack. -/
  | ret (t c : Nat) (w : Word64)
  /-- RPT (R141): Repeats the next instruction COUNT times. -/
  | rpt (t c : Nat) (w : Word64)
  /-- RPB (R141): Repeats the next LEN instructions COUNT times. -/
  | rpb (t c : Nat) (w : Word64)
  /-- WAIT (R152): Holds until the class's outstanding work on the selected unit is at most COUNT. -/
  | wait (t c : Nat) (w : Word64)
  /-- END (R153): Holds until no work is outstanding, ends the program and reports its coin remainder. -/
  | endP (t c : Nat) (w : Word64)
  /-- MQI (R150): Issues the matrix command held in four g registers into the quad queue. -/
  | mqi (t c : Nat) (w : Word64)
  /-- MQIM (R150): Issues a matrix command read from the core store into the quad queue. -/
  | mqim (t c : Nat) (w : Word64)
  /-- VLA (R163): Launches rolls on the vector engine once enough rolls of the class are free. -/
  | vla (t c : Nat) (w : Word64)
  /-- SIS (R194): Issues a stream descriptor to the core's streamer in the program's class. -/
  | sis (t c : Nat) (w : Word64)
  /-- ARRIVE (R151): Posts one arrival to a tally by a header-only packet. -/
  | arrive (t c : Nat) (w : Word64)
  /-- GATE (R119): Selects up to KMAX experts from a score vector and threshold. -/
  | gate (t c : Nat) (w : Word64)
  /-- MATRIX_MULTIPLY (R69): A matrix multiply command leaves the queue, passes its checks and streams its wavefront lines through the arrays. -/
  | matrixMultiply (t c : Nat)
  /-- WEIGHT_LOAD (R74): A weight load command starts filling the shadow planes of the arrays in AMASK. -/
  | weightLoad (t c : Nat)
  /-- MATRIX_NOP (R61): A matrix NOP command completes without occupying an execution unit. -/
  | matrixNop (t c : Nat)
  /-- MULTIPLY_COMPLETE (R104): A matrix multiply completes, incrementing MQ_DONE_CNT, merging flags and reporting its refund. -/
  | multiplyComplete (t c : Nat)
  /-- WEIGHT_LOAD_COMPLETE (R75): A weight load completes, making its shadow planes valid with their format and clean flag. -/
  | weightLoadComplete (t c : Nat)
  /-- MATRIX_CHECK (R79): A failed column or row check is reported, marking outputs failed and charging the array. -/
  | matrixCheck (t c : Nat) (fails : List CheckFail)
  /-- VNOP (R170): Vector no-operation. -/
  | vnop (t c r : Nat) (w : Word64)
  /-- VADD (R170): Vector add. -/
  | vadd (t c r : Nat) (w : Word64)
  /-- VSUB (R170): Vector subtract. -/
  | vsub (t c r : Nat) (w : Word64)
  /-- VMUL (R170): Vector multiply. -/
  | vmul (t c r : Nat) (w : Word64)
  /-- VFMA (R170): Vector fused multiply-add rounded once. -/
  | vfma (t c r : Nat) (w : Word64)
  /-- VMIN (R171): Vector minimum. -/
  | vmin (t c r : Nat) (w : Word64)
  /-- VMAX (R171): Vector maximum. -/
  | vmax (t c r : Nat) (w : Word64)
  /-- VAND (R170): Vector bitwise AND. -/
  | vand (t c r : Nat) (w : Word64)
  /-- VOR (R170): Vector bitwise OR. -/
  | vor (t c r : Nat) (w : Word64)
  /-- VXOR (R170): Vector bitwise XOR. -/
  | vxor (t c r : Nat) (w : Word64)
  /-- VSHL (R170): Vector shift left. -/
  | vshl (t c r : Nat) (w : Word64)
  /-- VSHR (R170): Vector logical shift right. -/
  | vshr (t c r : Nat) (w : Word64)
  /-- VSAR (R170): Vector arithmetic shift right. -/
  | vsar (t c r : Nat) (w : Word64)
  /-- VCVT (R171): Vector conversion between types. -/
  | vcvt (t c r : Nat) (w : Word64)
  /-- VMOVI (R170): Vector move of an immediate. -/
  | vmovi (t c r : Nat) (w : Word64)
  /-- VCMP (R171): Vector compare into a predicate register. -/
  | vcmp (t c r : Nat) (w : Word64)
  /-- VSEL (R170): Vector select by predicate. -/
  | vsel (t c r : Nat) (w : Word64)
  /-- VSHFL (R170): Vector lane shuffle. -/
  | vshfl (t c r : Nat) (w : Word64)
  /-- VRED (R175): Vector reduction across lanes in a fixed tree. -/
  | vred (t c r : Nat) (w : Word64)
  /-- VLD (R170): Vector load from the core store. -/
  | vld (t c r : Nat) (w : Word64)
  /-- VST (R170): Vector store to the core store. -/
  | vst (t c r : Nat) (w : Word64)
  /-- VTU (R173): Correctly rounded transcendental function on fp32. -/
  | vtu (t c r : Nat) (w : Word64)
  /-- VBR (R170): Roll-uniform branch on a predicate. -/
  | vbr (t c r : Nat) (w : Word64)
  /-- VSYNC (R170): A roll arrives at a synchronisation point of its launch. -/
  | vsync (t c r : Nat) (w : Word64)
  /-- VSYNC_RELEASE (R168): The last roll of a launch reaches VSYNC and all rolls resume. -/
  | vsyncRelease (t c r : Nat)
  /-- VEND (R163): Ends a roll and frees it. -/
  | vend (t c r : Nat) (w : Word64)
  /-- VCLR (R170): Clears a register's poison bit. -/
  | vclr (t c r : Nat) (w : Word64)
  /-- GATE_OPEN (R210): A GEN = 1 stream's gate tally reaches GCOUNT and the stream may issue requests. -/
  | gateOpen (t c cls : Nat)
  /-- STREAM_REQUEST (R212): The streamer issues the next request of the highest-class running stream that can issue one. -/
  | streamRequest (t c : Nat)
  /-- STREAM_COMPLETE (R205): A stream completes, writing its record, posting completion and its tally arrival. -/
  | streamComplete (t c cls : Nat)
  /-- TRANSLATION_WALK (R220): A translation walk of the stream map completes with a translation or a fault. -/
  | translationWalk (t c : Nat) (poison : Bool)
  /-- STR_CANCEL (R217): A write to STR_CANCEL ends the core's class 2 program or task as faulted and cancels its SIS streams. -/
  | strCancel (t c : Nat)
  /-- STR_XINV (R220): A write to STR_XINV empties the die's translation cache. -/
  | strXinv (t : Nat)
  /-- STR_XRESUME (R222): A write to STR_XRESUME clears VALID and requests release of the parked task. -/
  | strXresume (t c : Nat)
  /-- RESUME_PARKED (R222): At a tick edge with the return slot empty, a resumed parked task moves into the return slot. -/
  | resumeParked (t c : Nat)
  /-- TOKEN_REFILL (R215): Every 64 cycles each Teller bucket is refilled by TLR_RATE up to TLR_DEPTH. -/
  | tokenRefill (da : Nat)
  /-- TASK_STAGE (R179): The dispatcher fills its empty staging slot with the next task and releases its input stream. -/
  | taskStage (t c : Nat)
  /-- TASK_DISPATCH (R180): A ready task is dispatched as a class 2 START when no program occupies the core. -/
  | taskDispatch (t c : Nat)
  /-- TASK_OVERRUN (R181): A task still active at the edge ending tick dispatch + LATEST is ended and returned or discarded. -/
  | taskOverrun (t c : Nat)
  /-- STEAL_SEND (R183): A dispatcher with nothing to run sends a steal request to its next victim. -/
  | stealSend (t c : Nat)
  /-- BACKOFF (R183): After an empty steal round, the BACKOFF wait expires and a new round begins. -/
  | backoff (t c : Nat)
  /-- PROPOSAL_EXPIRY (R189): An adaptation proposal not audited within 64 ticks is discarded. -/
  | proposalExpiry (t c : Nat)
  /-- LAYER_READY (R190): Both transfers of an approved proposal into the inactive copies complete and the layer is ready. -/
  | layerReady (layer : Nat)
  /-- AUDIT_SAMPLE_DONE (R400): An audit sample finishes and the two run digests are compared. -/
  | auditSampleDone (t : Nat) (run audit : BitVec 64)
  /-- AUDIT_ABANDON (R399): An audit sample not finished by the end of its tick, or whose capture overflows, is abandoned. -/
  | auditAbandon (t : Nat) (overflow : Bool)
  /-- TIE_BREAK (R394): After a clearing mismatch, an auditor starts re-executing one entry's tick in the audit view. -/
  | tieBreak (cg : Nat)
  /-- TIE_BREAK_DONE (R395): A tie-break re-execution finishes and its digest decides which entry is charged. -/
  | tieBreakDone (cg : Nat) (digest : Option (BitVec 64))
  /-- TIE_BREAK_EXPIRY (R395): A tie-break not finished by the end of tick n + 2 is undecided. -/
  | tieBreakExpiry (cg : Nat)
  /-- AGING_MEASUREMENT (R409): Every 2^22 ticks aging monitors measure margins and the Keeper updates MARGIN and SLOPE. -/
  | agingMeasurement (da : Nat) (margins : List (Nat × Nat))
  /-- SERVICE_TICK_SAVE (R408): Every 2^16 ticks the Keeper writes the service tick to MRAM. -/
  | serviceTickSave
  /-- ATTESTATION_REPORT (R375): Mailbox OP 0x01 writes a signed attestation report to host memory. -/
  | attestationReport
  /-- RECOVERY_LOAD (R369): Mailbox OP 0x02 loads an image from host memory, optionally writing it to flash. -/
  | recoveryLoad
  /-- MAINTENANCE_STOP (R411): Mailbox OP 0x03 applies pending retirements by planned stretches or at once when disarmed. -/
  | maintenanceStop
  /-- LEDGER_COPY (R411): Mailbox OP 0x04 copies a unit's Ledger record to host memory. -/
  | ledgerCopy
  /-- SESSION_REQUEST (R341): A write to PCI_HIF_REQ negotiates and opens a host session. -/
  | sessionRequest (v : Word)
  /-- CLOSE (R341): CLOSE in PCI_HIF_CMD ends the host session. -/
  | close
  /-- KICK (R342): KICK in PCI_HIF_CMD restarts the host watchdog. -/
  | kick
  /-- WATCHDOG_EXPIRY (R342): PERIOD ms without a KICK closes the session and optionally disarms the tick. -/
  | watchdogExpiry
  /-- FLR (R336): A Function Level Reset closes the session, stops DMA and drops unissued BAR0 accesses. -/
  | flr
  /-- LINK_DOWN (R336): A PCI Express link-down event has the effects of a Function Level Reset. -/
  | linkDown
  /-- D3HOT (R336): Entry into D3hot has the effects of a Function Level Reset. -/
  | d3hot
  /-- PERST (R436): PERST_N resets only E6's PCI Express endpoint. -/
  | perst
  /-- EVENT_WRITE (R343): When the event ring has room, a held event is written and MSI-X vector 0 is signalled. -/
  | eventWrite
  /-- DMA_DESCRIPTOR (R340): A DMA channel processes its next descriptor, moves data and writes STATUS. -/
  | dmaDescriptor (ch : Nat) (ep err : List Nat)
  /-- BROADCAST_WRITE (R28): A BAR0 write to the broadcast window is delivered to the page in every populated, unretired die. -/
  | broadcastWrite (page off : Nat) (v : Word) (failing : List (Nat × Nat))
  /-- RX_FRAME (R347): An Ethernet frame arrives and is written to the head receive descriptor or dropped. -/
  | rxFrame (port : Nat) (frame : List Byte) (time : Word)
  /-- TX_POLL (R347): Every 1 µs E7 reads the head transmit descriptor and starts sending if OWN = 1. -/
  | txPoll (port : Nat)
  /-- TX_DONE (R347): A frame transmission completes and E7 writes the timestamp and clears OWN. -/
  | txDone (port : Nat) (time : Word)
  /-- SYNC_MESSAGE (R349): A gPTP Sync message arrives and the Pacer steers the reference clock toward the tick grid. -/
  | syncMessage (err : Int)
  /-- SYNC_TIMEOUT (R349): Three Sync intervals pass without Sync and the network source is lost. -/
  | syncTimeout
  /-- GATE_INTERVAL (R350): A gate control list interval expires and the next entry's gate states apply. -/
  | gateInterval (port : Nat)
  /-- FILTER_OUTPUT (R314): A sigma-delta decimation window ends and the main filter produces an output. -/
  | filterOutput (e ch : Nat) (bits : List Bool)
  /-- COMPARATOR_OUTPUT (R317): A comparator filter output is produced and the comparator may become active and trip its group. -/
  | comparatorOutput (e ch : Nat) (bits : List Bool)
  /-- UPDATE_POINT (R320): A carrier reaches an update point and pending PWM values become current. -/
  | updatePoint (e k : Nat) (half : Bool)
  /-- PWM_EDGE (R319): A carrier reaches a generator's ON, OFF or dead-time instant and its outputs change. -/
  | pwmEdge (e g j : Nat)
  /-- TRIP_INPUT (R325): A trip input becomes active and, after its filter, trips its stop groups and exported line. -/
  | tripInput (e n : Nat)
  /-- TRIP_LINE (R322): A trip line asserts and trips every stop group whose mask names it. -/
  | tripLine (k : Nat)
  /-- STOP_N (R327): STOP_N is held low from outside and the stop line trips every group. -/
  | stopN
  /-- STOP_SOURCE (R297): A declared fabric stop-source cell's input asserts and drives its trip line. -/
  | stopSource (f k : Nat)
  /-- RESET (R324): A RESET bit of EDG_SG_CMD or DLK_SG_CMD clears a group's trip if no source is asserted. -/
  | sgReset (e : Nat) (mask : BitVec 16)
  /-- FORCE (R322): A FORCE bit of EDG_SG_CMD or DLK_SG_CMD trips a group. -/
  | sgForce (e : Nat) (mask : BitVec 16)
  /-- ENCODER_TRIGGER (R330): At local cycle TRIG of a selected tick an encoder port drives its latch edge and starts a read. -/
  | encoderTrigger (e n : Nat) (dt : Bool)
  /-- ENCODER_READ_DONE (R330): An encoder read completes and its position, CRC and parity are checked. -/
  | encoderReadDone (e n : Nat) (bits : List Bool)
  /-- BLOCK_LOCK (R331): A drive-link lane sees 64 consecutive valid sync headers and starts sending CAPS. -/
  | blockLock (e n : Nat)
  /-- CAPS_SEND (R331): Every 1 µs a locked lane sends a CAPS block. -/
  | capsSend (e n : Nat)
  /-- CAPS (R331): A drive's CAPS block arrives and the device selects the link version. -/
  | caps (e n : Nat) (versions axes : Nat)
  /-- CAPS_TIMEOUT (R331): No CAPS within 10 ms sets the lane down and it retries. -/
  | capsTimeout (e n : Nat)
  /-- V2_LOCK_TIMEOUT (R331): Block lock at version 2 not reached within 100 µs returns the lane to version 1. -/
  | v2LockTimeout (e n : Nat)
  /-- LINK_LOSS (R331): 32 block times without a valid block assert link loss as a trip source of the lane. -/
  | linkLoss (e n : Nat)
  /-- SYNC (R332): 8 core cycles after each tick edge an up lane sends a SYNC block. -/
  | sync (e n : Nat)
  /-- FEEDBACK_FRAME (R332): A drive's feedback frame arrives whole and is kept or discarded by its CRC. -/
  | feedbackFrame (e n : Nat) (data : List Byte) (crc : Word)
  /-- TRIP_BLOCK (R333): A received TRIP block trips the lane's group and optionally drives a trip line. -/
  | tripBlock (e n : Nat) (reason : Nat)
  /-- STOP_REPEAT (R333): Every 64 blocks a tripped lane repeats its STOP block. -/
  | stopRepeat (e n : Nat)
  /-- DRAM_COMMIT (R264): A channel controller commits the next request to the DRAM command sequence by its service order. -/
  | dramCommit (ch : Nat) (done : List (List (List Nat)))
  /-- REQUEST_AGED (R264): A Q2 request that has waited AGE × 64 cycles becomes aged. -/
  | requestAged (ch i : Nat)
  /-- REFRESH_DUE (R271): Every 1,950 ns a refresh falls due and the refresh debt rises. -/
  | refreshDue (ch : Nat)
  /-- REFRESH_START (R271): The controller starts a refresh-class operation and lowers the debt. -/
  | refreshStart (ch : Nat)
  /-- NEIGHBOUR_REFRESH (R272): A queued neighbour refresh is granted and issued as DRFMab. -/
  | neighbourRefresh (ch : Nat)
  /-- ACTIVATE_TABLE_CLEAR (R272): Every 32 ms each bank's activate-count table is cleared. -/
  | activateTableClear (ch : Nat)
  /-- RAISE (R267): A real-time port writes RAISE to MCH_OVD to raise an overdraft. -/
  | ovdRaise (ch da sport : Nat)
  /-- OVERDRAFT_END (R268): A port writes END to MCH_OVD to end its granted overdraft. -/
  | overdraftEnd (ch da sport : Nat)
  /-- OVERDRAFT_GRANT (R268): A pending overdraft is granted when no other is granted and earlier Q1 requests are committed. -/
  | overdraftGrant (ch : Nat)
  /-- OVERDRAFT_EXPIRY (R268): A granted overdraft ends 800 ns after its grant. -/
  | overdraftExpiry (ch : Nat)
  /-- ALERT (R276): A module asserts ALERT_n and the controller stops, precharges and replays commands. -/
  | alert (ch : Nat)
  /-- REPLAY (R276): A command replay completes within 360 ns. -/
  | replay (ch : Nat) (ok : Bool)
  /-- PATROL_SCRUB (R279): The patrol scrub reads its next burst and writes back corrected or poisoned codewords. -/
  | patrolScrub (ch : Nat) (bad : List Nat)
  /-- MODULE_TEMPERATURE (R281): Every 16 ms the memory die reads the module's temperature and may set MOD_HOT. -/
  | moduleTemperature (ch : Nat) (degC : Int)
  /-- LOAD (R304): LOAD in FAB_REG_CMD starts verifying a fabric region variant. -/
  | fabLoad (f r v : Nat)
  /-- UNLOAD (R304): UNLOAD in FAB_REG_CMD isolates a region and leaves it absent. -/
  | fabUnload (f r : Nat)
  /-- VARIANT_VERIFIED (R304): A variant's segment is verified and the region's isolation begins, or VERIFY_FAIL is set. -/
  | variantVerified (f r : Nat) (read : Bool)
  /-- DRAIN_END (R304): The region's outstanding initiator requests drain and its tracks are gated and inputs clamped. -/
  | drainEnd (f r : Nat)
  /-- LOADING_DONE (R304): The configuration port finishes writing the variant and the region's release begins. -/
  | loadingDone (f r : Nat)
  /-- LOAD_TIMEOUT (R304): Loading not ended within 50 ms leaves the region failed. -/
  | loadTimeout (f r : Nat)
  /-- RELEASE_WAIT (R304): RELEASE_WAIT expires and the region's clamps lift and it runs. -/
  | releaseWait (f r : Nat)
  /-- CONFIG_SCRUB (R301): The scrubber reads a configuration word, correcting single errors or acting on double errors. -/
  | configScrub (f r : Nat) (word errs : Nat)
  /-- PORT_LATE (R295): A target port's logic exceeds RESP and PORT_LATE is set. -/
  | portLate (f port : Nat)
  /-- INITIATOR_REQUEST (R296): Region logic offers a request on a fabric initiator port, which sends it or refuses it by window and budget. -/
  | initiatorRequest (f port : Nat) (p : Packet)
  /-- PORT_RESPONSE (R294): Region logic returns the last beat of a response on a target port and the port sends it; `rsp` is RSP_PSN
  for each granule, or RSP_ERR (none). -/
  | portResponse (f port tag : Nat) (data : List Byte) (rsp : Option (List Bool))
  /-- GRANT (R420): At local cycle 1,400q + 256 the Mint grants each die its floor share and hungry dies the extra. -/
  | grant
  /-- QUANTUM_END (R425): At a quantum's end the Mint checks measured energy against the peak limit. -/
  | quantumEnd (energy mv amps : Nat)
  /-- BUCKET_UPDATE (R424): While disarmed, every 21,875 cycles the bucket is updated from measured energy. -/
  | bucketUpdate (energy mv amps : Nat)
  /-- REFUND (R125): A refund report reaches the Mint and is credited to the die's class 2 allowance. -/
  | refund (t : Nat) (units : Nat)
  /-- LIMIT (R426): A write to MNT_LIMIT sets a power limit from the next tick edge, or is refused. -/
  | limit (watts : BitVec 10)
  /-- SENSOR_READING (R427): Every 4 µs a die sends its hottest reading and the Pacer decides shed, warning, shutdown or cold. -/
  | sensorReading (da : Nat) (temps : List Int)
  /-- RAIL_UNDERVOLTAGE (R430): The intermediate rail stays below a threshold long enough to shed class 2 or shut down. -/
  | railUndervoltage (mv us : Nat)
  /-- PORST (R435): PORST_N low for 10 µs or more resets every die. -/
  | porst (us : Nat)
  /-- KEEPER_START (R437): PORST_N deasserts and the Keeper reads the Vault and Ledger, derives identity and starts the dies. -/
  | keeperStart
  /-- POWER_LOSS (R448): A supply rail is lost and all volatile state is lost. -/
  | powerLoss
  /-- SHUTDOWN (R445): SHUTDOWN in BST_CMD starts orderly shutdown with BIST. -/
  | shutdown
  /-- NOBIST (R445): SHUTDOWN with NOBIST halts the device without BIST within 30 ms. -/
  | nobist
  /-- BIST_GROUP_DONE (R447): A BIST group ends and the Keeper writes its signatures and charges differing blocks. -/
  | bistGroupDone (sigs : List BistSig)
  /-- RELOAD (R366): RELOAD in IMG_CMD starts a load of the flash image. -/
  | reload
  /-- ABORT (R368): ABORT in IMG_CMD stops a running load and refuses the image. -/
  | imgAbort
  /-- LOAD_STEP (R366): A step of the image load completes and the next begins. -/
  | loadStep (short : Option Nat)
  /-- LOAD_STEP_TIMEOUT (R366): A load step exceeds its timeout and the image is refused. -/
  | loadStepTimeout
  /-- FLASH_WRITE_DONE (R370): The flash write of a recovery load and its read-back comparison complete. -/
  | flashWriteDone (ok : Bool)
  /-- KEY_5A (R373): KEY 0x5A in VLT_PROG_CMD opens a Vault programming sequence. -/
  | key5a
  /-- KEY_A5 (R373): KEY 0xA5 within 1 ms starts blowing the fuses of the selected word. -/
  | keyA5 (us : Nat)
  /-- FUSE_PROGRAM_DONE (R373): Fuse blowing ends and the word read back sets DONE or FAIL. -/
  | fuseProgramDone (ok : Bool)
  /-- SRST (R449): SRST in CTRL returns the block's registers and state to reset values. -/
  | srst (da page : Nat)
  /-- MAX_CLR (R158): A CLR bit of a maximum-recording register sets MAX to its cleared value. -/
  | maxClr (da page off : Nat)
  /-- CLEARING_READ (R338): A read of a record register such as NI_ERR_INFO, PCI_BAR_ERR or MCH_ERR_HI clears its VALID. -/
  | clearingRead (da page off : Nat)
  /-- LATCHING_READ (R457): A read of a LO register latches its HI register. -/
  | latchingRead (da page off : Nat)
  /-- REGISTER_WRITE (R7): A write to a register without its own row applies under the field access codes. -/
  | registerWrite (da page off : Nat) (v : Word)
  /-- UNDERVOLTAGE_RECOVERY (R430): The intermediate rail has stayed above 1.74 V for 1 ms and class 2 leaves its undervoltage shed. -/
  | undervoltageRecovery
  /-- STOP_N_RELEASE (R327): STOP_N ceases to be held low from outside and the stop line is no longer asserted from it. -/
  | stopNRelease
  /-- TRIP_INPUT_INACTIVE (R325): A trip input leaves its active level, its LEVEL reads 0 and its filter count starts again. -/
  | tripInputInactive (e n : Nat)
  /-- STOP_SOURCE_RELEASE (R297): A declared fabric stop-source cell's input returns to 0 and its trip net deasserts. -/
  | stopSourceRelease (f k : Nat)
  /-- INVALID_BLOCK (R334): A drive-link lane receives an invalid or reserved-type block, which is counted and sets BLOCK_ERR. -/
  | invalidBlock (e n : Nat)
  /-- BLOCK_MEMORY_READ (R288): Region logic reads an ECC block memory, which corrects a single-bit error or flags a double-bit error, sets BRAM_CE or BRAM_UE and charges the Ledger. -/
  | blockMemoryRead (f r b row : Nat) (errs : Nat)
  /-- PORT_LINK_CHANGE (R346): An Ethernet port of E7 gains or loses its link, updating TSN_PORT_ST.LINK and setting LINK_DOWN on loss. -/
  | portLinkChange (port : Nat) (up : Bool)
  /-- PCIE_LINK_UP (R335): E6's PCI Express link completes training at the highest common speed and width. -/
  | pcieLinkUp (speed width : Nat)
  /-- TIMED_OUT_TAG_REUSE (R250): 2 × NI_TIMEOUT after a timeout, the tag it freed becomes available for reuse. -/
  | timedOutTagReuse (da port tag : Nat)
deriving DecidableEq, Repr

end Sys2Proof
end

