-- ==== Sys2Proof/Decode.lean ====
section
/-! DEFINITION. The commands that words spell: none, since no row of the table of operations and events gives bits. -/

namespace Sys2Proof

/-- The command that a word spells by the table's bits. Every row of the table is a step of the device, without bits. -/
def decodeTableWord (_nbits _w : Nat) : Option Instr := none

end Sys2Proof
end

