-- ==== Sys2Proof/Machine/Bits.lean ====
section
/-! DEFINITION. Bit fields, byte order (R6), sparse tables, sparse stores, and the two check codes of the chapters. -/

namespace Sys2Proof.Machine

/-! ### Fields -/

/-- Bits [hi:lo] of a number. -/
def bits (w hi lo : Nat) : Nat := (w / 2 ^ lo) % 2 ^ (hi + 1 - lo)

/-- Bit `n` of a number. -/
def bit (w n : Nat) : Bool := (w / 2 ^ n) % 2 == 1

/-- `w` with bits [hi:lo] replaced by the low bits of `v`. -/
def putBits (w hi lo v : Nat) : Nat :=
  let m := 2 ^ (hi + 1 - lo)
  w - bits w hi lo * 2 ^ lo + (v % m) * 2 ^ lo

/-- `w` with bit `n` set. -/
def setBit (w n : Nat) : Nat := if bit w n then w else w + 2 ^ n

/-- `w` with bit `n` cleared. -/
def clrBit (w n : Nat) : Nat := if bit w n then w - 2 ^ n else w

/-- The two's complement value of the low `n` bits. -/
def sext (n w : Nat) : Int :=
  let v := w % 2 ^ n
  if v < 2 ^ (n - 1) then (v : Int) else (v : Int) - (2 ^ n : Nat)

/-- The low `n` bits of an integer. -/
def wrap (n : Nat) (i : Int) : Nat := (i % (2 ^ n : Nat)).toNat

def boolNat (b : Bool) : Nat := if b then 1 else 0

/-- The number of set bits among the low `n`. -/
def popcount (n w : Nat) : Nat := ((List.range n).filter fun i => bit w i).length

/-- The lowest set bit among the low `n`. -/
def lowestBit (n w : Nat) : Option Nat := (List.range n).find? fun i => bit w i

/-- A list of flags as a number, element 0 in bit 0. -/
def packBits : List Bool → Nat
  | [] => 0
  | b :: r => boolNat b + 2 * packBits r

/-- Elements of `width` bits packed upwards from bit 0. -/
def packFields (width : Nat) : List Nat → Nat
  | [] => 0
  | v :: r => v % 2 ^ width + 2 ^ width * packFields width r

/-! ### Byte order (R6) -/

/-- `n` bytes of a number, byte 0 first. -/
def leBytes : Nat → Nat → List Byte
  | 0, _ => []
  | n + 1, w => BitVec.ofNat 8 w :: leBytes n (w / 256)

/-- The number that bytes spell, byte 0 first. -/
def leNat : List Byte → Nat
  | [] => 0
  | b :: r => b.toNat + 256 * leNat r

/-- `n` bytes of a number, most significant first. -/
def beBytes (n w : Nat) : List Byte := (leBytes n w).reverse

/-- `l` cut or filled with zeros to `n` bytes. -/
def fit (n : Nat) (l : List Byte) : List Byte := (l ++ List.replicate n 0).take n

/-- The 32-bit word at byte `off` of a byte list. -/
def word32At (l : List Byte) (off : Nat) : Nat := leNat ((l.drop off).take 4)

/-- `l` with the bytes `v` in place from `off` on; the length is unchanged. -/
def spliceBytes (l : List Byte) (off : Nat) (v : List Byte) : List Byte :=
  (l.take off ++ v ++ l.drop (off + v.length)).take l.length

/-! ### Sparse tables -/

variable {α : Type}

/-- The entry at `k`. -/
def tget? : Table α → Nat → Option α
  | [], _ => none
  | (j, v) :: r, k => if j = k then some v else tget? r k

/-- The entry at `k`, `d` where the table lists none. -/
def tget (t : Table α) (k : Nat) (d : α) : α := (tget? t k).getD d

/-- `t` with entry `k` set, keys kept rising. -/
def tput : Table α → Nat → α → Table α
  | [], k, v => [(k, v)]
  | (j, w) :: r, k, v =>
    if k < j then (k, v) :: (j, w) :: r else if k = j then (k, v) :: r else (j, w) :: tput r k v

/-- `t` without entry `k`. -/
def tdel (t : Table α) (k : Nat) : Table α := t.filter fun x => x.1 != k

/-- `t` with the value at `k` set, or with the entry removed where the value is the default: the one canonical form. -/
def tputD [DecidableEq α] (d : α) (t : Table α) (k : Nat) (v : α) : Table α :=
  if v = d then tdel t k else tput t k v

/-- Keys strictly rising. -/
def tsorted : Table α → Bool
  | [] => true
  | [_] => true
  | (j, _) :: (k, w) :: r => decide (j < k) && tsorted ((k, w) :: r)

/-! ### Rising sets of numbers -/

def nadd : List Nat → Nat → List Nat
  | [], k => [k]
  | j :: r, k => if k < j then k :: j :: r else if k = j then j :: r else j :: nadd r k

def ndel (l : List Nat) (k : Nat) : List Nat := l.filter fun j => j != k

/-- The set with `k` in it or not. -/
def nset (l : List Nat) (k : Nat) (on : Bool) : List Nat := if on then nadd l k else ndel l k

/-! ### Check codes -/

/-- One bit of a most-significant-first CRC of width `n`. -/
def crcStep (n poly crc : Nat) (b : Bool) : Nat :=
  let top := bit crc (n - 1)
  let sh := (crc * 2) % 2 ^ n
  if top != b then sh ^^^ poly else sh

/-- A most-significant-first CRC over bytes. -/
def crcMsb (n poly init : Nat) (l : List Byte) : Nat :=
  l.foldl (fun c b => [7, 6, 5, 4, 3, 2, 1, 0].foldl (fun c i => crcStep n poly c (bit b.toNat i)) c) init

/-- CRC-64 of R234: the ECMA-182 polynomial, initial value all ones, result inverted. -/
def crc64 (l : List Byte) : Nat := crcMsb 64 0x42F0E1EBA9EA3693 (2 ^ 64 - 1) l ^^^ (2 ^ 64 - 1)

/-- One bit of a least-significant-first CRC-32. -/
def crc32Step (crc : Nat) (b : Bool) : Nat :=
  if bit crc 0 != b then (crc / 2) ^^^ 0xEDB88320 else crc / 2

/-- CRC-32 of the IEEE 802.3 frame check sequence (R332, R406). -/
def crc32 (l : List Byte) : Nat :=
  l.foldl (fun c b => (List.range 8).foldl (fun c i => crc32Step c (bit b.toNat i)) c) 0xFFFFFFFF ^^^ 0xFFFFFFFF

end Sys2Proof.Machine
end

