-- ==== Sys2Proof/Config.lean ====
section
/-! DEFINITION. What an implementation fixes and the values the spec leaves open: constants without a body, of which
nothing can be proved. The argument `n` of a free value is the model's counter of draws (`State.free`). -/

namespace Sys2Proof.Config

/-- A byte the spec does not state (notes/assumptions/2.md). -/
opaque freeByte : Nat → Byte

/-- A natural number the spec does not state. -/
opaque freeNat : Nat → Nat

/-- A choice the spec leaves open. -/
opaque freeBool : Nat → Bool

/-- A value, and a choice, that the spec leaves open and that R96 makes the same in every execution: they depend on the listed
operands alone (notes/assumptions/36.md, 37.md, 65.md). -/
opaque openNat : List Nat → Nat
opaque openBool : List Nat → Bool

end Sys2Proof.Config

namespace Sys2Proof

/-- A fabric port that a region's configuration declares (R293, R295, R296): `port` is 0 to 63 for a target port, 64 + n
for initiator port n; `cls` is 3 for a target port; `value` is RESP or BUDGET; `spaces` are the DA and SPACE code of each space that the
logic can address through an initiator port. -/
structure PortDecl where
  port : Nat
  cls : Nat
  track : Nat
  value : Nat
  wstart : Nat
  wend : Nat
  spaces : List (Nat × Nat) := []
deriving DecidableEq, Repr, Inhabited

/-- A declared stop-source cell (R297, R298, R326). -/
structure CellDecl where
  cell : Nat
  clampOff : Bool
  line : Nat
deriving DecidableEq, Repr, Inhabited

/-- A signal that a configuration connects to an input of a region's logic. Cells are numbered 4,375 · column + row (R283), block
memories 0 to 149. `ram`: a bit of the word that a port of a block memory gives; `slot`: a slot of the boundary to the left or to the
right; `strobe`: a strobe by code and group (R292); `outside`: a signal of a fabric port, whose value no rule gives. -/
inductive Signal where
  | const (v : Bool)
  | o6 (c : Nat)
  | o5 (c : Nat)
  | ci (c : Nat)
  | co (c : Nat)
  | sum (c : Nat)
  | fa (c : Nat)
  | fb (c : Nat)
  | ram (b : Nat) (portB : Bool) (i : Nat)
  | ded (b : Nat)
  | slot (left : Bool) (n : Nat)
  | strobe (code arg : Nat)
  | sigTag (i : Nat)
  | outside (n : Nat)
deriving DecidableEq, Repr, Inhabited

/-- A cell (R284): the truth table, dual mode, the inputs I0 to I5, the CI of a bottom cell (none: I5), what FA takes (O6 or SUM) and FB
(O5 or a bypass input), the clock enables, which of the group's two clocks each takes, the INIT values. -/
structure CellCfg where
  lut : BitVec 64
  dual : Bool
  ins : List Signal
  bottom : Option Bool
  faSum : Bool
  bypass : Option Signal
  enA : Signal
  enB : Signal
  clkA : Bool
  clkB : Bool
  initA : Bool
  initB : Bool
deriving DecidableEq, Repr, Inhabited

/-- What the 16 cells of a group share (R284): two tracks, the reset line and whether it is asynchronous. -/
structure CellGroup where
  trackA : Nat
  trackB : Nat
  reset : Signal
  async : Bool
deriving DecidableEq, Repr, Inhabited

/-- A port of a block memory (R286): its track, its width, read-first or write-first, enables, address and data inputs from bit 0 on. -/
structure RamPort where
  track : Nat
  width : Nat
  readFirst : Bool
  en : Signal
  we : Signal
  addr : List Signal
  data : List Signal
deriving DecidableEq, Repr, Inhabited

/-- A block memory (R286, R288): its ports; the 512 × 72 ratio writes by port A and reads by port B, with ECC or without. -/
structure RamCfg where
  a : RamPort
  b : RamPort
  simple : Bool
  ecc : Bool
deriving DecidableEq, Repr, Inhabited

/-- A clamp (R305). -/
inductive Clamp where
  | zero | one | holdLast
deriving DecidableEq, Repr, Inhabited

/-- A slot of a boundary as one of its two regions declares it (R305): the clamp, the signal that the region puts on it, whether the
region uses it, and the track by which it samples it. -/
structure SlotCfg where
  clamp : Clamp
  drive : Option Signal
  used : Bool
  track : Nat
deriving DecidableEq, Repr, Inhabited

/-- What a region's configuration declares (R302): ports, stop-source cells, input and output groups, track settings
(source, divider), RELEASE_WAIT with the strobe track, and the block memories that it uses. -/
structure RegionDecl where
  ports : List PortDecl
  cells : List CellDecl
  inGroups : List Nat
  outGroups : List Nat
  tracks : List (Nat × Nat)
  releaseWait : Nat
  strobeTrack : Nat
  brams : List Nat
deriving DecidableEq, Repr, Inhabited

/-- A configuration that declares nothing. -/
def RegionDecl.empty : RegionDecl := ⟨[], [], [], [], [], 0, 0, []⟩

end Sys2Proof

namespace Sys2Proof.Config

/-- What the bytes of a region's configuration segment declare. The spec gives the segment's contents (R302) and not its
encoding (notes/assumptions/30.md). -/
opaque regionDecl : List Byte → RegionDecl

/-- What the bytes of a configuration make of a cell, of a group of 16 cells, of a block memory with its initial rows, and of a slot of
the left or of the right boundary. -/
opaque cellCfg : List Byte → Nat → CellCfg
opaque cellGroup : List Byte → Nat → CellGroup
opaque ramCfg : List Byte → Nat → RamCfg
opaque ramInit : List Byte → Nat → Nat → BitVec 36
opaque slotCfg : List Byte → Bool → Nat → SlotCfg

/-- The gPTP time in ns that E7 keeps at a core cycle from PORST_N on (R348); it comes from the network (notes/assumptions/25.md). -/
opaque gptpTime : Nat → Nat

/-- A signal of the region logic that the spec gives no value: at a time, in a fabric die and region, by number. -/
opaque logicSignal : Nat → Nat → Nat → Nat → Bool

/-- The 8 check bits of 64 data bits of a block memory (R288); the spec does not name the code. -/
opaque ramCheck : BitVec 64 → BitVec 8

/-- The secret number of an ECDSA signature: of a private key, a digest, and a count of tries (R375, notes/assumptions/132.md). -/
opaque nonce : Nat → List Byte → Nat → Nat

/-! The Keeper's proof of a tick program (notes/assumptions/9.md). -/

/-- What the Keeper computes from the code of a program (R55, R136, R360, R416): worst-case execution time and longest
non-interruptible span in cycles, demand in coins, packets it sends, bytes of DRAM its streams move, with every multiply run and every GATE at KMAX (R123). How the units' times
add up along a path is not stated as a computation (notes/assumptions/9.md). -/
structure CodeBound where
  wcet : Nat
  span : Nat
  coins : Nat
  netPkts : Nat
  dramB : Nat
deriving DecidableEq, Repr, Inhabited

/-- The bounds of the program in segment `i` of the image with these segment digests. -/
opaque codeBound : List (List Byte) → Nat → CodeBound

/-- R136: the Keeper proves the addresses of a store and a load of a program distinct: the program's segment digest and the word
indexes of the two. -/
opaque apart : List Byte → Nat → Nat → Bool

/-- R122: the GATE that a COUNT from a register derives from, by the word indexes of the repeat and of the GATE in the program of a
segment; and the greatest value of one that derives from none, as the Keeper's dataflow finds it. -/
opaque gateOf : List Byte → Nat → Option Nat
opaque countBound : List Byte → Nat → Nat

/-- R122: the Keeper bounds every count and branch condition that the program of a segment derives from a GATE result by its
KMAX, and the program issues no command for an expert outside its bounded loop body. -/
opaque gateBounded : List Byte → Bool

/-- R21, R55 item 6: every network bound of the image with these segment digests holds under a binding (the physical die of
each logical die) with a failed link. -/
opaque networkOk : List (List Byte) → List (Option Nat) → Option Nat → Bool

/-- R56, R247: the cycles that a packet of a class, source die and port, and destination die can wait behind packets of its own class, in
credit stalls, and of class 1 behind class 0 and R0 packets: the image's segment digests, the binding and the failed element, the packet. -/
opaque queueing : List (List Byte) → List (Option Nat) × Option Nat → List Nat → Nat

/-- R44, R209: how many arrivals at a tally the program of a START has surely posted so many cycles after its AT: the image's segment
digests; the logical die, the logical core and the program index of the START, the logical die and the index of the tally; the cycles. -/
opaque programArrivals : List (List Byte) → List Nat → Nat → Nat

/-- R55 item 7: the program of a START can read a byte of a stream's destination: the image's segment digests; die, core and descriptor of
the stream, and die, core and program of the START. -/
opaque consumes : List (List Byte) → List Nat → Bool

/-- R211: the sum of Q over the die-store beats of a class 0 or class 1 stream: the image's segment digests and the number of the
stream's core and descriptor. -/
opaque bankDemand : List (List Byte) → Nat → Nat

/-- R384: the state-range granules that the programs of a clearing group can write: the image's segment digests and the group. -/
opaque dirtyGranules : List (List Byte) → Nat → Nat

/-- What the Keeper's proof of the loaded image finds (R55, R136, R360, R366): the payloads of the segments, the physical
die of each logical die, the failed link. None, or a refusal code with a segment. -/
opaque loadProof : List (List Byte) → List (Option Nat) → Option Nat → Option (Nat × Nat)

end Sys2Proof.Config
end

