-- ==== Sys2Proof/Machine/Pages.lean ====
section
/-! DEFINITION. The register pages of the BAR0 window: which page holds which block (R25, R455), and every register's
fields with access code and reset value, as the register tables of each chapter give them (R7, R8). -/

namespace Sys2Proof.Machine

/-- The block a register page serves (R25, R455). -/
inductive Blk where
  | ni | noc | agr | bst | thm | thmAgg | strDie | tlr | aud | seq | mq | vec | str | fab | fabDie | mch
  | edg | pwm | sdi | enc | dlk | pci | tsn | img | vlt | ldg | prc | tkc | ttb | mnt
deriving DecidableEq, Repr

/-- The register access codes of R7. -/
inductive Acc where
  | rw | ro | w1c | wo | rwl
deriving DecidableEq, Repr

/-- One field of a register: bits [hi:lo], its access code and its reset value. -/
structure Fld where
  hi : Nat
  lo : Nat
  acc : Acc
  reset : Nat
deriving DecidableEq, Repr

/-- The kind of die at a die address (R12). -/
inductive DieKind where
  | tile | fabric | memory | driveEdge | linkEdge | pcie | tsnEdge | keeper | pacer
deriving DecidableEq, Repr

/-- R12: the placement of the die kinds on the 10 by 10 mesh, DA = (y << 4) | x. -/
def dieKind (da : Nat) : Option DieKind :=
  let x := da % 16
  let y := da / 16
  if 10 ≤ x ∨ 10 ≤ y then none
  else if y = 0 then
    if x < 4 then some .driveEdge else if x = 4 then some .keeper else if x = 5 then some .pacer
    else if x < 8 then some .linkEdge else if x = 8 then some .pcie else some .tsnEdge
  else if 2 ≤ y ∧ y < 8 then some .tile
  else if x = 0 ∨ x = 9 then some .memory else some .fabric

/-- R12: the DA of physical tile die Tt. -/
def tileDA (t : Nat) : Nat := (2 + t / 10) * 16 + t % 10

/-- R12: the physical tile die at a DA (meaningful on tile dies). -/
def tileOfDA (da : Nat) : Nat := (da / 16 - 2) * 10 + da % 16

/-- The DA of fabric die Ff (R12). -/
def fabricDA (f : Nat) : Nat :=
  if f < 8 then 0x11 + f else if f < 16 then 0x81 + (f - 8) else 0x91 + (f - 16)

/-- The DA of memory die Mi (R12). -/
def memoryDA (i : Nat) : Nat := [0x10, 0x19, 0x80, 0x89, 0x90, 0x99].getD i 0

def keeperDA : Nat := 0x04
def pacerDA : Nat := 0x05
def pcieDA : Nat := 0x08
def tsnDA : Nat := 0x09

/-- Every die address of the package, in increasing order (R12). -/
def allDAs : List Nat := (List.range 100).map fun i => (i / 10) * 16 + i % 10

/-- R12: hop distance of two dies. -/
def hopDist (a b : Nat) : Nat :=
  let d := fun (p q : Nat) => if p ≤ q then q - p else p - q
  d (a % 16) (b % 16) + d (a / 16) (b / 16)

/-- R25: the block that page index `page` holds on a die of kind `k`, or none where the die does not populate it. -/
def blkOn (k : DieKind) (page : Nat) : Option Blk :=
  if page = 0 then some .ni else if page = 1 then some .noc else if page = 2 then some .agr
  else if page = 3 then some .bst else if page = 4 then some .thm
  else match k with
    | .tile =>
      if page = 0x08 then some .strDie else if page = 0x09 then some .tlr else if page = 0x0A then some .aud
      else if 0x10 ≤ page ∧ page < 0xA0 then
        match page % 16 with
        | 0 => some .seq | 1 => some .mq | 2 => some .vec | 3 => some .str | _ => none
      else none
    | .fabric =>
      if page = 0x09 then some .tlr else if 0xA0 ≤ page ∧ page < 0xB0 then some .fab
      else if page = 0xB0 then some .fabDie else none
    | .memory => if page = 0xC0 ∨ page = 0xC1 then some .mch else none
    | .driveEdge =>
      if page = 0x09 then some .tlr else if page = 0xC8 then some .edg else if page = 0xC9 then some .pwm
      else if page = 0xCA then some .sdi else if page = 0xCB then some .enc else none
    | .linkEdge => if page = 0x09 then some .tlr else if page = 0xCC then some .dlk else none
    | .pcie => if page = 0x09 then some .tlr else if page = 0xCD then some .pci else none
    | .tsnEdge => if page = 0x09 then some .tlr else if page = 0xCE then some .tsn else none
    | .keeper =>
      if page = 0xD0 then some .img else if page = 0xD1 then some .vlt else if page = 0xD2 then some .ldg else none
    | .pacer =>
      if page = 0xE0 then some .prc else if page = 0xE1 then some .tkc else if page = 0xE2 then some .ttb
      else if page = 0xE3 then some .mnt else if page = 0xE4 then some .thmAgg else none

/-- R26: the block at a DA and page index, none where it is unpopulated. -/
def blkAt (da page : Nat) : Option Blk := (dieKind da).bind fun k => blkOn k page

/-- R455: TYPE codes of the page types. -/
def Blk.typeCode : Blk → Nat
  | .tkc => 0x01 | .ttb => 0x02 | .mq => 0x03 | .seq => 0x04 | .vec => 0x05 | .str => 0x06 | .strDie => 0x06
  | .tlr => 0x07 | .noc => 0x08 | .ni => 0x09 | .mch => 0x0A | .agr => 0x0B | .fab => 0x0C | .fabDie => 0x0C
  | .prc => 0x0D | .edg => 0x0E | .pwm => 0x0F | .sdi => 0x10 | .enc => 0x11 | .dlk => 0x12 | .pci => 0x13
  | .tsn => 0x14 | .img => 0x15 | .vlt => 0x16 | .ldg => 0x17 | .aud => 0x18 | .mnt => 0x19 | .thm => 0x1A
  | .thmAgg => 0x1A | .bst => 0x1B

/-- R449: CAPS.LOCKABLE, the page has RWL fields outside CTRL. -/
def Blk.lockable : Blk → Bool
  | .ni | .tlr | .aud | .seq | .vec | .str | .fab | .fabDie | .mch | .edg | .pwm | .sdi | .enc | .dlk | .tsn
  | .tkc | .mnt => true
  | _ => false

/-- R449: CAPS.INJ, FAULT_INJECT has fields (MQ, NOC and MCH pages). -/
def Blk.injects : Blk → Bool
  | .mq | .noc | .mch => true
  | _ => false

/-- R449: PAGE_ID.INSTANCE. -/
def Blk.instanceOf (b : Blk) (page : Nat) : Nat :=
  match b with
  | .seq | .mq | .vec | .str => page / 16 - 1
  | .fab => page - 0xA0
  | .mch => page - 0xC0
  | .strDie | .fabDie | .thmAgg => 0xFF
  | _ => 0

/-- R405: the LEDGER_REF of a DA, unit kind and instance. -/
def ledgerRef (da kind inst : Nat) : Nat := da * 0x1000000 + kind * 0x10000 + inst

/-- R405, R449: the LEDGER_REF in a page's header; a page with no unit of its own names the whole die. -/
def Blk.unitRef (b : Blk) (da page : Nat) : Nat :=
  match b with
  | .mq => ledgerRef da 0x01 (4 * (page / 16 - 1))
  | .seq | .vec | .str => ledgerRef da 0x02 (page / 16 - 1)
  | .strDie | .aud => ledgerRef da 0x04 0
  | .ni | .noc => ledgerRef da 0x05 0
  | .mch => ledgerRef da 0x08 (page - 0xC0)
  | .fab => ledgerRef da 0x0B (page - 0xA0)
  | _ => ledgerRef da 0x0C 0

/-! ### Field tables -/

/-- A read-write field that resets to `r`. -/
def rw (hi lo : Nat) (r : Nat := 0) : Fld := ⟨hi, lo, .rw, r⟩
def ro (hi lo : Nat) (r : Nat := 0) : Fld := ⟨hi, lo, .ro, r⟩
def w1c (hi lo : Nat) : Fld := ⟨hi, lo, .w1c, 0⟩
def wo (hi lo : Nat) : Fld := ⟨hi, lo, .wo, 0⟩
def rwl (hi lo : Nat) (r : Nat := 0) : Fld := ⟨hi, lo, .rwl, r⟩

/-- The number of defined FAULT bits of a page, counted from bit 0 (owning chapters). -/
def Blk.faultBits : Blk → Nat
  | .ni => 4 | .noc => 4 | .agr => 0 | .bst => 2 | .thm => 1 | .thmAgg => 3 | .strDie => 2 | .tlr => 0 | .aud => 4
  | .seq => 5 | .mq => 4 | .vec => 6 | .str => 4 | .fab => 6 | .fabDie => 4 | .mch => 8 | .edg => 5 | .pwm => 0
  | .sdi => 1 | .enc => 1 | .dlk => 6 | .pci => 9 | .tsn => 3 | .img => 4 | .vlt => 2 | .ldg => 2 | .prc => 1
  | .tkc => 7 | .ttb => 0 | .mnt => 5

/-- R82, R257, R282: the fields of FAULT_INJECT where the page has them. -/
def Blk.injectFields : Blk → List Fld
  | .mq => [rw 1 0, rw 7 2, rw 12 8, rw 17 13, rw 18 18]
  | .noc => [rw 1 0, rw 2 2]
  | .mch => [rw 1 0, rw 5 2, rw 6 6]
  | _ => []

/-- The common header, offsets 0x000 to 0x024 (R449). FAULT of the DLK page skips bit 4's EDG meaning; both are W1C. -/
def headerFields (b : Blk) (off : Nat) : List Fld :=
  match off with
  | 0x000 => [ro 7 0, ro 15 8, ro 23 16]
  | 0x004 => [ro 7 0, ro 15 8 2]
  | 0x008 => [ro 0 0, ro 1 1]
  | 0x00C => [rwl 0 0 1, wo 1 1, rwl 2 2]
  | 0x010 => [ro 0 0 1, ro 1 1, ro 2 2, ro 3 3]
  | 0x014 => if b.faultBits = 0 then [] else [w1c (b.faultBits - 1) 0]
  | 0x018 => [rw 31 0]
  | 0x01C => b.injectFields
  | 0x020 => [ro 31 0]
  | 0x024 => [ro 31 0]
  | _ => []

/-- `off` names a word of an array register: offsets `base + stride * i`, `i < n`. -/
def inArr (off base stride n : Nat) : Bool :=
  decide (base ≤ off ∧ off < base + stride * n ∧ (off - base) % stride = 0)

def tkcFields (off : Nat) : List Fld :=
  match off with
  | 0x040 => [rwl 15 0 0x5573] | 0x044 => [rwl 11 0 0x578] | 0x048 => [rwl 11 0] | 0x04C => [rwl 5 0 8]
  | 0x050 => [rw 0 0] | 0x054 => [wo 0 0, wo 1 1] | 0x058 => [ro 1 0, ro 2 2] | 0x05C => [ro 31 0]
  | 0x060 => [ro 31 0] | 0x064 => [ro 14 0, ro 23 16, ro 25 24] | 0x068 => [ro 31 0] | _ => []

def ttbFields (off : Nat) : List Fld :=
  match off with
  | 0x040 => [ro 15 0] | 0x044 => [ro 0 0] | 0x048 => [ro 15 0] | 0x04C => [rw 14 0] | 0x050 => [ro 31 0]
  | 0x054 => [ro 31 0] | 0x058 => [ro 31 0] | 0x05C => [ro 31 0] | 0x060 => [ro 15 0] | _ => []

def mqFields (off : Nat) : List Fld :=
  match off with
  | 0x040 => [ro 2 0, ro 3 3, ro 4 4, ro 8 5, ro 12 9, ro 14 13 3, ro 18 15] | 0x044 => [ro 31 0] | 0x048 => [ro 31 0]
  | 0x04C => [ro 1 0, ro 2 2, ro 3 3, ro 4 4, ro 5 5, ro 6 6, ro 13 8, ro 23 16] | 0x050 => [ro 31 0]
  | 0x054 => [ro 31 0] | 0x058 => [ro 31 0] | 0x05C => [ro 31 0] | _ => []

def seqFields (off : Nat) : List Fld :=
  match off with
  | 0x040 => [ro 1 0 3, ro 2 2, ro 3 3, ro 4 4, ro 5 5, ro 6 6, ro 7 7, ro 8 8]
  | 0x044 => [ro 16 0] | 0x048 => [ro 16 0] | 0x04C => [ro 16 0]
  | 0x050 => [w1c 3 0] | 0x054 => [w1c 3 0] | 0x058 => [w1c 3 0] | 0x05C => [w1c 6 0]
  | 0x060 => [rwl 7 0, rwl 16 8] | 0x064 => [rwl 7 0, rwl 16 8] | 0x068 => [rwl 7 0, rwl 16 8]
  | 0x06C => [rw 0 0, rw 1 1] | 0x070 => [ro 31 0] | 0x074 => [ro 31 0] | 0x078 => [ro 31 0] | 0x07C => [ro 31 0]
  | 0x080 => [ro 31 0] | 0x084 => [ro 15 0, wo 31 31] | 0x088 => [ro 16 0, ro 18 17] | _ => []

def vecFields (off : Nat) : List Fld :=
  match off with
  | 0x040 => [rwl 7 0, rwl 15 8] | 0x044 => [ro 30 0] | 0x048 => [rwl 14 0, rwl 24 16]
  | 0x04C => [rw 0 0, rw 1 1, rw 4 2 4, rw 15 8 0x10] | 0x050 => [rwl 31 0 0xFFFFFFFF]
  | 0x054 => [ro 31 0] | 0x058 => [ro 31 0] | 0x05C => [ro 31 0] | 0x060 => [ro 31 0] | 0x064 => [ro 31 0] | _ => []

def strFields (off : Nat) : List Fld :=
  match off with
  | 0x040 => [rwl 7 0, rwl 20 8] | 0x044 => [ro 17 0] | 0x048 => [ro 31 0] | 0x04C => [wo 0 0] | 0x050 => [ro 31 0]
  | 0x054 => [ro 31 0] | 0x058 => [ro 17 0] | 0x05C => [wo 0 0] | 0x060 => [ro 17 0] | 0x064 => [ro 31 0] | _ => []

def strDieFields (off : Nat) : List Fld :=
  match off with
  | 0x040 => [rw 31 16] | 0x044 => [rw 9 0] | 0x048 => [rw 0 0] | 0x04C => [wo 0 0] | 0x050 => [rw 9 0]
  | 0x054 => [ro 31 0] | 0x058 => [ro 1 0] | 0x05C => [ro 7 0, wo 31 31] | _ => []

def tlrFields (off : Nat) : List Fld :=
  match off with
  | 0x040 => [rwl 15 0] | 0x044 => [rwl 15 0] | 0x048 => [rwl 15 0] | 0x04C => [rw 3 0]
  | 0x050 => [ro 31 0] | 0x054 => [ro 31 0] | 0x058 => [ro 31 0] | _ => []

def niFields (off : Nat) : List Fld :=
  match off with
  | 0x040 => [rwl 11 0 0x010] | 0x044 => [ro 10 0] | 0x048 => [rw 11 0] | 0x04C => [ro 31 0] | 0x050 => [ro 31 0]
  | 0x054 => [ro 31 0] | 0x058 => [ro 31 0] | 0x05C => [ro 8 0] | 0x060 => [ro 21 0, ro 31 31] | 0x064 => [ro 31 0]
  | 0x068 => [ro 31 0]
  | _ => if inArr off 0x100 4 56 then [ro 5 0, ro 8 8] else []

def nocFields (off : Nat) : List Fld :=
  if inArr off 0x040 4 4 then [ro 1 0, ro 4 2, ro 7 5, ro 15 8 0xFF]
  else if inArr off 0x050 4 16 then [ro 31 0]
  else if off = 0x090 then [ro 7 0, wo 31 31] else []

def mchFields (off : Nat) : List Fld :=
  match off with
  | 0x040 => [ro 5 0] | 0x044 => [ro 9 0] | 0x048 => [rwl 2 0 2] | 0x04C => [rwl 7 0 0x10] | 0x050 => [rwl 15 0 0x1000]
  | 0x054 => [rwl 7 0 0x18] | 0x058 => [ro 31 0 0xFFFFFFFF] | 0x05C => [wo 0 0, wo 1 1]
  | 0x080 => [ro 31 0] | 0x084 => [ro 31 0] | 0x088 => [ro 31 0] | 0x08C => [ro 31 0] | 0x090 => [ro 31 0]
  | 0x094 => [ro 31 6] | 0x098 => [ro 10 0, ro 31 31] | 0x09C => [ro 2 0, wo 31 31] | 0x0A0 => [ro 15 0, wo 31 31]
  | _ => if inArr off 0x060 4 8 then [rwl 7 0, rwl 11 8, rwl 12 12] else []

def fabFields (off : Nat) : List Fld :=
  match off with
  | 0x040 => [ro 7 0] | 0x044 => [wo 0 0, wo 1 1, wo 4 2] | 0x048 => [rw 4 0] | 0x04C => [rwl 1 0 3, rwl 10 2 1]
  | 0x050 => [ro 31 0] | 0x054 => [ro 31 0] | 0x058 => [ro 31 0] | _ => []

def fabDieFields (off : Nat) : List Fld :=
  match off with
  | 0x040 => [ro 23 0] | 0x044 => [rwl 9 0 0x190, ro 10 10] | 0x048 => [rwl 9 0 0x190, ro 10 10] | 0x04C => [rw 6 0]
  | 0x050 => [ro 4 0, ro 6 5 3, ro 23 7] | 0x054 => [ro 31 0] | 0x058 => [ro 31 0] | 0x05C => [ro 31 0]
  | 0x060 => [ro 31 0] | 0x064 => [ro 23 0] | _ => []

def edgFields (off : Nat) : List Fld :=
  match off with
  | 0x040 => [ro 15 0 0xFFFF, ro 16 16 1] | 0x044 => [wo 15 0, wo 31 16] | 0x048 => [ro 3 0, ro 15 8, ro 31 16]
  | 0x04C => [ro 31 0] | 0x050 => [rw 4 0]
  | _ =>
    if inArr off 0x054 4 8 then [rwl 31 0] else if inArr off 0x080 4 16 then [rwl 31 0]
    else if inArr off 0x0C0 4 16 then [rwl 15 0]
    else if inArr off 0x100 4 16 then [rwl 0 0, rwl 1 1, rwl 6 2, rwl 15 8, ro 16 16] else []

def sdiFields (off : Nat) : List Fld :=
  match off with
  | 0x060 => [rw 5 0]
  | 0x064 => [rwl 2 0, rwl 3 3, rwl 7 4, rwl 16 8, rwl 21 17, rwl 24 22, rwl 28 25, rwl 29 29]
  | 0x068 => [rwl 31 0] | 0x06C => [rwl 31 0] | 0x070 => [ro 31 0] | 0x074 => [ro 1 0]
  | _ => if inArr off 0x040 4 8 then [rwl 8 0] else []

def pwmFields (off : Nat) : List Fld :=
  match off with
  | 0x060 => [rw 5 0] | 0x064 => [rwl 0 0, rwl 2 1, rwl 6 3, rwl 8 7, rwl 10 9] | 0x068 => [rwl 15 0, rwl 31 16]
  | 0x06C => [ro 23 0, ro 25 24] | 0x070 => [ro 23 0]
  | _ =>
    if inArr off 0x040 8 4 then [rwl 1 0, rwl 6 2, rwl 7 7] else if inArr off 0x044 8 4 then [rwl 23 0] else []

def encFields (off : Nat) : List Fld :=
  match off with
  | 0x040 => [rw 3 0] | 0x044 => [rwl 13 0, rwl 19 14, rwl 20 20, rwl 23 21, rwl 25 24, rwl 26 26]
  | 0x048 => [rwl 7 0, rwl 15 8, rwl 31 16] | 0x04C => [rwl 2 0, rwl 9 3] | 0x050 => [rwl 7 0, rwl 8 8]
  | 0x054 => [ro 31 0] | 0x058 => [ro 15 0] | 0x05C => [ro 15 0] | 0x060 => [ro 3 0, ro 8 4] | _ => []

def dlkFields (off : Nat) : List Fld :=
  match off with
  | 0x0A0 => [ro 7 0 0xFF, ro 8 8 1] | 0x0A4 => [wo 7 0, wo 15 8] | 0x0A8 => [ro 3 0, ro 15 8, ro 31 16]
  | 0x0AC => [ro 31 0] | 0x0B0 => [rw 4 0]
  | _ =>
    if inArr off 0x040 4 8 then [rwl 1 0, rwl 5 2, rwl 6 6, rwl 11 7] else if inArr off 0x060 4 8 then [ro 10 0]
    else if inArr off 0x080 4 8 then [rwl 31 0] else if inArr off 0x0B4 4 8 then [rwl 31 0]
    else if inArr off 0x100 4 8 then [ro 31 0] else []

/-- R351: the four DMA channels' registers lie at 0x090 + 32c. -/
def pciFields (off : Nat) : List Fld :=
  match off with
  | 0x040 => [ro 2 0, ro 7 3] | 0x044 => [ro 23 0, ro 31 31] | 0x048 => [wo 3 0, wo 7 4, wo 15 8, wo 23 16]
  | 0x04C => [ro 1 0, ro 5 2, ro 13 6] | 0x050 => [wo 0 0, wo 1 1] | 0x054 => [rw 15 0, rw 16 16] | 0x058 => [rw 31 12]
  | 0x05C => [rw 31 0] | 0x060 => [rw 3 0, rw 4 4] | 0x064 => [rw 14 0] | 0x068 => [ro 14 0] | 0x06C => [ro 31 0]
  | 0x070 => [wo 7 0, wo 31 31] | 0x074 => [rw 31 0] | 0x078 => [rw 31 0] | 0x07C => [rw 31 0] | 0x080 => [rw 31 0]
  | _ =>
    if inArr off 0x090 32 4 then [rw 31 12] else if inArr off 0x094 32 4 then [rw 31 0]
    else if inArr off 0x098 32 4 then [rw 4 0, rw 5 5] else if inArr off 0x09C 32 4 then [rw 15 0]
    else if inArr off 0x0A0 32 4 then [ro 15 0] else []

def tsnFields (off : Nat) : List Fld :=
  match off with
  | 0x060 => [rwl 6 0] | 0x064 => [rwl 31 0] | 0x068 => [rwl 31 0] | 0x06C => [ro 31 0] | 0x070 => [ro 31 0]
  | 0x074 => [ro 31 0] | 0x078 => [rw 7 0, rw 9 8] | 0x07C => [ro 7 0, ro 31 8]
  | _ =>
    if inArr off 0x040 4 4 then [rwl 1 0, rwl 2 2, rwl 10 3] else if inArr off 0x050 4 4 then [ro 2 0]
    else if inArr off 0x080 4 8 then [rwl 31 0] else if inArr off 0x0A0 4 8 then [rwl 27 0, rwl 31 28] else []

def imgFields (off : Nat) : List Fld :=
  match off with
  | 0x040 => [ro 3 0, ro 4 4, ro 8 5, ro 11 9] | 0x044 => [wo 0 0, wo 1 1] | 0x048 => [ro 7 0, ro 20 8]
  | 0x04C => [ro 13 0] | 0x050 => [ro 7 0, ro 9 8, ro 10 10, ro 11 11] | 0x054 => [rw 3 0] | 0x058 => [ro 31 0]
  | 0x05C => [ro 31 0] | 0x060 => [ro 31 0] | _ => []

def vltFields (off : Nat) : List Fld :=
  match off with
  | 0x040 => [ro 1 0, ro 3 2, ro 7 4, ro 11 8, ro 18 12, ro 19 19] | 0x044 => [rw 7 0] | 0x048 => [ro 31 0]
  | 0x04C => [ro 31 0] | 0x050 => [ro 31 0] | 0x054 => [rw 7 0] | 0x058 => [rw 31 0] | 0x05C => [wo 7 0]
  | 0x060 => [ro 0 0, ro 1 1, ro 2 2, ro 3 3] | _ => []

def ldgFields (off : Nat) : List Fld :=
  match off with
  | 0x040 => [ro 0 0, ro 15 8, ro 23 16] | 0x044 => [rw 31 0] | 0x088 => [ro 31 0] | 0x08C => [rw 15 0]
  | 0x0F0 => [ro 31 0]
  | _ =>
    if inArr off 0x048 4 16 then [ro 31 0] else if inArr off 0x090 4 4 then [ro 31 0]
    else if inArr off 0x100 4 56 then [ro 5 0, ro 8 8] else if inArr off 0x200 8 60 then [ro 31 0]
    else if inArr off 0x204 8 60 then [ro 3 0, ro 9 8] else []

def audFields (off : Nat) : List Fld :=
  match off with
  | 0x040 => [ro 1 0, ro 9 2, ro 12 10, ro 13 13] | 0x044 => [ro 31 0] | 0x048 => [ro 31 0] | 0x04C => [ro 31 0]
  | 0x050 => [ro 31 0] | 0x054 => [ro 7 0, ro 10 8] | 0x0C8 => [rwl 9 0]
  | _ =>
    if inArr off 0x058 4 6 then [ro 31 0] else if inArr off 0x080 4 9 then [rwl 14 0, rwl 26 16]
    else if inArr off 0x0A4 4 9 then [rwl 14 0, rwl 28 16] else []

def agrFields (off : Nat) : List Fld :=
  match off with
  | 0x040 => [rw 5 0] | 0x044 => [ro 31 0] | 0x048 => [ro 15 0] | 0x04C => [ro 31 0] | _ => []

def mntFields (off : Nat) : List Fld :=
  match off with
  | 0x040 => [rwl 9 0 0x352] | 0x044 => [rwl 9 0 0x0A5] | 0x048 => [rwl 9 0] | 0x04C => [rwl 15 0] | 0x050 => [rw 9 0]
  | 0x054 => [ro 1 0 2, ro 2 2, ro 3 3, ro 4 4] | 0x058 => [ro 28 0 0x1AD27480] | 0x05C => [ro 10 0] | 0x060 => [ro 10 0]
  | 0x064 => [ro 15 0] | 0x068 => [ro 11 0, ro 25 16] | 0x06C => [ro 31 0] | 0x070 => [ro 7 0, ro 15 8] | _ => []

def thmFields (off : Nat) : List Fld :=
  match off with
  | 0x040 => [ro 15 0] | 0x044 => [ro 15 0 0x8000, wo 31 31] | 0x048 => [ro 11 0] | 0x04C => [ro 3 0] | _ => []

def thmAggFields (off : Nat) : List Fld :=
  match off with
  | 0x040 => [ro 15 0, ro 23 16] | 0x044 => [ro 4 0] | 0x048 => [ro 7 0, ro 11 8] | _ => []

def prcFields (off : Nat) : List Fld :=
  match off with
  | 0x06C => [rw 9 0] | 0x080 => [ro 7 0, ro 31 16] | 0x084 => [ro 0 0, ro 1 1]
  | _ => if inArr off 0x040 4 11 || inArr off 0x070 4 4 then [ro 31 0] else []

def bstFields (off : Nat) : List Fld :=
  match off with
  | 0x040 => [wo 0 0, wo 1 1] | 0x044 => [ro 2 0, ro 6 3] | 0x048 => [rw 3 0] | 0x04C => [ro 31 0]
  | 0x050 => [ro 15 0, ro 31 16] | _ => []

/-- Every block-specific register's fields; [] is a reserved offset (R8). -/
def blockFields (b : Blk) (off : Nat) : List Fld :=
  match b with
  | .ni => niFields off | .noc => nocFields off | .agr => agrFields off | .bst => bstFields off | .thm => thmFields off
  | .thmAgg => thmAggFields off | .strDie => strDieFields off | .tlr => tlrFields off | .aud => audFields off
  | .seq => seqFields off | .mq => mqFields off | .vec => vecFields off | .str => strFields off | .fab => fabFields off
  | .fabDie => fabDieFields off | .mch => mchFields off | .edg => edgFields off | .pwm => pwmFields off
  | .sdi => sdiFields off | .enc => encFields off | .dlk => dlkFields off | .pci => pciFields off | .tsn => tsnFields off
  | .img => imgFields off | .vlt => vltFields off | .ldg => ldgFields off | .prc => prcFields off | .tkc => tkcFields off
  | .ttb => ttbFields off | .mnt => mntFields off

/-- R455, R8: the fields at an offset of a page; header below 0x040, block registers from 0x040 up. -/
def fieldsAt (b : Blk) (off : Nat) : List Fld :=
  if off < 0x040 then headerFields b off else blockFields b off

/-- The reset word of a register: its fields' reset values in place. -/
def fieldsReset (fs : List Fld) : Nat :=
  fs.foldl (fun acc f => acc + f.reset * 2 ^ f.lo) 0

end Sys2Proof.Machine
end

