-- ==== Sys2Proof/Machine/State.lean ====
section
/-! DEFINITION. The state of the Limkihal as plain data: the register file, the stores, and every unit's state; the
reasons a step can stop; the state after reset. -/

namespace Sys2Proof.Machine

/-- Faults: none. The part has no event that stops it with an exception; it reports by FAULT bits, fault reports and
charges, which are effects on the state. The one constructor is never raised: no outcome of this model is a fault. -/
inductive Fault where
  /-- Raised by nothing (safe). -/
  | never
deriving DecidableEq, Repr

/-- Why a command has no effect of its own in this model. -/
inductive Refusal where
  /-- Raised by an arm of `exec` whose meaning is not written (safe: the machine stops). -/
  | notModelled (mnemonic : String)
deriving DecidableEq, Repr

/-! ### Numbers -/

/-- An exact value of the arithmetic chapter: NaN, an infinity, or the dyadic number ±m·2^e (R83, R93). -/
inductive Num where
  | nan
  | inf (neg : Bool)
  | fin (neg : Bool) (m : Nat) (e : Int)
deriving DecidableEq, Repr

/-! ### The core sequencer (R128) -/

/-- A general register or a vector element: 32 bits and a poison bit. -/
structure PWord where
  val : Word := 0
  poison : Bool := false
deriving DecidableEq, Repr

/-- Condition flags of a bank, with the poison of the compare that set them (R128, R148). -/
structure Flags where
  z : Bool := false
  n : Bool := false
  lo : Bool := false
  uo : Bool := false
  poison : Bool := false
deriving DecidableEq, Repr

/-- What a write still in the pipeline will change (R131). -/
inductive WDst where
  | g (i : Nat) | a (i : Nat) | m (i : Nat) | l (i : Nat)
  | flags (f : Flags) | astatSet | astatClr | evClr
  /-- a store of four bytes at a byte of the core store (X, Y) or the coefficient store (C) -/
  | core (addr : Nat) | coef (addr : Nat)
deriving DecidableEq, Repr

/-- A write in the pipeline: it takes effect at the end of cycle `due` (R131 to R133). -/
structure PendWrite where
  due : Nat
  dst : WDst
  val : PWord
deriving DecidableEq, Repr

/-- An active repeat (R141 to R143): body [first, last], iterations left after the running one. -/
structure Loop where
  first : BitVec 17
  last : BitVec 17
  left : Nat
  fence : Bool
deriving DecidableEq, Repr

/-- The register bank of one class (R128). -/
structure Bank where
  active : Bool := false
  /-- program table index of the active program; meaningless for a task -/
  prog : Nat := 0
  /-- timetable entry whose START runs, and the tick of the start -/
  entry : Nat := 0
  startTick : Nat := 0
  /-- the class 2 bank runs a task (SEQ_STATE.TASK) -/
  isTask : Bool := false
  skip : Bool := false
  g : Table PWord := []
  a : Table (BitVec 20) := []
  m : Table (BitVec 20) := []
  l : Table (BitVec 21) := []
  flags : Flags := {}
  ck : Bool := false
  ps : Bool := false
  ab : Bool := false
  pc : BitVec 17 := 0
  rstack : List (BitVec 17) := []
  /-- delay slots still to issue, and the target that issues after them when the branch was taken (R140) -/
  delay : Option (Nat × Option (BitVec 17)) := none
  /-- active repeats, RPT and RPB, innermost first (R141, R142) -/
  loops : List Loop := []
  /-- idle cycles of a COUNT = 0 repeat that have passed since the last issue (R144) -/
  idle : Nat := 0
  /-- the bank stands at a fence point (R143) -/
  atFence : Bool := false
  astat : BitVec 4 := 0
  /-- the class's rounding generator (R100) -/
  lfsr : Word := 0
  pipe : List PendWrite := []
  /-- outstanding work per unit: matrix, vector, streamer (R152) -/
  outM : Nat := 0
  outV : Nat := 0
  outS : Nat := 0
  holding : Bool := false
  /-- charges taken in the run, in 2^-20 coin (R417) -/
  spent : Nat := 0
deriving DecidableEq, Repr

/-- A program header of the sequencer's program table (R360). -/
structure ProgHdr where
  cls : Nat
  skip : Bool
  double : Bool
  entry : BitVec 17
  seed : Word
  cgroup : Nat
  wcet : Nat
  span : Nat
  coins : Nat
  codeLen : Nat
  netPkts : Nat
  dramB : Nat
deriving DecidableEq, Repr

/-! ### The quad (R57) -/

/-- One weight plane of an array (R57, R75): the array image as loaded, its record and its marks. -/
structure Plane where
  img : List Byte := []
  /-- poison of the image's bytes, one mark per byte's granule, in image order -/
  psn : List Bool := []
  wfmt : Nat := 0
  sparse : Nat := 0
  valid : Bool := false
  clean : Bool := false
deriving DecidableEq, Repr

/-- One entry of the accumulator buffer (R72): its value, the failed mark (R79) and poison (R80). -/
structure AccEnt where
  val : Num := .fin false 0 0
  failed : Bool := false
  poison : Bool := false
deriving DecidableEq, Repr

/-- The mode tag of an accumulator row (R72). -/
inductive AccTag where
  | invalid | int | fp32e | fp64x
deriving DecidableEq, Repr

/-- One accumulator row: its tag and its 128 entries (unlisted: +0). -/
structure AccRow where
  tag : AccTag := .invalid
  ent : Table AccEnt := []
deriving DecidableEq, Repr

/-- A matrix command with its class and its sequence number (R61, R81). -/
structure MqCmd where
  w0 : Word
  w1 : Word
  w2 : Word
  w3 : Word
  cls : Nat
  seq : Nat
  skip : Bool
  /-- issue cycle of the core from which the command may leave the queue (R150) -/
  due : Nat
  /-- SEQ_SKIP_CTRL as the command found it when it entered the queue: ZBLK_DIS and ZSLOT_DIS (R127, notes/assumptions/191.md) -/
  noSkip : Bool := false
  noGate : Bool := false
deriving DecidableEq, Repr

/-- One output write of a multiply that is executing: address, bytes, poison (R73). -/
structure OutWrite where
  addr : Nat
  bytes : List Byte
  poison : Bool
deriving DecidableEq, Repr

/-- A product that an armed FAULT_INJECT disturbs (R82): array, physical row, column (32 for the checksum column), bit,
and activation row (M for the checksum row). -/
structure Inject where
  array : Nat
  row : Nat
  col : Nat
  bit : Nat
  m : Nat
deriving DecidableEq, Repr

/-- A multiply that has left the queue and has not completed (R69, R104). -/
structure MulExec where
  cmd : MqCmd
  outs : List OutWrite
  flags : BitVec 4
  /-- refund that completion reports, in 2^-20 coin (R125) -/
  refund : Nat
  /-- the class's generator as it stood when the command left the queue (R101) -/
  lfsr0 : Word
  skipped : Bool
  rows : Nat
  /-- the failed checks of the pass that are not yet reported (R78, R79) -/
  fails : List CheckFail := []
  /-- the lines that the bus carries for it (R69, R81) -/
  lines : Nat := 0
  /-- the products that FAULT_INJECT has disturbed in it (R82), and the accumulator rows as it found them -/
  injs : List Inject := []
  before : List AccRow := []
deriving DecidableEq, Repr

/-- The matrix quad of a core (R57 to R80). -/
structure Quad where
  queue : List MqCmd := []
  /-- planes 0 and 1 of arrays 0 to 3, key 2 * array + plane -/
  planes : Table Plane := []
  /-- bit a: the active plane of array Aa -/
  active : BitVec 4 := 0
  acc : Table AccRow := []
  muls : List MulExec := []
  load : Option MqCmd := none
  /-- the weight image that the running load reads, with the poison of each byte's granule -/
  loadImg : List Byte := []
  loadPsn : List Bool := []
  /-- the multiply that left the queue last (chains, R69) -/
  lastMul : Option MqCmd := none
deriving DecidableEq, Repr

/-! ### The vector engine (R159) -/

/-- A roll that a launch holds (R160, R163); a roll not listed is free. -/
structure Roll where
  cls : Nat
  launch : Nat
  pc : Nat
  /-- issue cycle of the core from which the launch may issue (R163) -/
  start : Nat := 0
  /-- cycle of the engine from which the next instruction may issue, and the cycles at which its written registers can be read, by
  register v, 32 + p for predicates (R167, R170) -/
  due : Nat := 0
  ready : Table Nat := []
  /-- register v at lane t, key 32 * v + t -/
  v : Table PWord := []
  /-- predicate p at lane t, key 32 * p + t: value and poison -/
  p : Table (Bool × Bool) := []
  atSync : Bool := false
deriving DecidableEq, Repr

/-- The vector engine of a core. -/
structure Vec where
  rolls : Table Roll := []
  nextLaunch : Nat := 0
  /-- the scheduler (R165): the cycle of the last slots granted, how many of the two are, whether one is a VLD or VST, and the roll
  granted last of each class -/
  now : Nat := 0
  slots : Nat := 0
  mem : Bool := false
  last : Table Nat := []
  /-- cycles from which the load path and the transcendental unit serve another roll -/
  path : Nat := 0
  vtu : Nat := 0
deriving DecidableEq, Repr

/-! ### The streamer (R193) -/

/-- Where a stream came from (R193). -/
inductive StrSrc where
  | sis | timetable (entry tick : Nat) | taskIn
deriving DecidableEq, Repr

/-- A request of a stream that awaits its response (R212): its tag at the NI and the elements it carries. -/
structure StrReq where
  tag : Nat
  write : Bool
  first : Nat
  count : Nat
  /-- a read that has been answered: its elements, which wait for those of the reads before it (R201) -/
  data : Option (List (List Byte × Bool)) := none
  /-- of a write: the destination granules and the elements that it writes poisoned (R206, R216) -/
  gs : List Nat := []
  bad : List Nat := []
deriving DecidableEq, Repr

/-- A cached translation (R220). -/
structure Xlat where
  vpage : Nat
  frame : Nat
  write : Bool
deriving DecidableEq, Repr

/-- A stream in a class's queue (R194). The first of each class is the running one. -/
structure Stream where
  cls : Nat
  src : StrSrc
  index : Nat
  /-- the sixteen descriptor words, copied at acceptance -/
  desc : List Word
  gateOpen : Bool
  /-- issue cycle of the core from which the stream may request -/
  due : Nat := 0
  /-- first element, in element order, that no request has carried -/
  next : Nat := 0
  reqs : List StrReq := []
  /-- the fault cursor, its cause, and elements before it that were delivered poisoned (R221, R206) -/
  cursor : Option Nat := none
  xf : Bool := false
  pc : Bool := false
  psnElems : List Nat := []
  /-- destination granules written poisoned -/
  pgrans : List Nat := []
  /-- a translation walk for the next request is pending (R220): the tag of its outstanding read, and the entries read so far, each
  with its poison -/
  walk : Bool := false
  wtag : Option Nat := none
  entries : List (Nat × Bool) := []
  /-- the virtual page of the last run after the cursor that cannot be translated (R221) -/
  badPage : Option Nat := none
  /-- the result of a walk that STR_XINV overtook: for the next request only (R220) -/
  own : Option Xlat := none
deriving DecidableEq, Repr

/-- A task descriptor, eight words (R177). -/
structure Task where
  w0 : Word
  w1 : Word
  w2 : Word
  w3 : Word
  w4 : Word
  w5 : Word
  w6 : Word
  w7 : Word
deriving DecidableEq, Repr

/-- The streamer and the task dispatcher of a core (R179, R183, R222). -/
structure StrUnit where
  streams : List Stream := []
  /-- timetable and task-input streams that wait for an entry of their class's queue, first in first out (R194); their
  descriptors are not read yet -/
  waiting : List Stream := []
deriving DecidableEq, Repr

/-- The dispatcher's holding places and steal state (R179 to R187, R222). -/
structure Disp where
  ret : Option Task := none
  steal : List Task := []
  staged : Option Task := none
  ready : Bool := false
  park : Option Task := none
  resume : Bool := false
  /-- outstanding steal request: its SEQ -/
  request : Option Word := none
  reqSeq : Word := 0
  /-- when the outstanding steal request was sent (R250, R251) -/
  reqSince : Nat := 0
  /-- position in the victim order of R183; a full round ends at its length -/
  victim : Nat := 0
  backoff : Bool := false
  /-- the running task and its dispatch tick -/
  running : Option Task := none
  dispTick : Nat := 0
  /-- the running task issued a stream that completed with XF = 1 (R222) -/
  xfaulted : Bool := false
  ringBad : Bool := false
deriving DecidableEq, Repr

/-- One physical matrix core. -/
structure Core where
  bG : Bank := {}
  bL : Bank := {}
  bE : Bank := {}
  /-- the class of the issuing bank (SEQ_STATE.ISSUING; none is code 11b) -/
  issuing : Option Nat := none
  /-- the issue cycle: the cycle in which the next instruction issues -/
  time : Nat := 0
  frozen : Bool := false
  /-- frozen cycles so far (R135): the units' clock is `time + lag` -/
  lag : Nat := 0
  /-- the loop cache: for the active repeats of a class, the words captured in their first iterations, by word index (R141) -/
  cache : Table (Table (BitVec 64)) := []
  /-- length so far of the running non-interruptible span (R144) -/
  spanLen : Nat := 0
  programs : Table ProgHdr := []
  quad : Quad := {}
  vec : Vec := {}
  str : StrUnit := {}
  disp : Disp := {}
deriving DecidableEq, Repr

/-! ### Tile dies -/

/-- One tally of a die unit (R208). -/
structure Tally where
  count : Nat := 0
  expect : Nat := 0
  armed : Bool := false
deriving DecidableEq, Repr

/-- A Teller bucket of one initiator (R215, R229). -/
structure Teller where
  level : Nat := 0
  spent : Word := 0
  fixed : Word := 0
deriving DecidableEq, Repr

/-- The escrow of the state range of one logical core of a die: of its class 0 and class 1 state (R386) or of its class 2
state (R401). The two generations lie in the die store (R412, R401); this tells them apart. -/
structure Escrow where
  /-- the current generation is generation 1 -/
  current : Bool := false
  /-- the tick in which the other generation was written, until the edge that ends it; and whether that edge confirms it -/
  pend : Option Nat := none
  committed : Bool := false
  /-- each generation is a confirmed one, with the tick of its commit (none: the load) -/
  ok0 : Bool := false
  ok1 : Bool := false
  tick0 : Option Nat := none
  tick1 : Option Nat := none
deriving DecidableEq, Repr

/-- A clearing in progress on one entry (R384, R385). -/
structure Clearing where
  cgroup : Nat
  first : Bool
  entry : Nat
  tick : Nat
  digest : BitVec 64
  poison : Bool
  ready : BitVec 64
  /-- the compare has passed and the commit is under way (R386) -/
  passed : Bool := false
  flips : BitVec 64 := 0
  /-- the time of cycle 0 of the sequence of R384, and of the arrival of the other entry's digest -/
  since : Nat := 0
  passedAt : Nat := 0
  /-- the other entry's core, to which the digest message is still to be handed -/
  partner : Option Nat := none
  /-- single-entry mode (R396) -/
  single : Bool := false
  /-- committed or withheld: the CLEAR action is complete (R44) -/
  done : Bool := false
deriving DecidableEq, Repr

/-- An audit sample that is running or has finished (R398 to R400). -/
structure Sample where
  core : Nat
  tick : Nat
  adapt : Bool
  /-- the sampled run has ended at its END; it has ended otherwise, and a further run of the core has begun -/
  ended : Bool := false
  stopped : Bool := false
  /-- the class 2 bank as the run's dispatch left it, from which the auditor runs it again (R399), and the run digest so far -/
  bank : Bank := {}
  digest : BitVec 64 := 0
  /-- of an adaptation run, the layer of its task -/
  layer : Nat := 0
  /-- digests of the original run and of the first audit run, kept for the second audit run (R400) -/
  digests : Option (BitVec 64 × BitVec 64) := none
deriving DecidableEq, Repr

/-- R403: an adaptation run dispatched while the auditor is busy: its capture starts at dispatch, its audit waits. -/
structure HeldSample where
  x : Sample
  capture : List (Nat × List Byte × Bool) := []
  ovf : Bool := false
deriving DecidableEq, Repr

/-- The die unit of a tile die: audit rotation and capture, allowance, translations. -/
structure TileUnit where
  nextSample : Nat := 0
  sample : Option Sample := none
  /-- the tick in which a sample was last taken (R398: one in a tick) -/
  sampled : Option Nat := none
  /-- die-store or window granules captured: global granule index, old bytes, poison (R394, R399) -/
  capture : List (Nat × List Byte × Bool) := []
  captureOvf : Bool := false
  /-- adaptation runs that wait for the auditor, oldest first (R403) -/
  held : List HeldSample := []
  /-- adaptation runs whose capture has overflowed, which await the END that discards their proposal: core and dispatch tick (R403) -/
  doomed : List (Nat × Nat) := []
  /-- the capture of the die store for a tie-break (R394) -/
  tieCapture : List (Nat × List Byte × Bool) := []
  tieCapturing : Bool := false
  tieOvf : Bool := false
  /-- class 2 allowance in 2^-20 coin (R420) -/
  allowance : Int := 0
  xlat : List Xlat := []
  /-- cores whose pending walk began before the last STR_XINV: its result is not cached (R220) -/
  noCache : List Nat := []
deriving DecidableEq, Repr

/-! ### The package network (R230) -/

/-- A packet in a router's queue (R245): input port 0 to 4 (4 is local), or 5 in the NI before its injection (R248); queue code,
the time at which it came there, the time up to which its AGE counts its wait (R249), the time since which it has been the head
of its queue, the time before which a replay holds it (R235), and the SEQ of its last flit on the link that brought it. -/
structure QPacket where
  da : Nat
  inp : Nat
  q : Nat
  p : Packet
  since : Nat
  aged : Nat
  head : Nat
  ready : Nat := 0
  seq : Nat := 0
deriving DecidableEq, Repr

/-- A flit on the wire without its CRC (R234). -/
structure Flit where
  data : BitVec 512
  psn : BitVec 2
  queue : BitVec 3
  head : Bool
  last : Bool
  idle : Bool
  seq : BitVec 8
  ack : BitVec 8
  cred : BitVec 24
  nak : Bool
deriving DecidableEq, Repr

/-- One side of a link, at a mesh port of a router (R234, R235): the SEQ of the last flit sent, the last 32 flits sent, newest
first, the SEQ of the last flit received intact, the flits by queue whose credits are still to be returned, and the time up to
which its flits carry NAK. -/
structure Link where
  seq : BitVec 8 := 255
  sent : List Flit := []
  ack : BitVec 8 := 255
  owed : List Nat := [0, 0, 0, 0, 0, 0]
  nak : Nat := 0
deriving DecidableEq, Repr

/-- An outstanding request of a die's NI (R250) and the time of its hand-off. -/
structure OutReq where
  da : Nat
  port : Nat
  tag : Nat
  p : Packet
  sent : Nat
deriving DecidableEq, Repr

/-- A tag that a timeout freed and that is not reused yet (R250). -/
structure HeldTag where
  da : Nat
  port : Nat
  tag : Nat
  since : Nat
deriving DecidableEq, Repr

/-- The network: packets in routers, packets ejected to their target, requests outstanding, tags withheld after a
timeout (R250), link directions. A link direction's receive side is keyed da * 4 + port. -/
structure Net where
  queued : List QPacket := []
  arrived : List Packet := []
  outstanding : List OutReq := []
  heldTags : List HeldTag := []
  /-- network times of CRC errors of a receive side within its window, newest first (R255) -/
  crcErrs : Table (List Nat) := []
  retraining : List Nat := []
  /-- failed lanes of a receive side, in increasing order (R254), and its substitutions: logical lane, spare -/
  badLanes : Table (List Nat) := []
  subst : Table (List (Nat × Nat)) := []
  /-- the sides of the links, keyed da * 4 + port -/
  links : Table Link := []
  /-- receive sides on which a replay took place, with its tick (R235) -/
  replays : List (Nat × Nat) := []
  /-- the links are trained (R437) -/
  trained : Bool := false
  /-- links that do not carry flits -/
  failed : List Nat := []
  /-- the failed element of every NI_FAILED_LINK, and one that awaits its restart edge (R244): a link, or 256 + DA for the
  router of a tile die -/
  failedLink : Option Nat := none
  awaiting : Option Nat := none
  /-- the start routes of R478 serve -/
  startRoutes : Bool := false
  /-- route table entries: key da * 4096 + index (R241) -/
  routes : Table (Word × Word × Word × Word) := []
deriving DecidableEq, Repr

/-! ### Memory channels (R264) -/

/-- A request in a channel queue (R264): arrival order and time, the packet, its channel-local address, and for a read
the data it took effect with at the port (R266); `psn` are the marks of its granules, for a write those before it. `first`: it found
Q1 empty. `over` and `whole`: of a write, the bytes of its bursts that later writes have written, by channel-local address, and those
bursts that later writes have written whole, each with the arrival order reached then. -/
structure MemReq where
  order : Nat
  since : Nat
  p : Packet
  addr : Nat
  data : List Byte
  psn : List Bool
  aged : Bool := false
  first : Bool := false
  later : List (Nat × Nat) := []
  whole : List (Nat × Nat) := []
deriving DecidableEq, Repr

/-- An overdraft (R267): its port, and the time of its grant. -/
structure Overdraft where
  da : Nat
  sport : Nat
  since : Nat := 0
deriving DecidableEq, Repr

/-- A command of a channel's DRAM command sequence (R276): the activate of a row, the read or the write of the burst at a channel-local
address, a refresh-class operation. -/
inductive DramCmd where
  | act (row : Nat)
  | rd (addr : Nat)
  | wr (addr : Nat)
  | ref
deriving DecidableEq, Repr

/-- One channel controller. A bank is numbered by pseudo-channel, bank group, bank and subchannel, and rank (R262); a row of
a bank has the key bank * 2^20 + row. -/
structure Chan where
  q1 : List MemReq := []
  qr : List MemReq := []
  q2 : List MemReq := []
  nextOrder : Nat := 0
  /-- commits in a row that a younger row hit took under rule 3 and under rule 4 (R264) -/
  hits : Nat := 0
  hits4 : Nat := 0
  /-- requests committed and not complete, in order (R264) -/
  committed : List MemReq := []
  /-- the retry buffer (R276): the last 64 commands issued, each with the arrival order of the request that it belongs to, and the
  addresses and data of the last 32 writes, oldest first -/
  issued : List (Option Nat × DramCmd) := []
  written : List (Nat × List Byte) := []
  /-- how many of the commands issued, the latest ones, are not known to have completed (R276) -/
  unsure : Nat := 0
  /-- ticks of the replays since the last tick edge (R276) -/
  replayed : List Nat := []
  granted : Option Overdraft := none
  pendOvd : List Overdraft := []
  /-- Q1 requests queued when the previous overdraft ended (R268) -/
  barrier : List Nat := []
  debt : Nat := 0
  dueRefresh : Nat := 0
  /-- time at which the next refresh falls due (R260) -/
  nextDue : Nat := 0
  /-- neighbour refreshes granted and not started, and the time of the last grant (R271) -/
  granting : Nat := 0
  lastNeigh : Option Nat := none
  /-- time at which the activate-count tables are next cleared (R272) -/
  tableDue : Nat := 0
  /-- activate counts of rows -/
  activates : Table Nat := []
  /-- rows that await a neighbour refresh, rows that found that queue full, and the banks that are held for it (R273) -/
  neigh : List Nat := []
  throttled : List Nat := []
  heldBanks : List Nat := []
  openRows : Table Nat := []
  /-- consecutive failed replays of the oldest command (R277) -/
  replays : Nat := 0
  alerted : Bool := false
  step : Nat := 0
  /-- the scrub's next burst, and the time at which its pass began (R279) -/
  scrubNext : Nat := 0
  scrubFrom : Nat := 0
  modHot : Bool := false
  degC : Int := 0
  /-- time of the next reading of the module's temperature (R281) -/
  tempDue : Nat := 0
deriving DecidableEq, Repr

/-! ### The logic fabric (R283) -/

/-- The phase of a region (FAB_REG_STATE.STATE). -/
inductive RegPhase where
  | absent | verifying | isolating | loading | releasing | running | failed
deriving DecidableEq, Repr

/-- One region (R302 to R306): `decl` is what the running configuration declares, `next` what the variant that is being
loaded declares; `target` is that variant, none while the region is being unloaded. -/
structure Region where
  phase : RegPhase := .absent
  variant : Nat := 0
  target : Option Nat := none
  fixed : Bool := false
  used : Bool := false
  decl : RegionDecl := .empty
  next : RegionDecl := .empty
  /-- what variant 0 of the loaded image declares (R303) -/
  base : RegionDecl := .empty
  /-- whether the region ran when its isolation began, and the time of its drain end (R304) -/
  ran : Bool := false
  drained : Option Nat := none
  /-- the time of a track's last change of setting and the setting before it, by track (R291) -/
  switched : Table (Nat × Nat) := []
  /-- time at which isolation, loading and releasing began -/
  isolated : Nat := 0
  loading : Nat := 0
  releasing : Nat := 0
  /-- the phase before the verification of a variant, to which a failed check returns (R304) -/
  before : RegPhase := .absent
  /-- strobes presented to the region logic in the running tick, newest first: 0 TICK, 1 SAMPLE, 2 RELEASE, 3 SIG, with
  the group or the tag, and the time from which the strobe track presents it (R292) -/
  strobes : List (Nat × Nat × Nat) := []
  /-- the configuration memory: the bytes of the configuration that runs or ran last, and of the one that is loaded (R302) -/
  cfg : List Byte := []
  nextCfg : List Byte := []
deriving DecidableEq, Repr

/-- What a port of a block memory does at an edge of its track (R286): whether it has one, reads, writes, its width, mode, address and
data. -/
structure RamAccess where
  on : Bool
  write : Bool
  width : Nat
  readFirst : Bool
  addr : Nat
  data : List Bool
deriving DecidableEq, Repr

/-- A block memory (R286): rows that differ from their initial contents, the words that its ports give, and the DED output (R288);
`last` and `before`: the access of the one port, B or A, that had an edge in the last core cycle, and the rows before it (R287). -/
structure Bram where
  rows : Table (BitVec 36) := []
  last : Option (Bool × RamAccess) := none
  before : Table (BitVec 36) := []
  outA : BitVec 72 := 0
  outB : BitVec 72 := 0
  ded : Bool := false
deriving DecidableEq, Repr

/-- The logic of a region: flip-flops FA and FB of cells that have left their INIT values (R284), block memories, and what the slots of
its boundaries were when it last sampled them, by 1,024 · right + slot (R305). -/
structure Logic where
  ffs : Table (Bool × Bool) := []
  rams : Table Bram := []
  sampled : Table Bool := []
deriving DecidableEq, Repr

/-- A request that a fabric port holds: its tag at the port, the packet, the time of its acceptance, and whether its lateness
has been reported (R294, R295). -/
structure PortReq where
  tag : Nat
  p : Packet
  since : Nat
  late : Bool := false
deriving DecidableEq, Repr

/-- A fabric port (R293 to R296): requests accepted by the logic and not answered (target), or sent and outstanding
(initiator); requests counted against BUDGET in the tick; responses delivered to the logic: tag, data, poison marks, error. -/
structure FabPort where
  reqs : List PortReq := []
  used : Nat := 0
  rsp : List (Nat × List Byte × List Bool × Bool) := []
deriving DecidableEq, Repr

/-- A stop-source cell (R297, R298, R326). -/
structure TripCell where
  declared : Bool := false
  region : Nat := 0
  clampOff : Bool := false
  line : Nat := 0
  input : Bool := false
  clamped : Bool := false
deriving DecidableEq, Repr

/-- A fabric die: the commands of its configuration port in order, region and variant or unload (R303); retired block
memories (R289). -/
structure FabDie where
  queue : List (Nat × Option Nat) := []
  bramRetired : List Nat := []
deriving DecidableEq, Repr

/-! ### Edge dies (R309) -/

/-- A sigma-delta channel (R314, R317). -/
structure SdCh where
  /-- main filter: three integrators, the previous inputs of three differentiators, and the last output -/
  i1 : Word := 0
  i2 : Word := 0
  i3 : Word := 0
  d1 : Word := 0
  d2 : Word := 0
  d3 : Word := 0
  y : Word := 0
  /-- outputs since arming, and the time at which the last one's window ended -/
  outs : Nat := 0
  stamp : Nat := 0
  /-- input groups that have latched the last output -/
  seenBy : List Nat := []
  /-- comparator windows since arming, and the time at which the last one ended -/
  couts : Nat := 0
  cstamp : Nat := 0
  /-- comparator filter: two integrators, the previous inputs of two differentiators -/
  c1 : Word := 0
  c2 : Word := 0
  e1 : Word := 0
  e2 : Word := 0
  /-- consecutive outputs outside and inside the thresholds -/
  outRun : Nat := 0
  within : Nat := 0
  active : Bool := false
deriving DecidableEq, Repr

/-- A PWM generator (R319, R320, R324): current and pending values, its ideal state and its outputs under R319. The pins
follow from these, the stop group and the phase of the device. -/
structure Gen where
  on : Nat := 0
  off : Nat := 0
  mode : Nat := 0
  pending : Option (Nat × Nat × Nat) := none
  h : Bool := false
  /-- the step, counted from PORST_N, at which h last changed -/
  changedAt : Nat := 0
  outH : Bool := false
  outL : Bool := false
  /-- held in safe state until the first update point after a release that follows a reset (R324) -/
  waitRelease : Bool := true
  released : Bool := false
deriving DecidableEq, Repr

/-- An output group of an edge or fabric die (R311, R53). -/
structure OutGroup where
  /-- the tick whose RELEASE fired, its gating clearing group, and its class -/
  fired : Option Nat := none
  gate : Nat := 0xFFFF
  cls : Nat := 0
  /-- the timetable index of the RELEASE -/
  entry : Nat := 0
  /-- reads of the record not sent yet: address and bytes; and those in flight: tag and byte offset in the record -/
  left : List (Nat × Nat) := []
  tags : List (Nat × Nat) := []
  /-- pieces that have arrived: byte offset in the record, bytes -/
  pieces : List (Nat × List Byte) := []
  fromB : Bool := false
  poison : Bool := false
  /-- the whole record has arrived -/
  fetched : Bool := false
  /-- the release is withheld: the fetch failed or was late, or a restart or a disarm took the tick -/
  withheld : Bool := false
deriving DecidableEq, Repr

/-- A release verdict that a die has kept for a tick (R53, R384). -/
structure Verdict where
  da : Nat
  cgroup : Nat
  tick : Nat
  release : Bool
deriving DecidableEq, Repr

/-- An encoder port (R330): a read in progress, and the last completed read. `stat` holds the received status bits, then
VALID, CRC_ERR, PAR_ERR and NOIDLE. -/
structure Enc where
  busy : Bool := false
  ts : Nat := 0
  readTs : Nat := 0
  pos : Nat := 0
  stat : Nat := 0
  skipped : Bool := false
  /-- time of the latch edge of the running read, of that of an abandoned one, and time until which MONO allows no read -/
  started : Nat := 0
  abandoned : Option Nat := none
  mono : Nat := 0
  seenBy : List Nat := []
deriving DecidableEq, Repr

/-- A drive-link lane (R331 to R333). `st` is DLK_LANE_ST.STATE of a lane that VMAX does not switch off. -/
structure Lane where
  st : Nat := 1
  ver : Nat := 0
  peerAxes : Nat := 0
  v2fails : Nat := 0
  /-- version 2 failed to lock: only version 1 is offered -/
  v1only : Bool := false
  /-- time at which the running step of the negotiation began, and time from which the next CAPS is due (R331) -/
  since : Nat := 0
  capsDue : Nat := 0
  /-- time in 1/1000 core cycles from which the next STOP block is due (R333) -/
  stopDue : Nat := 0
  /-- 32 block times have passed without a valid block -/
  loss : Bool := false
  /-- reason code of the drive's last TRIP block -/
  reason : Nat := 0
  frame : List Byte := []
  frameOk : Bool := false
  frameCycle : Nat := 0
  seenBy : List Nat := []
  /-- the blocks that wait at the transmitter, in order: type and payload (0: data), and the next block boundary in 1/1000 core cycles -/
  tx : List (Nat × List Byte) := []
  txDue : Nat := 0
deriving DecidableEq, Repr

/-- An input record under delivery to one die (R310): the time from which its writes leave, the writes not sent yet (address and
bytes), and the tags of the writes not answered yet. -/
structure Delivery where
  group : Nat
  die : Nat
  tally : Nat
  cls : Nat
  start : Nat := 0
  left : List (Nat × List Byte) := []
  tags : List Nat := []
deriving DecidableEq, Repr

/-- An edge die E0 to E5. -/
structure EdgeDie where
  /-- the levels at the trip-input pins (high at reset: notes/assumptions/230.md), the inputs that have counted, and the sampling
  edges that the others have been active for (R325) -/
  tiPin : BitVec 16 := 0xFFFF
  counted : BitVec 16 := 0
  tiRun : Table Nat := []
  /-- tripped stop groups (R323) -/
  tripped : BitVec 16 := 0xFFFF
  /-- the cycle of the last FORCE write and the groups that it named (R324) -/
  forcedAt : Nat := 0
  forced : BitVec 16 := 0
  deliveries : List Delivery := []
  /-- the time at which the modulator clocks restarted in phase: the first tick edge after arming (R312) -/
  sdcStart : Option Nat := none
deriving DecidableEq, Repr

/-! ### Host and plant links -/

/-- An event held for the ring (R343): eight words. -/
structure Event where
  code : Nat
  src : Nat
  unit : Nat
  tick : Word
  w2 : Word := 0
  w3 : Word := 0
  w4 : Word := 0
  w5 : Word := 0
  w6 : Word := 0
  w7 : Word := 0
deriving DecidableEq, Repr

/-- A request of a port of E6 or E7: a read of `n` bytes, or a write of `data`, of DRAM or of the die store of a logical die
(R339, R347). -/
structure IoReq where
  die : Option Nat := none
  addr : Nat
  n : Nat
  data : Option (List Byte) := none
  psn : Bool := false
deriving DecidableEq, Repr

/-- The requests of one piece of work of a port: those not sent yet, those in flight (tag and address), the bytes read, the first
STATUS other than OK, and whether poison was read. -/
structure IoRun where
  left : List IoReq := []
  tags : List (Nat × Nat) := []
  got : List (Nat × List Byte) := []
  status : Nat := 0
  psn : Bool := false
deriving DecidableEq, Repr

/-- A DMA descriptor in progress (R340): its place in host memory and in the ring, its words, a host completion with UR or CA or
with EP set, and its requests. -/
structure DmaRun where
  place : Nat
  index : Nat
  words : List Nat
  failed : Bool := false
  poisoned : Bool := false
  run : IoRun := {}
deriving DecidableEq, Repr

/-- E6: held events, ring phase, the mailbox command in progress, the link, the last KICK, and how often each MSI-X vector
has been signalled. `d3`: the function is in D3hot (R336). `msixMask`, `msixPend`: the masked vectors of the MSI-X table and the pending
bits (R335). -/
structure HostIf where
  held : List Event := []
  phase : Bool := true
  mailbox : Option Nat := none
  linkUp : Bool := false
  kicked : Nat := 0
  vectors : Table Nat := []
  d3 : Bool := false
  msixMask : BitVec 32 := 0
  msixPend : BitVec 32 := 0
  /-- the host addresses and lengths of the granules of the last DMA data that went to the host in TLPs with EP set (R340) -/
  ep : List (Nat × Nat) := []
  /-- the descriptors in progress, by channel -/
  dma : Table (Option DmaRun) := []
deriving DecidableEq, Repr

/-- What a port of E7 does with the head descriptor of a ring (R347). Receive: 1 reads the descriptor, 2 writes the frame, 3 writes
the descriptor back. Transmit: 1 reads the descriptor, 2 reads the frame, 3 waits for its gate, 4 sends, 5 writes the descriptor
back. -/
structure EthRun where
  phase : Nat := 1
  run : IoRun := {}
  desc : List Byte := []
  data : List Byte := []
  /-- time at which sending began -/
  began : Nat := 0
deriving DecidableEq, Repr

/-- An Ethernet port of E7 (R347, R350). -/
structure EthPort where
  rxHead : Nat := 0
  txHead : Nat := 0
  /-- frames received that wait for the ring, the first one in hand: bytes and time stamp -/
  rxq : List (List Byte × Word) := []
  rx : Option EthRun := none
  tx : Option EthRun := none
  /-- time from which the transmit descriptor is read again -/
  pollDue : Nat := 0
  /-- the running entry of the gate control list, the time at which it began, and the list -/
  gate : Nat := 0
  gateAt : Nat := 0
  gcl : List (Nat × Nat) := []
deriving DecidableEq, Repr

/-! ### Keeper -/

/-- A Ledger record (R406). -/
structure LedgerRec where
  state : Nat := 0
  cause : Nat := 0
  conf : Nat := 0
  susp : Nat := 0
  corr : Nat := 0
  tick1 : Option Nat := none
  tick2 : Option Nat := none
  loc1 : Word := 0xFFFFFFFF
  loc2 : Word := 0xFFFFFFFF
  bistFact : Word := 0
  bistLast : Word := 0
  mf0 : Nat := 0
  mf1 : Nat := 0
  mf2 : Nat := 0
  margin : Nat := 0
  thresh : Nat := 0
  slope : Int := 0
  /-- the measurements SLOPE is taken over, newest first, at most 16 (R409) -/
  history : List Nat := []
deriving DecidableEq, Repr

/-- A Ledger log entry (R414). -/
structure LogEnt where
  ref : Word
  ckind : Nat
  fkind : Nat
  tick : Nat
  loc : Word
deriving DecidableEq, Repr

/-- The placement map (R14 to R23): the physical die of each logical die, each core's role code, each die's state. -/
structure Placement where
  gen : Nat := 0
  /-- logical die n to physical die; a die listed with none is unbound; unlisted: n itself (R14) -/
  dieOf : Table (Option Nat) := []
  /-- role code of physical core c of die t, key 16 * t + c; unlisted: c (R14, R22) -/
  role : Table Nat := []
  /-- DIE_STATE; unlisted: in service for t below 56, reserve otherwise -/
  state : Table Nat := []
  /-- logical cores 16 * n + k of a rebound die that have not rejoined yet (R397) -/
  unjoined : List Nat := []
deriving DecidableEq, Repr

/-- A segment entry of the loaded manifest (R356). -/
structure SegEnt where
  typ : Nat
  die : Nat
  unit : Nat
  variant : Nat
  dakind : Bool
  offset : Nat
  length : Nat
  dest : Nat
  digest : List Byte
deriving DecidableEq, Repr

/-- An adaptive layer of the loaded image (R361) with its ready state (R190, R191). -/
structure Layer where
  index : Nat
  cgroup : Nat
  wfmt : Nat
  size : Nat
  prop : Nat
  dieA : Nat
  coreA : Nat
  copy0A : Nat
  copy1A : Nat
  selA : Nat
  dieB : Nat
  coreB : Nat
  copy0B : Nat
  copy1B : Nat
  selB : Nat
  ready : Bool := false
  /-- an approved proposal under transfer, and one that waits: the layer's bytes -/
  transfer : Option (List Byte) := none
  waiting : Option (List Byte) := none
  /-- the entries whose selector this clearing has flipped (R191) -/
  doneA : Bool := false
  doneB : Bool := false
deriving DecidableEq, Repr

/-- A proposal handed to audit at END and not decided (R189). -/
structure Proposal where
  t : Nat
  c : Nat
  layer : Nat
  tick : Nat
  bytes : List Byte
  crc : BitVec 64
deriving DecidableEq, Repr

/-- A Vault programming sequence (R373). -/
inductive VltSeq where
  | idle | opened (since : Nat) | blowing (word : Nat) (bits : Word)
deriving DecidableEq, Repr

/-- The Keeper: the load, the Vault fuses, the Ledger, the placement map. -/
structure Keeper where
  /-- capacity code (IMG_STATE.FCAP) of FL0 to FL3 as they answer, 0 for one that does not (R353) -/
  flash : List Nat := [1, 1, 1, 1]
  /-- the Profile 1.0 table that the SFDP of FL0 to FL3 holds, as a number for its content; none where it holds none (R353) -/
  profiles : List (Option Nat) := [some 0, some 0, some 0, some 0]
  fuses : Table Word := []
  vlt : VltSeq := .idle
  /-- the value that the identity key is made of, as derived at Keeper start (R374) -/
  identity : List Byte := []
  started : Bool := false
  /-- the lifecycle state in force, as read at Keeper start or the last load: 0 PROVISION, 1 SECURED, 2 RMA (R372, R373) -/
  lifecycle : Nat := 0
  /-- the image encryption key in force, as the load under way or the last load read it (R373) -/
  iek : List Byte := []
  records : Table LedgerRec := []
  log : List LogEnt := []
  logCnt : Nat := 0
  service : Nat := 0
  serviceSaved : Nat := 0
  /-- the service tick of the last measurement of a die's aging monitors, by DA (R409) -/
  aged : Table Nat := []
  base : Nat := 0
  place : Placement := {}
  /-- logical dies awaiting the load of a reserve die, with that die (R396, R397) -/
  reserveLoads : List (Nat × Nat) := []
  /-- units whose retirement the restart or planned stretch under way applies (R393) -/
  applying : List Nat := []
  /-- units whose retirement a maintenance stop has granted, each awaiting its planned stretch (R411) -/
  granted : List Nat := []
  /-- the logical dies that the accepted image names (R20, R55 item 11) -/
  named : List Nat := []
  /-- substitutions applied since the last load (R21) -/
  substitutions : Nat := 0
  segs : List SegEnt := []
  /-- pass-1 digest list -/
  digests : List (List Byte) := []
  manifestDigest : List Byte := []
  lenUnits : Nat := 0
  dramcap : Nat := 0
  salt : List Byte := []
  source : Bool := false
  hostAddr : Nat := 0
  hostLen : Nat := 0
  writeFlash : Bool := false
  secver : Nat := 0
  enc : Bool := false
  layers : List Layer := []
  proposals : List Proposal := []
  /-- the target ports that class 0 and class 1 streams of the image can address: DA and port (R303) -/
  streamPorts : List (Nat × Nat) := []
  /-- pages the image configured, DA * 256 + page -/
  configured : List Nat := []
  unusable : List (Nat × Nat) := []
  /-- the Ledger's sparing records: memory die and number of each DRAM device spared (R278) -/
  spares : List (Nat × Nat) := []
  /-- spare rows in use, by 2,400 · fabric die + block memory: data row and spare row (R289) -/
  bramRows : Table (List (Nat × Nat)) := []
  /-- logical dies left unbound by a lost die, with that die, until the next load (R21, R397) -/
  lost : List (Nat × Nat) := []
deriving DecidableEq, Repr

/-! ### Pacer -/

/-- Phase of the tick (TKC_STATE.STATE, R41). -/
inductive TickPhase where
  | disarmed | armed | running | restarting
deriving DecidableEq, Repr

/-- A timetable entry: its four words (R43). -/
structure TtEntry where
  w0 : Word
  w1 : Word
  w2 : Word
  w3 : Word
deriving DecidableEq, Repr

/-- A fault report in the Pacer's history (R457). -/
structure FhEnt where
  w0 : Word
  w1 : Word
  w2 : Word
  w3 : Word
  da : Nat
  cycle : Nat
  restart : Bool
  absorbed : Bool
deriving DecidableEq, Repr

/-- A tie-break (R394, R395). -/
structure TieBreak where
  cgroup : Nat
  tick : Nat
  /-- the auditor's tile die; none where no auditor exists -/
  auditor : Option Nat
  running : Bool
  /-- core keys of the first and second entry and their digests -/
  coreA : Nat
  coreB : Nat
  digA : BitVec 64
  digB : BitVec 64
  /-- the digest of the auditor's re-execution; none where it ended as a faulted program -/
  digX : Option (BitVec 64) := none
deriving DecidableEq, Repr

/-- The Pacer: tick, timetable walk, restart, history. -/
structure Pacer where
  phase : TickPhase := .disarmed
  tick : Nat := 0
  /-- local cycle of the running tick -/
  cycle : Nat := 0
  netLock : Bool := false
  /-- a DISARM (or a fault that disarms) waits for the next edge -/
  disarmAt : Bool := false
  entries : List TtEntry := []
  walk : Nat := 0
  /-- the walk is that of the tick that the next edge begins (R46) -/
  walkNext : Bool := false
  /-- dispatched entries and the tick they act in -/
  dispatched : List (Nat × Nat) := []
  /-- entries in force, with their tick, whose deadline has not been checked -/
  watch : List (Nat × Nat) := []
  /-- entries, with their tick, whose action is complete (R44) -/
  complete : List (Nat × Nat) := []
  /-- a restart opened by a report: the time at which the report arrived (R379, R389) -/
  opened : Option Nat := none
  /-- the restart strobe of this tick has been driven -/
  strobed : Bool := false
  /-- tile dies whose restore is not acknowledged yet (R390), and the time of the last acknowledgement -/
  acksWanted : List Nat := []
  lastAck : Nat := 0
  /-- the restore of an ARM that resumes a job is under way since that time (R444) -/
  rearm : Option Nat := none
  /-- the tick has run since the load: an ARM resumes the job (R444) -/
  resumes : Bool := false
  /-- logical cores, 16 * die + core, that rejoin at the edge of the planned stretch under way (R397) -/
  rejoin : List Nat := []
  stretching : Bool := false
  history : List FhEnt := []
  fhCnt : Nat := 0
  restarts : Nat := 0
  stretch : Nat := 0
  edgeTime : Nat := 0
  /-- time of the last edge whose number is a multiple of 1, 2, 4 and 8, and of the one before (R318) -/
  refEdges : List (Nat × Nat) := []
  netFailed : Bool := false
  /-- the network source was lost while the tick ran: the local source serves until software writes TKC_SOURCE (R35) -/
  offNetwork : Bool := false
  ties : List TieBreak := []
  mismatches : List TieBreak := []
  stopExt : Bool := false
  shutdownStop : Bool := false
  syncGood : Nat := 0
deriving DecidableEq, Repr

/-- The Mint and the thermal aggregation (R418 to R430). -/
structure Mint where
  /-- energy in the bucket, in 1/1400 µJ -/
  bucket : Nat := 450000000 * 1400
  /-- energy measured in the running tick, µJ -/
  energy : Nat := 0
  /-- the quantum of the next grant of this tick, and the quanta of the tick that have ended -/
  quantum : Nat := 0
  ended : Nat := 0
  /-- time of the last update of the bucket while disarmed; boost of the running tick, coins (R424) -/
  updated : Nat := 0
  boost : Nat := 0
  /-- the effective MNT_LIMIT (R426) -/
  limit : Nat := 0
  /-- refunds reported and not credited yet: tile die, amount (R125) -/
  refunds : List (Nat × Nat) := []
  /-- class 2 charge of all dies in the running and in the previous quantum, 2^-20 coin, and the previous one's length -/
  spentQ : Nat := 0
  lastQ : Nat := 0
  lastLen : Nat := 1400
  /-- R425: no grant in the rest of the tick; no extra in this tick -/
  cut : Bool := false
  noExtra : Bool := false
  /-- ticks over budget: time of their end and length, newest first (R424) -/
  overLog : List (Nat × Nat) := []
  /-- hottest reading of each die by DA, 0.125 degree units -/
  temps : Table Int := []
  shed : Bool := false
  /-- since when the hottest junction has stayed below 98 degrees while shed -/
  coolSince : Option Nat := none
  warn : Bool := false
  shutdown : Bool := false
  cold : Bool := false
  uvShed : Bool := false
  /-- time at which the intermediate rail was last measured at or below 1.74 V (R430); time of each die's last reading (R427) -/
  uvAt : Nat := 0
  readAt : Table Nat := []
deriving DecidableEq, Repr

/-- The power-up phase of the device (R437, R440, R445). -/
inductive PowerPhase where
  | reset | unconfigured | loading | configured | refused | quiescing | testing | halted | off
deriving DecidableEq, Repr

/-- An instruction of the TAP (R468, IEEE 1149.1). -/
inductive TapInstr where
  | bypass | extest | sample
deriving DecidableEq, Repr

/-- Where the device stands between PORST_N and halt. -/
structure Boot where
  /-- the TAP (R468): TRST_N is low or open, and the instruction that was shifted in -/
  trst : Bool := true
  tap : TapInstr := .bypass
  power : PowerPhase := .reset
  porst : Bool := true
  bistGroup : Nat := 0
  time : Nat := 0
  loadStart : Nat := 0
  stepStart : Nat := 0
deriving DecidableEq, Repr

/-! ### The whole device -/

/-- The state of the package. `regs` holds every register that no unit holds itself, keyed by `Regs.key`. -/
structure State where
  regs : Table Word := []
  mem : List Host.Cell := []
  /-- granules marked poisoned (R477) and core-store granules whose zero tag is 1 (R112), by global granule index -/
  poison : List Nat := []
  zeroTags : List Nat := []
  /-- the granules of class 0/1 state ranges written since generation 0, and since generation 1, was last written (R386), by global
  granule index -/
  dirty0 : List Nat := []
  dirty1 : List Nat := []
  cores : Table Core := []
  tallies : Table Tally := []
  tellers : Table Teller := []
  escrow : Table Escrow := []
  clearings : Table Clearing := []
  tiles : Table TileUnit := []
  net : Net := {}
  chans : Table Chan := []
  /-- the requests that have reached the memory dies' ports in this cycle, in the order in which they take effect (R266) -/
  memIn : List Packet := []
  regions : Table Region := []
  logic : Table Logic := []
  fports : Table FabPort := []
  trips : Table TripCell := []
  fabs : Table FabDie := []
  edges : Table EdgeDie := []
  sds : Table SdCh := []
  gens : Table Gen := []
  outs : Table OutGroup := []
  verdicts : List Verdict := []
  encs : Table Enc := []
  lanes : Table Lane := []
  host : HostIf := {}
  eths : Table EthPort := []
  keeper : Keeper := {}
  pacer : Pacer := {}
  mint : Mint := {}
  boot : Boot := {}
  /-- the sticky bits that hardware has set in core cycle `freshAt`, by register key and bit (R9) -/
  freshAt : Nat := 0
  /-- the registers with an RW field that hardware also changes, which the host has written in core cycle `hostAt` (R31) -/
  hostAt : Nat := 0
  hostWrote : List Nat := []
  fresh : List (Nat × Nat) := []
  /-- the model's own counter of free values (DESIGN CHOICE, notes/assumptions/2.md) -/
  free : Nat := 0
  /-- the commands that wait, first in first out -/
  pending : List Instr := []
deriving DecidableEq, Repr

/-- The machine after reset: PORST_N low has reset every die (R435), every unit and every register stands at its reset
value, nothing is loaded, the tick is disarmed. -/
def State.reset : State := {}

end Sys2Proof.Machine
end

