-- ==== Sys2Proof/Machine/Fp.lean ====
section
/-! DEFINITION. Exact numbers, the formats of R83, rounding (R99), conversion with its flags (R102), and the arithmetic
of the accumulators (R88 to R93) and of the 32-bit lanes (R105). -/

namespace Sys2Proof.Machine

/-! ### Formats -/

/-- A floating-point format of R83. `e4m3` marks the format without infinity. -/
structure FFmt where
  ebits : Nat
  fbits : Nat
  bias : Nat
  e4m3 : Bool := false

def fE4M3 : FFmt := ⟨4, 3, 7, true⟩
def fE5M2 : FFmt := ⟨5, 2, 15, false⟩
def fFp16 : FFmt := ⟨5, 10, 15, false⟩
def fBf16 : FFmt := ⟨8, 7, 127, false⟩
def fFp32 : FFmt := ⟨8, 23, 127, false⟩
def fFp64 : FFmt := ⟨11, 52, 1023, false⟩
def fFp32e : FFmt := ⟨10, 23, 511, false⟩
def fFp64x : FFmt := ⟨15, 63, 16383, false⟩

/-- Width of a format's encoding. -/
def FFmt.width (f : FFmt) : Nat := 1 + f.ebits + f.fbits

/-- The all-ones exponent field. -/
def FFmt.expMax (f : FFmt) : Nat := 2 ^ f.ebits - 1

/-- Significand and unit exponent of the largest finite value. -/
def FFmt.maxSig (f : FFmt) : Nat := if f.e4m3 then 14 else 2 ^ (f.fbits + 1) - 1
def FFmt.maxExp (f : FFmt) : Int := if f.e4m3 then 5 else ((f.expMax - 1 : Nat) : Int) - f.bias - f.fbits

/-- The unit exponent of a subnormal. -/
def FFmt.minExp (f : FFmt) : Int := 1 - (f.bias : Int) - f.fbits

/-- The encodings of R83 without their sign. -/
def FFmt.infCode (f : FFmt) : Nat := f.expMax * 2 ^ f.fbits
def FFmt.nanCode (f : FFmt) : Nat := if f.e4m3 then 0x7F else f.expMax * 2 ^ f.fbits + 2 ^ (f.fbits - 1)
def FFmt.maxCode (f : FFmt) : Nat := if f.e4m3 then 0x7E else f.infCode - 1
def FFmt.signed (f : FFmt) (neg : Bool) (code : Nat) : Nat := if neg then code + 2 ^ (f.ebits + f.fbits) else code

/-! ### Exact numbers -/

def Num.zero : Num := .fin false 0 0

def Num.ofInt (i : Int) : Num := .fin (decide (i < 0)) i.natAbs 0

/-- The integer of an integer-valued number (R90); the integer part toward zero otherwise. -/
def Num.toInt : Num → Int
  | .fin neg m e =>
    let v : Nat := match e with
      | .ofNat k => m * 2 ^ k
      | .negSucc k => m / 2 ^ (k + 1)
    if neg then -(v : Int) else v
  | _ => 0

def Num.isNan : Num → Bool
  | .nan => true
  | _ => false

def Num.isFinite : Num → Bool
  | .fin _ _ _ => true
  | _ => false

def Num.negative : Num → Bool
  | .fin n _ _ => n
  | .inf n => n
  | .nan => false

def Num.neg : Num → Num
  | .fin n m e => .fin (!n) m e
  | .inf n => .inf (!n)
  | .nan => .nan

/-- `m` scaled by 2^(e − e0), for e0 ≤ e. -/
def scaleTo (m : Nat) (e e0 : Int) : Nat := m * 2 ^ (e - e0).toNat

/-- The exact sum of two numbers. An exact zero of operands of unlike sign is +0. -/
def Num.addX : Num → Num → Num
  | .nan, _ => .nan
  | _, .nan => .nan
  | .inf a, .inf b => if a = b then .inf a else .nan
  | .inf a, _ => .inf a
  | _, .inf b => .inf b
  | .fin a m e, .fin b n f =>
    let g := min e f
    let x : Int := if a then -(scaleTo m e g : Int) else scaleTo m e g
    let y : Int := if b then -(scaleTo n f g : Int) else scaleTo n f g
    let z := x + y
    if z = 0 then .fin (a && b) 0 0 else .fin (decide (z < 0)) z.natAbs g

/-- The exact product of two numbers (R93 for the special values). -/
def Num.mulX : Num → Num → Num
  | .nan, _ => .nan
  | _, .nan => .nan
  | .inf a, .inf b => .inf (a != b)
  | .inf a, .fin b n _ => if n = 0 then .nan else .inf (a != b)
  | .fin a m _, .inf b => if m = 0 then .nan else .inf (a != b)
  | .fin a m e, .fin b n f => if m * n = 0 then .fin (a != b) 0 0 else .fin (a != b) (m * n) (e + f)

/-- Order of two numbers that are not NaN: −1, 0 or 1. -/
def Num.cmpX (x y : Num) : Int :=
  match x, y with
  | .inf a, .inf b => if a = b then 0 else if a then -1 else 1
  | .inf a, _ => if a then -1 else 1
  | _, .inf b => if b then 1 else -1
  | .fin a m e, .fin b n f =>
    let g := min e f
    let u : Int := if a then -(scaleTo m e g : Int) else scaleTo m e g
    let v : Int := if b then -(scaleTo n f g : Int) else scaleTo n f g
    if u < v then -1 else if u = v then 0 else 1
  | _, _ => 0

/-! ### Rounding (R99) -/

/-- The RND codes of R62. -/
inductive Rnd where
  | near | zero | stoch
deriving DecidableEq, Repr

/-- R99: the magnitude m·2^e, with further nonzero bits below when `sticky`, in units of 2^q, rounded; and whether
anything was lost. `u` is the generator's draw. -/
def roundMag (rm : Rnd) (u m : Nat) (e : Int) (sticky : Bool) (q : Int) : Nat × Bool :=
  if q ≤ e then (m * 2 ^ (e - q).toNat, sticky)
  else
    let sh := (q - e).toNat
    let k := m / 2 ^ sh
    let r := m % 2 ^ sh
    let up := match rm with
      | .near => decide (2 ^ sh < 2 * r) || (decide (2 * r = 2 ^ sh) && (sticky || k % 2 == 1))
      | .zero => false
      | .stoch => decide (2 ^ 16 ≤ r * 2 ^ 16 / 2 ^ sh + u % 2 ^ 16)
    (if up then k + 1 else k, decide (r ≠ 0) || sticky)

/-- The significand and unit exponent of a nonzero magnitude in a format's precision, exponent unbounded above. -/
def FFmt.fit (f : FFmt) (rm : Rnd) (u m : Nat) (e : Int) (sticky : Bool) : Nat × Int :=
  let q := max ((Nat.log2 m : Int) + e - f.fbits) f.minExp
  let n := (roundMag rm u m e sticky q).1
  if n = 2 ^ (f.fbits + 1) then (2 ^ f.fbits, q + 1) else (n, q)

/-- The rounded magnitude lies above the largest finite value (R102). -/
def FFmt.exceeds (f : FFmt) (n : Nat) (q : Int) : Bool :=
  decide (f.maxExp < q) || (decide (q = f.maxExp) && decide (f.maxSig < n))

/-- The encoding of a magnitude that fits. -/
def FFmt.code (f : FFmt) (n : Nat) (q : Int) : Nat :=
  if n < 2 ^ f.fbits then n else (q + f.fbits + f.bias).toNat * 2 ^ f.fbits + (n - 2 ^ f.fbits)

/-! ### Flags (R103) -/

def flNVI : BitVec 4 := 1
def flDZ : BitVec 4 := 2
def flOVF : BitVec 4 := 4
def flUNF : BitVec 4 := 8

/-! ### Encodings -/

/-- R84: the exact value of an encoding. -/
def FFmt.decode (f : FFmt) (w : Nat) : Num :=
  let neg := bit w (f.ebits + f.fbits)
  let x := bits w (f.ebits + f.fbits - 1) f.fbits
  let fr := w % 2 ^ f.fbits
  if f.e4m3 then
    if x = f.expMax ∧ fr = 7 then .nan
    else if x = 0 then .fin neg fr (if fr = 0 then 0 else f.minExp)
    else .fin neg (fr + 2 ^ f.fbits) ((x : Int) - f.bias - f.fbits)
  else if x = f.expMax then (if fr = 0 then .inf neg else .nan)
  else if x = 0 then .fin neg fr (if fr = 0 then 0 else f.minExp)
  else .fin neg (fr + 2 ^ f.fbits) ((x : Int) - f.bias - f.fbits)

/-- R102 for a float target: the encoding and the flags. `sticky` says that the true magnitude lies just above. -/
def FFmt.encode (f : FFmt) (rm : Rnd) (ieee : Bool) (u : Nat) (v : Num) (sticky : Bool := false) : Nat × BitVec 4 :=
  match v with
  | .nan => (f.nanCode, flNVI)
  | .inf neg =>
    if ieee && !f.e4m3 then (f.signed neg f.infCode, 0) else (f.signed neg f.maxCode, flOVF)
  | .fin neg m e =>
    if m = 0 then (0, 0)
    else
      let (n, q) := f.fit rm u m e sticky
      if f.exceeds n q then
        (f.signed neg (if ieee && !f.e4m3 && rm != .zero then f.infCode else f.maxCode), flOVF)
      else if n = 0 then (f.signed neg 0, flUNF)
      else (f.signed neg (f.code n q), 0)

/-- R102 for an integer target of `w` bits. -/
def encodeInt (w : Nat) (sgn : Bool) (rm : Rnd) (u : Nat) (v : Num) : Nat × BitVec 4 :=
  let hi : Nat := if sgn then 2 ^ (w - 1) - 1 else 2 ^ w - 1
  let lo : Nat := if sgn then 2 ^ (w - 1) else 0
  match v with
  | .nan => (0, flNVI)
  | .inf neg => if neg then ((2 ^ w - lo) % 2 ^ w, flOVF) else (hi, flOVF)
  | .fin neg m e =>
    let n := (roundMag rm u m e false 0).1
    if neg then (if lo < n then ((2 ^ w - lo) % 2 ^ w, flOVF) else ((2 ^ w - n) % 2 ^ w, 0))
    else if hi < n then (hi, flOVF) else (n, 0)

/-! ### Accumulator arithmetic (R88 to R93) -/

/-- A value rounded to nearest even into an internal format; a zero is +0 (R92), an overflow is infinity with OVF (R91). -/
def FFmt.hold (f : FFmt) (v : Num) : Num × BitVec 4 :=
  match v with
  | .fin neg m e =>
    if m = 0 then (Num.zero, 0)
    else
      let (n, q) := f.fit .near 0 m e false
      if f.exceeds n q then (.inf neg, flOVF)
      else if n = 0 then (Num.zero, 0) else (.fin neg n q, 0)
  | .nan => (.nan, flNVI)
  | .inf neg => (.inf neg, 0)

/-- R89: one addition in an internal format. -/
def FFmt.add (f : FFmt) (x y : Num) : Num × BitVec 4 := f.hold (x.addX y)

/-- R88, R92: one product in an internal format. -/
def FFmt.mul (f : FFmt) (x y : Num) : Num × BitVec 4 := f.hold (x.mulX y)

/-- R90: saturating addition of the 56-bit integer accumulator. -/
def addSat56 (x y : Int) : Int × BitVec 4 :=
  let z := x + y
  if z < -(2 ^ 55 : Int) then (-(2 ^ 55 : Int), flOVF)
  else if (2 ^ 55 : Int) - 1 < z then ((2 ^ 55 : Int) - 1, flOVF) else (z, 0)

/-! ### Lane and sequencer arithmetic (R105) -/

/-- One IEEE result: rounded once, signed zeros kept, NaN canonical. -/
def FFmt.result (f : FFmt) (rm : Rnd) (v : Num) (sticky : Bool := false) : Nat × BitVec 4 :=
  match v with
  | .fin neg 0 _ => (f.signed neg 0, 0)
  | v => f.encode rm true 0 v sticky

/-- The sign of an exact zero sum: minus only where both operands are minus zero (IEEE 754, both rounding modes used). -/
def FFmt.addR (f : FFmt) (rm : Rnd) (a b : Nat) : Nat × BitVec 4 := f.result rm ((f.decode a).addX (f.decode b))
def FFmt.subR (f : FFmt) (rm : Rnd) (a b : Nat) : Nat × BitVec 4 := f.result rm ((f.decode a).addX (f.decode b).neg)
def FFmt.mulR (f : FFmt) (rm : Rnd) (a b : Nat) : Nat × BitVec 4 := f.result rm ((f.decode a).mulX (f.decode b))
def FFmt.fmaR (f : FFmt) (rm : Rnd) (a b c : Nat) : Nat × BitVec 4 :=
  f.result rm (((f.decode a).mulX (f.decode b)).addX (f.decode c))

/-! ### The rounding generator (R100) -/

/-- One advance of a rounding generator. -/
def lfsrNext (s : Word) : Word := (s >>> 1) ^^^ (if s.getLsbD 0 then 0x80200003 else 0)

/-- R100: the seed of a start; a zero is replaced by one. -/
def lfsrSeed (seed : Word) (tick : Nat) : Word :=
  let s := seed ^^^ BitVec.ofNat 32 tick
  if s = 0 then 1 else s

/-! ### Format codes (R62) -/

/-- A matrix operand or output format. -/
inductive Fmt where
  | int (w : Nat) (sgn : Bool)
  | flt (f : FFmt)

/-- R62: the format of a code; none where it is reserved. -/
def fmtOf (code : Nat) : Option Fmt :=
  match code with
  | 0 => some (.int 8 true) | 1 => some (.int 8 false) | 2 => some (.int 16 true) | 3 => some (.int 16 false)
  | 4 => some (.flt fE4M3) | 5 => some (.flt fE5M2) | 6 => some (.flt fFp16) | 7 => some (.flt fBf16)
  | 8 => some (.flt fFp32) | 9 => some (.flt fFp64) | 10 => some (.int 32 true) | _ => none

/-- Width in bits of a format code (R62); 0 where it is reserved. -/
def fmtBits (code : Nat) : Nat :=
  match code with
  | 0 => 8 | 1 => 8 | 2 => 16 | 3 => 16 | 4 => 8 | 5 => 8 | 6 => 16 | 7 => 16 | 8 => 32 | 9 => 64 | 10 => 32 | _ => 0

/-- The exact value of an encoding in a format. -/
def Fmt.decode : Fmt → Nat → Num
  | .int w true, x => Num.ofInt (sext w x)
  | .int w false, x => Num.ofInt ((x % 2 ^ w : Nat) : Int)
  | .flt f, x => f.decode x

/-- R102: conversion to a format with its flags. -/
def Fmt.encode (t : Fmt) (rm : Rnd) (ieee : Bool) (u : Nat) (v : Num) : Nat × BitVec 4 :=
  match t with
  | .int w sgn => encodeInt w sgn rm u v
  | .flt f => f.encode rm ieee u v

end Sys2Proof.Machine
end

