-- ==== Sys2Proof/Machine/Ops.lean ====
section
/-! DEFINITION. The named operations that the meanings share: access to units, to the register file and to the stores,
placement, FAULT bits and events, and the source side of a network interface with its fault reports and charges. -/

namespace Sys2Proof.Machine

abbrev Out := Host.Outcome State Fault Refusal

/-! ### Units -/

/-- The key of physical core `c` of tile die `t`. -/
def coreKey (t c : Nat) : Nat := 16 * t + c

def State.core (s : State) (t c : Nat) : Core := tget s.cores (coreKey t c) {}
def State.setCore (s : State) (t c : Nat) (v : Core) : State := { s with cores := tput s.cores (coreKey t c) v }
def State.updCore (s : State) (t c : Nat) (f : Core → Core) : State := s.setCore t c (f (s.core t c))

/-- The bank of a class (R128): 0 guard, 1 loop, otherwise estimate. -/
def Core.bank (k : Core) (cls : Nat) : Bank := match cls with | 0 => k.bG | 1 => k.bL | _ => k.bE
def Core.setBank (k : Core) (cls : Nat) (b : Bank) : Core :=
  match cls with | 0 => { k with bG := b } | 1 => { k with bL := b } | _ => { k with bE := b }

def State.bank (s : State) (t c cls : Nat) : Bank := (s.core t c).bank cls
def State.setBank (s : State) (t c cls : Nat) (b : Bank) : State := s.setCore t c ((s.core t c).setBank cls b)
def State.updBank (s : State) (t c cls : Nat) (f : Bank → Bank) : State := s.setBank t c cls (f (s.bank t c cls))

def State.tile (s : State) (t : Nat) : TileUnit := tget s.tiles t {}
def State.setTile (s : State) (t : Nat) (v : TileUnit) : State := { s with tiles := tput s.tiles t v }

def State.setNet (s : State) (n : Net) : State := { s with net := n }
def State.setPacer (s : State) (p : Pacer) : State := { s with pacer := p }
def State.setKeeper (s : State) (k : Keeper) : State := { s with keeper := k }
def State.setMint (s : State) (m : Mint) : State := { s with mint := m }
def State.setBoot (s : State) (b : Boot) : State := { s with boot := b }
def State.setHost (s : State) (h : HostIf) : State := { s with host := h }

/-- The physical tile dies. -/
def allTiles : List Nat := List.range 60

/-! ### Registers (R7, R8) -/

/-- The key of a register in the register file; `idx` tells the instances of a windowed register apart. -/
def regKey (da page off idx : Nat) : Nat := ((da * 256 + page) * 4096 + off) * 4096 + idx

/-- The reset word of the register at an offset, 0 where the page or the offset holds none. -/
def regReset (da page off : Nat) : Word :=
  match blkAt da page with
  | none => 0
  | some b => BitVec.ofNat 32 (fieldsReset (fieldsAt b off))

/-- The stored word of a register. -/
def State.reg (s : State) (da page off : Nat) (idx : Nat := 0) : Nat :=
  (tget s.regs (regKey da page off idx) (regReset da page off)).toNat

/-- A register set; a register at its reset value is not listed. -/
def State.setReg (s : State) (da page off v : Nat) (idx : Nat := 0) : State :=
  { s with regs := tputD (regReset da page off) s.regs (regKey da page off idx) (BitVec.ofNat 32 v) }

/-- A counter register advanced modulo 2^32. -/
def State.incReg (s : State) (da page off : Nat) (by_ : Nat := 1) : State :=
  s.setReg da page off ((s.reg da page off + by_) % 2 ^ 32)

/-- A 64-bit count: its low word at `lo`, its high word behind the latched register at `lo + 4` (instance 1). -/
def State.reg64 (s : State) (da page lo : Nat) : Nat := s.reg da page lo + 2 ^ 32 * s.reg da page (lo + 4) 1
def State.setReg64 (s : State) (da page lo v : Nat) : State :=
  (s.setReg da page lo (v % 2 ^ 32)).setReg da page (lo + 4) (v / 2 ^ 32 % 2 ^ 32) 1
def State.incReg64 (s : State) (da page lo : Nat) (by_ : Nat := 1) : State :=
  s.setReg64 da page lo ((s.reg64 da page lo + by_) % 2 ^ 64)

/-- R9: hardware sets sticky bit `n` of a register in the running core cycle. -/
def State.markFresh (s : State) (key n : Nat) : State :=
  if s.freshAt = s.boot.time then { s with fresh := (key, n) :: s.fresh.filter (· != (key, n)) }
  else { s with freshAt := s.boot.time, fresh := [(key, n)] }

/-- R9: the sticky bits of a register that hardware has set in the running core cycle: a write of 1 leaves them set. -/
def State.freshBits (s : State) (key : Nat) : Nat :=
  if s.freshAt = s.boot.time then (s.fresh.filter fun x => x.1 == key).foldl (fun w x => setBit w x.2) 0 else 0

/-- R9: what a W1C write of `v` clears: not the bits that hardware sets in the same core cycle. -/
def State.w1cBits (s : State) (key v : Nat) : Nat := v % 2 ^ 32 &&& (2 ^ 32 - 1 - s.freshBits key)

/-- R31: the host writes a register in the running core cycle. -/
def State.markHost (s : State) (key : Nat) : State :=
  if s.hostAt = s.boot.time then { s with hostWrote := key :: s.hostWrote.filter (· != key) }
  else { s with hostAt := s.boot.time, hostWrote := [key] }

/-- R31: the host has written the register in the running core cycle: a hardware update of that cycle comes before it, so that it leaves the
field as the host wrote it, and hardware acts on the written value from the next cycle on. -/
def State.hostHolds (s : State) (key : Nat) : Bool := s.hostAt == s.boot.time && s.hostWrote.contains key

/-- R449: an event sets FAULT bit `n` of a page and counts in EVENT_COUNT. -/
def State.flag (s : State) (da page n : Nat) : State :=
  ((s.setReg da page 0x014 (setBit (s.reg da page 0x014) n)).incReg da page 0x020).markFresh (regKey da page 0x014 0) n

/-- R449 CTRL.EN of a page. -/
def State.pageEn (s : State) (da page : Nat) : Bool := bit (s.reg da page 0x00C) 0

/-- Page indices of the pages of core `c` (R25). -/
def pgSeq (c : Nat) : Nat := 0x10 * (c + 1)
def pgMq (c : Nat) : Nat := 0x10 * (c + 1) + 1
def pgVec (c : Nat) : Nat := 0x10 * (c + 1) + 2
def pgStr (c : Nat) : Nat := 0x10 * (c + 1) + 3
def pgNi : Nat := 0x00
def pgNoc : Nat := 0x01
def pgAgr : Nat := 0x02
def pgBst : Nat := 0x03
def pgThm : Nat := 0x04
def pgStrDie : Nat := 0x08
def pgTlr : Nat := 0x09
def pgAud : Nat := 0x0A
def pgFabDie : Nat := 0xB0
def pgEdg : Nat := 0xC8
def pgPwm : Nat := 0xC9
def pgSdi : Nat := 0xCA
def pgEnc : Nat := 0xCB
def pgDlk : Nat := 0xCC
def pgPci : Nat := 0xCD
def pgTsn : Nat := 0xCE
def pgImg : Nat := 0xD0
def pgVlt : Nat := 0xD1
def pgLdg : Nat := 0xD2
def pgPrc : Nat := 0xE0
def pgTkc : Nat := 0xE1
def pgTtb : Nat := 0xE2
def pgMnt : Nat := 0xE3
def pgThmAgg : Nat := 0xE4

/-! ### The tick -/

/-- R441, R445: BST_STATE is idle: no orderly shutdown is under way or done. -/
def Boot.idle (b : Boot) : Bool := b.power != .quiescing && b.power != .testing && b.power != .halted

/-- P of R32. -/
def State.period (s : State) : Nat := s.reg pacerDA pgTkc 0x040 % 2 ^ 16
/-- C of R38. -/
def State.clearLen (s : State) : Nat := s.reg pacerDA pgTkc 0x044 % 2 ^ 12
/-- D of R38. -/
def State.outOffset (s : State) : Nat := s.reg pacerDA pgTkc 0x048 % 2 ^ 12
def State.tick (s : State) : Nat := s.pacer.tick
def State.disarmed (s : State) : Bool := decide (s.pacer.phase = .disarmed)
def State.running (s : State) : Bool := decide (s.pacer.phase = .running)

/-- A tick runs, to its end or to a restart (R389). -/
def State.inTick (s : State) : Bool := s.running || decide (s.pacer.phase = .restarting)

/-- Timetable fields (R43). -/
def TtEntry.at_ (e : TtEntry) : Nat := bits e.w0.toNat 15 0
def TtEntry.kind (e : TtEntry) : Nat := bits e.w0.toNat 19 16
def TtEntry.cls (e : TtEntry) : Nat := bits e.w0.toNat 21 20
def TtEntry.div (e : TtEntry) : Nat := bits e.w0.toNat 24 22
def TtEntry.phase (e : TtEntry) : Nat := bits e.w0.toNat 31 25
def TtEntry.span (e : TtEntry) : Nat := bits e.w1.toNat 15 0
def TtEntry.die (e : TtEntry) : Nat := bits e.w2.toNat 7 0
def TtEntry.unit (e : TtEntry) : Nat := bits e.w2.toNat 11 8
def TtEntry.dakind (e : TtEntry) : Bool := bit e.w2.toNat 12
def TtEntry.obj (e : TtEntry) : Nat := bits e.w2.toNat 31 16
def TtEntry.arg (e : TtEntry) : Nat := bits e.w3.toNat 15 0
/-- R45: the entry fires in the tick. -/
def TtEntry.fires (e : TtEntry) (tick : Nat) : Bool := decide (tick % 2 ^ e.div = e.phase)

def State.ttEntry (s : State) (i : Nat) : Option TtEntry := s.pacer.entries[i]?

/-! ### Placement (R14 to R24) -/

/-- The physical tile die of logical die `n`, none where it is unbound or the map is not loaded. -/
def Placement.phys (p : Placement) (n : Nat) : Option Nat :=
  if n < 56 then tget p.dieOf n (some n) else none

/-- The role code of a physical core (R22). -/
def Placement.roleOf (p : Placement) (t c : Nat) : Nat := tget p.role (coreKey t c) c

/-- DIE_STATE of a tile die: 0 reserve, 1 in service, 2 retired. -/
def Placement.dieState (p : Placement) (t : Nat) : Nat := tget p.state t (if t < 56 then 1 else 0)

/-- The physical core of a die that carries logical index `k`. -/
def Placement.coreOf (p : Placement) (t k : Nat) : Option Nat := (List.range 9).find? fun c => p.roleOf t c == k

/-- The logical die that a physical die carries. -/
def Placement.logical (p : Placement) (t : Nat) : Option Nat :=
  (List.range 56).find? fun n => p.phys n == some t

/-- The spare core of a die (R15), its auditor. -/
def Placement.spare (p : Placement) (t : Nat) : Option Nat := (List.range 9).find? fun c => p.roleOf t c == 8

def State.place (s : State) : Placement := s.keeper.place
def State.physDie (s : State) (n : Nat) : Option Nat := s.place.phys n

/-- The physical core of logical core `k` of logical die `n`. -/
def State.physCore (s : State) (n k : Nat) : Option (Nat × Nat) :=
  if s.place.unjoined.contains (16 * n + k) then none else (s.physDie n).bind fun t => (s.place.coreOf t k).map fun c => (t, c)

/-- The core that a tile-targeted timetable entry names. -/
def State.entryCore (s : State) (e : TtEntry) : Option (Nat × Nat) := s.physCore e.die e.unit

/-- R30: the page's die or core is retired. -/
def State.retired (s : State) (da page : Nat) : Bool :=
  match dieKind da with
  | some .tile =>
    let t := tileOfDA da
    s.place.dieState t == 2 || (decide (0x10 ≤ page) && decide (page < 0xA0) && s.place.roleOf t (page / 16 - 1) == 14)
  | _ => false

/-- In-service tile dies in increasing index. -/
def State.inService (s : State) : List Nat := allTiles.filter fun t => s.place.dieState t == 1

/-! ### Stores -/

/-- The stores of the device. A core store, coefficient store, vector instruction store and fixed descriptor memory
belong to a core (unit `coreKey t c`), a die store to a tile die, a flash device is a unit of its own (R353), the others
belong to the device. -/
inductive Sp where
  | core | coef | vis | fdesc | die | dram | host | flash
deriving DecidableEq, Repr

def Sp.code : Sp → Nat
  | .core => 0 | .coef => 1 | .vis => 2 | .fdesc => 3 | .die => 4 | .dram => 5 | .host => 6 | .flash => 7

/-- Bytes of one unit of a store (R137, R160, R177, R198, R261, R353, R412). -/
def Sp.size : Sp → Nat
  | .core => 0x100000 | .coef => 0x10000 | .vis => 0x8000 | .fdesc => 0x10000 | .die => 0x3000000
  | .dram => 2 ^ 42 | .host => 2 ^ 64 | .flash => 2 ^ 29

/-- The address of a byte among all stores: the key of the one memory. -/
def gAddr (sp : Sp) (unit a : Nat) : Nat := (sp.code * 2 ^ 16 + unit) * 2 ^ 64 + a

/-- The global index of the 32-byte granule of a byte. -/
def gGran (sp : Sp) (unit a : Nat) : Nat := gAddr sp unit a / 32

/-- What a byte that nothing has written reads as (DESIGN CHOICE, notes/assumptions/5.md). -/
def memDefault : Byte := 0

/-- R477: the canonical form of the memory: addresses strictly rising, no byte listed that reads as unlisted. -/
def Memory.wf (m : List Host.Cell) : Bool := tsorted m && m.all fun c => c.2 != memDefault

def memGet (m : List Host.Cell) (a : Nat) : Byte := tget m a memDefault
def memPut (m : List Host.Cell) (a : Nat) (b : Byte) : List Host.Cell := tputD memDefault m a b

/-- Consecutive bytes written; none leaves a byte as it is. -/
def memPutAll : List Host.Cell → Nat → List (Option Byte) → List Host.Cell
  | m, _, [] => m
  | m, a, none :: r => memPutAll m (a + 1) r
  | m, a, some b :: r => memPutAll (memPut m a b) (a + 1) r

def memGetAll (m : List Host.Cell) (a n : Nat) : List Byte := (List.range n).map fun i => memGet m (a + i)

/-- One byte of a store. -/
def State.byte (s : State) (sp : Sp) (unit a : Nat) : Byte := memGet s.mem (gAddr sp unit a)

/-- `n` bytes of a store. -/
def State.bytesAt (s : State) (sp : Sp) (unit a n : Nat) : List Byte := memGetAll s.mem (gAddr sp unit a) n

def State.word (s : State) (sp : Sp) (unit a : Nat) : Nat := leNat (s.bytesAt sp unit a 4)

/-- The granule that holds a byte carries poison. -/
def State.psn (s : State) (sp : Sp) (unit a : Nat) : Bool := s.poison.contains (gGran sp unit a)

/-- Some granule of `n` bytes carries poison. -/
def State.psnAny (s : State) (sp : Sp) (unit a n : Nat) : Bool :=
  (List.range ((a % 32 + n + 31) / 32)).any fun i => s.psn sp unit (a - a % 32 + 32 * i)

/-- R412: base of the reserved area of a die store. -/
def dieReserved : Nat := 0x2C00000

/-- R394, R399, R403: before the first write to a granule that a capture covers, the die unit takes its old value. -/
def State.captureOld (s : State) (sp : Sp) (unit a : Nat) : State :=
  let g := gGran sp unit a
  let take := fun (t : Nat) (limit : Nat) (tie : Bool) =>
    let u := s.tile t
    let l := if tie then u.tieCapture else u.capture
    if (l.any fun x => x.1 == g) then s
    else if limit ≤ l.length then s.setTile t (if tie then { u with tieOvf := true } else { u with captureOvf := true })
    else
      let x := (g, memGetAll s.mem (g * 32) 32, s.poison.contains g)
      s.setTile t (if tie then { u with tieCapture := u.tieCapture ++ [x] } else { u with capture := u.capture ++ [x] })
  match sp with
  | .die => if (s.tile unit).tieCapturing && decide (a < dieReserved) then take unit 16384 true else s
  | .core =>
    let t := unit / 16
    let u := s.tile t
    let covers := fun (x : Sample) =>
      let win := s.reg (tileDA t) (pgSeq x.core) 0x068
      let base := bits win 7 0 * 4096
      decide (x.core = unit % 16) && decide (base ≤ a) && decide (a < base + bits win 16 8 * 4096)
    let s := match u.sample with
      | none => s
      | some x => if covers x then take t 8192 false else s
    if u.held.isEmpty then s
    else
      let u := s.tile t
      s.setTile t { u with held := u.held.map fun h =>
        if (h.capture.any fun y => y.1 == g) || !covers h.x then h
        else if 8192 ≤ h.capture.length then { h with ovf := true }
        else { h with capture := h.capture ++ [(g, memGetAll s.mem (g * 32) 32, s.poison.contains g)] } }
  | _ => s

/-- R386: the granule of a core store lies in the class 0/1 state range of its core (AUD_SRANGE). -/
def State.inStateRange (s : State) (unit a : Nat) : Bool :=
  let w := s.reg (tileDA (unit / 16)) pgAud (0x080 + 4 * (unit % 16))
  decide (bits w 14 0 ≤ a / 32) && decide (a / 32 < bits w 14 0 + bits w 26 16)

/-- One write within one granule of a store: `bs` from byte `a` on, with or without poison. R477 gives the mark, R112
the zero tag; a granule of a state range counts as written for both generations (R386). In DRAM the mark covers the 64-byte burst (R275), and the caller gives the whole burst or part of it. -/
def State.writeGran (s : State) (sp : Sp) (unit a : Nat) (bs : List (Option Byte)) (p : Bool) : State :=
  if bs.all (·.isNone) then s
  else
    let s := s.captureOld sp unit a
    let mem := memPutAll s.mem (gAddr sp unit a) bs
    let g := gGran sp unit a
    let whole := decide (a % 32 = 0) && decide (bs.length = 32) && bs.all (·.isSome)
    let poison := if p then nadd s.poison g else if whole then ndel s.poison g else s.poison
    let zero := decide (sp = .core) && (memGetAll mem (g * 32) 32).all (· == 0) && !poison.contains g
    let mark := fun (l : List Nat) => if sp = .core ∧ s.inStateRange unit a then nadd l g else l
    { s with mem := mem, poison := poison, zeroTags := if sp = .core then nset s.zeroTags g zero else s.zeroTags,
             dirty0 := mark s.dirty0, dirty1 := mark s.dirty1 }

/-- The granule pieces of a run: `n` more granules, the first write starting at `a`. -/
def State.writePieces (s : State) (sp : Sp) (unit : Nat) : Nat → Nat → List (Option Byte) → List Bool → State
  | 0, _, _, _ => s
  | n + 1, a, bs, ps =>
    let k := 32 - a % 32
    (s.writeGran sp unit a (bs.take k) (ps.headD false)).writePieces sp unit n (a + k) (bs.drop k) (ps.drop 1)

/-- A write of consecutive bytes with byte enables; `ps` is the poison of each granule that the run touches, in order. -/
def State.write (s : State) (sp : Sp) (unit a : Nat) (bs : List (Option Byte)) (ps : List Bool) : State :=
  s.writePieces sp unit ((a % 32 + bs.length + 31) / 32) a bs ps

/-- A write of consecutive bytes, all enabled, with one poison mark for all of them. -/
def State.writeAll (s : State) (sp : Sp) (unit a : Nat) (bs : List Byte) (p : Bool) : State :=
  s.write sp unit a (bs.map some) (List.replicate ((a % 32 + bs.length + 31) / 32) p)

/-! ### Run digests (R399) -/

/-- R399: what one granule write adds to a run digest: the CRC of its 44-byte block, inverted for poison. `space` is the code of
R198, `die` the logical die of the target, 0xFF where it has none; of a fabric port the address holds the port below the offset
(notes/assumptions/246.md). -/
def blockDigest (space die port a : Nat) (bs : List (Option Byte)) (p : Bool) : Nat :=
  let lo := a % 32
  let at_ := if space = 3 then port + 256 * (a - lo) else a - lo
  let fill := fun (n : Nat) => List.replicate n (none : Option Byte)
  let l := (fill lo ++ bs ++ fill 32).take 32
  let c := crc64 (leBytes 8 (at_ + space * 2 ^ 48 + die * 2 ^ 56) ++ l.map (·.getD 0) ++ leBytes 4 (packBits (l.map (·.isSome))))
  if p then 2 ^ 64 - 1 - c else c

/-- The granule writes of a run of bytes, `n` of them. -/
def blocksDigest (space die port : Nat) : Nat → Nat → List (Option Byte) → List Bool → Nat
  | 0, _, _, _ => 0
  | n + 1, a, bs, ps =>
    let k := 32 - a % 32
    let here := bs.take k
    (if here.all (·.isNone) then 0 else blockDigest space die port a here (ps.headD false)) +
      blocksDigest space die port n (a + k) (bs.drop k) (ps.drop 1)

/-- The writes of a run of a class on a core count in the digest of the sample. -/
def Sample.counts (x : Sample) (c cls : Nat) : Bool := cls == 2 && x.core == c && !x.ended && !x.stopped && !x.adapt

/-- R399: a class 2 run of a core writes: the write enters the run digest of a sample that is taken of it. -/
def State.noteRun (s : State) (t c cls space die port a : Nat) (bs : List (Option Byte)) (ps : List Bool) : State :=
  match (s.tile t).sample with
  | some x =>
    if x.counts c cls then
      let d := blocksDigest space die port ((a % 32 + bs.length + 31) / 32) a bs ps
      s.setTile t { s.tile t with sample := some { x with digest := x.digest + BitVec.ofNat 64 d } }
    else s
  | none => s

/-- The logical die of a tile die as a target, 0xFF where it carries none. -/
def State.ownDie (s : State) (t : Nat) : Nat := (s.place.logical t).getD 0xFF

/-- A run of a class writes consecutive bytes of its core store, with one poison mark for all of them. -/
def State.writeRun (s : State) (t c cls a : Nat) (bs : List Byte) (p : Bool) : State :=
  (s.writeAll .core (coreKey t c) a bs p).noteRun t c cls 0 (s.ownDie t) 0 a (bs.map some)
    (List.replicate ((a % 32 + bs.length + 31) / 32) p)

/-- The poison marks of the granules of a run. -/
def State.psnList (s : State) (sp : Sp) (unit a n : Nat) : List Bool :=
  (List.range ((a % 32 + n + 31) / 32)).map fun i => s.psn sp unit (a - a % 32 + 32 * i)

/-- A copy of whole granules: each copy takes the mark of its source (R477). -/
def State.copyGrans (s : State) (sp sp' : Sp) (unit unit' a a' n : Nat) : State :=
  s.write sp' unit' a' ((s.bytesAt sp unit a (32 * n)).map some) (s.psnList sp unit a (32 * n))

/-! ### Events for the host (R343) -/

def evRevoke : Nat := 0x05

/-- R343: an event joins the held events; the 65th drops the oldest that is not a revocation. -/
def State.event (s : State) (e : Event) : State :=
  let h := s.host
  if h.held.length < 64 then s.setHost { h with held := h.held ++ [e] }
  else if h.held.all (fun x => x.code == evRevoke) then s.flag pcieDA pgPci 4
  else
    let i := h.held.findIdx fun x => x.code != evRevoke
    ((s.setHost { h with held := h.held.eraseIdx i ++ [e] }).flag pcieDA pgPci 3).incReg pcieDA pgPci 0x06C

def State.tickWord (s : State) : Word := BitVec.ofNat 32 s.tick

/-! ### Memory channels (R263) -/

def State.chan (s : State) (ch : Nat) : Chan := tget s.chans ch {}
def State.setChan (s : State) (ch : Nat) (v : Chan) : State := { s with chans := tput s.chans ch v }

/-! ### The source side of a network interface (R241, R250, R251) -/

end Sys2Proof.Machine

namespace Sys2Proof

/-- A packet with every field 0. -/
def Packet.blank : Packet where
  opc := 0
  cls := 0
  dst := 0
  src := 0
  sport := 0
  dport := 0
  len := 0
  tag := 0
  age := 0
  hops := 0
  ptr := 0
  rb := false
  status := 0
  space := 0
  route := 0
  addr := 0
  aux := 0
  byteEn := 0
  rsv := false
  data := []
  psn := []

/-- A read or write request. -/
def Packet.isRequest (p : Packet) : Bool := p.opc == 1 || p.opc == 2

/-- A read or write response. -/
def Packet.isResponse (p : Packet) : Bool := p.opc == 8 || p.opc == 9

/-- R245: the queue code of a packet. -/
def Packet.queue (p : Packet) : Nat := p.cls.toNat + (if p.isResponse then 3 else 0)

/-- A packet with its route filled in: hops, route, RB (R241). -/
def Packet.routed (p : Packet) (r : Nat × Nat × Bool) : Packet :=
  { p with hops := BitVec.ofNat 5 r.1, route := BitVec.ofNat 48 r.2.1, rb := r.2.2, ptr := 0, age := 0 }

end Sys2Proof

namespace Sys2Proof.Machine

def opRD : BitVec 4 := 1
def opWR : BitVec 4 := 2
def opARR : BitVec 4 := 3
def opSIG : BitVec 4 := 4
def opMSG : BitVec 4 := 5
def opRDR : BitVec 4 := 8
def opWRR : BitVec 4 := 9

/-- R230: the link that port `p` of the router at a DA faces, none at the edge of the mesh. -/
def linkAt (da p : Nat) : Option Nat :=
  let x := da % 16
  let y := da / 16
  match p with
  | 0 => if x < 9 then some (9 * y + x) else none
  | 1 => if y < 9 then some (90 + 10 * y + x) else none
  | 2 => if 0 < x then some (9 * y + (x - 1)) else none
  | 3 => if 0 < y then some (90 + 10 * (y - 1) + x) else none
  | _ => none

/-- The DA that port `p` faces. -/
def neighbour (da p : Nat) : Nat :=
  match p with
  | 0 => da + 1
  | 1 => da + 16
  | 2 => da - 1
  | _ => da - 16

/-- The receive side of the direction that leaves a die at port `p`. -/
def farSide (da p : Nat) : Nat := 4 * neighbour da p + (p + 2) % 4

/-- The links of a route from a DA: `n` hops, directions in `route` from hop 0. -/
def routeLinks : Nat → Nat → Nat → List Nat
  | 0, _, _ => []
  | n + 1, da, route =>
    match linkAt da (route % 4) with
    | none => []
    | some l => l :: routeLinks n (neighbour da (route % 4)) (route / 4)

/-- The links of a failed element (R244): a link, or those of the router at DA `n` − 256. -/
def elementLinks (n : Nat) : List Nat := if n < 256 then [n] else (List.range 4).filterMap fun p => linkAt (n - 256) p

/-- R478: the start route, x first and then y. -/
def startRoute (src dst : Nat) : Nat × Nat :=
  let xs := src % 16
  let xd := dst % 16
  let ys := src / 16
  let yd := dst / 16
  let l := (if xs ≤ xd then List.replicate (xd - xs) 0 else List.replicate (xs - xd) 2) ++
    (if ys ≤ yd then List.replicate (yd - ys) 1 else List.replicate (ys - yd) 3)
  (l.length, packFields 2 l)

/-- The route table entry of a die's NI (R241), as words. -/
def State.routeWords (s : State) (da idx : Nat) : Word × Word × Word × Word :=
  if s.net.startRoutes then
    if (dieKind (idx % 256)).isSome then
      let r := startRoute da (idx % 256)
      (BitVec.ofNat 32 (idx % 256 + 2 ^ 8 + 2 ^ 9 * r.1), BitVec.ofNat 32 r.2, BitVec.ofNat 32 (r.2 / 2 ^ 32), 0)
    else (0, 0, 0, 0)
  else tget s.net.routes (da * 4096 + idx) (0, 0, 0, 0)

/-- R241: hops, route and RB of a packet of source port `sport` to a DA, none where no entry is valid. -/
def State.routeTo (s : State) (src sport dst : Nat) : Option (Nat × Nat × Bool) :=
  let (w0, w1, w2, w3) := s.routeWords src (sport * 256 + dst)
  if bit w0.toNat 8 then
    let ha := bits w0.toNat 13 9
    let hb := bits w0.toNat 18 14
    let ra := w1.toNat + bits w2.toNat 15 0 * 2 ^ 32
    let rb := bits w2.toNat 31 16 + w3.toNat * 2 ^ 16
    match s.net.failedLink with
    | some l => if (routeLinks ha src ra).any fun k => (elementLinks l).contains k then some (hb, rb, true) else some (ha, ra, false)
    | none => some (ha, ra, false)
  else none

/-- R198, R239: the byte address of a request or a response. The address of a fabric port holds the port in [7:0] and the byte
offset above it; the layout of the data flits follows the byte offset (DEDUCED, notes/assumptions/31.md). -/
def byteAddr (p : Packet) : Nat := if p.space = 4 then p.addr.toNat / 256 else p.addr.toNat

/-- Flits of a packet (R239). -/
def flitsOf (p : Packet) : Nat := 1 + (if p.data.isEmpty then 0 else (byteAddr p % 64 + p.data.length + 63) / 64)

/-- R245: the buffer of a queue, in flits. -/
def queueRoom (q : Nat) : Nat := if q = 2 ∨ q = 5 then 20 else 10

/-- The flits in a queue of an input port. -/
def queueFill (l : List QPacket) (da inp q : Nat) : Nat :=
  ((l.filter fun y => y.da == da && y.inp == inp && y.q == q).map fun y => flitsOf y.p).sum

/-- R248: the NI of a die injects each queue into the local input of its router, in order, while that has room. -/
def admitList (now : Nat) : List QPacket → List QPacket → List QPacket
  | done, [] => done
  | done, x :: r =>
    let held := done.any fun y => y.inp == 5 && y.da == x.da && y.q == x.q
    if x.inp = 5 ∧ !held ∧ queueFill (done ++ r) x.da 4 x.q + flitsOf x.p ≤ queueRoom x.q then
      admitList now (done ++ [{ x with inp := 4, since := now, aged := now, head := now }]) r
    else admitList now (done ++ [x]) r

def State.admitQueued (s : State) : State := s.setNet { s.net with queued := admitList s.boot.time [] s.net.queued }

/-- What reaches its own die of a packet whose route has no hop: the packet, or, of another destination, one that is refused there (R240,
notes/assumptions/188.md). -/
def looped (p : Packet) : Packet := if p.dst = p.src then p else { p with dst := p.src, rsv := true }

/-- A packet enters its network: the injection queue of its NI, or its own die where it has no hop (R233, R242). -/
def State.inject (s : State) (p : Packet) : State :=
  let now := s.boot.time
  if p.hops = 0 then s.setNet { s.net with arrived := s.net.arrived ++ [looped p] }
  else (s.setNet { s.net with
    queued := s.net.queued ++ [{ da := p.src.toNat, inp := 5, q := p.queue, p := p, since := now, aged := now, head := now }] }).admitQueued

/-- R378: the payload of a fault report. -/
def reportData (fkind cls tick ref detail : Nat) : List Byte :=
  leBytes 4 (fkind + cls * 256) ++ leBytes 4 tick ++ leBytes 4 ref ++ leBytes 4 detail

def noRef : Nat := 0xFFFFFFFF

/-- A posted packet that finds no route sets UNROUTABLE and is dropped (R251). -/
def State.postRaw (s : State) (p : Packet) : State :=
  match s.routeTo p.src.toNat p.sport.toNat p.dst.toNat with
  | some r => s.inject (p.routed r)
  | none => s.flag p.src.toNat pgNi 1

/-- A message packet of a die. -/
def msgPkt (src sport dst dport cls kind : Nat) (data : List Byte) : Packet :=
  { Packet.blank with
      opc := opMSG, cls := BitVec.ofNat 2 cls, dst := BitVec.ofNat 8 dst, src := BitVec.ofNat 8 src,
      sport := BitVec.ofNat 4 sport, dport := BitVec.ofNat 4 dport, len := BitVec.ofNat 9 data.length,
      aux := BitVec.ofNat 32 kind, data := data, psn := List.replicate ((data.length + 31) / 32) false }

/-- The port of a die's own unit as a source of messages: port 9 on a tile die (R238), 0 elsewhere. -/
def unitPort (da : Nat) : Nat := if dieKind da = some .tile then 9 else 0

/-- R378: a unit on a die reports a fault to the Pacer. -/
def State.report (s : State) (da cls fkind ref detail : Nat) : State :=
  s.postRaw (msgPkt da (unitPort da) pacerDA 0 cls 0x05
    (reportData fkind cls (s.tick % 2 ^ 32) ref (detail % 2 ^ 32)))

def ckConfirmed : Nat := 0
def ckSuspect : Nat := 1
def ckCorrected : Nat := 2
def ckBist : Nat := 3

/-- R380: a die charges a unit in the Ledger. -/
def State.charge (s : State) (da ref ckind fkind loc : Nat) : State :=
  s.postRaw (msgPkt da (unitPort da) keeperDA 0 2 0x06
    (leBytes 4 ref ++ leBytes 4 (ckind + fkind * 4) ++ leBytes 4 loc ++ leBytes 4 (s.tick % 2 ^ 32)))

/-- R251: the record and the reports of an error of a request. -/
def State.niError (s : State) (da : Nat) (p : Packet) (status : Nat) : State :=
  let old := s.reg da pgNi 0x060
  let info := p.dst.toNat + status * 2 ^ 8 + p.cls.toNat * 2 ^ 16 + p.sport.toNat * 2 ^ 18 + 2 ^ 31
  let s := if bit old 31 then s else s.setReg da pgNi 0x060 info
  if p.cls.toNat < 2 ∧ (status = 1 ∨ status = 2) then s.report da p.cls.toNat 0x06 noRef info else s

/-- A response that an NI makes itself, delivered to the initiator (R250, R251). -/
def synthRsp (p : Packet) (status : Nat) : Packet :=
  { Packet.blank with
      opc := if p.opc = opRD then opRDR else opWRR, cls := p.cls, dst := p.src, src := p.dst,
      sport := p.dport, dport := p.sport, tag := p.tag, space := p.space, addr := p.addr,
      status := BitVec.ofNat 8 status }

def State.arrive (s : State) (p : Packet) : State := s.setNet { s.net with arrived := s.net.arrived ++ [p] }

/-- R251: a posted packet is handed to the NI of its source. -/
def State.post (s : State) (p : Packet) : State :=
  match s.routeTo p.src.toNat p.sport.toNat p.dst.toNat with
  | some r => s.inject (p.routed r)
  | none =>
    let s := s.flag p.src.toNat pgNi 1
    if p.cls.toNat < 2 then s.niError p.src.toNat p 2 else s

/-- A posted packet to a logical die; one that is unbound drops it and sets UNROUTABLE (R251). -/
def State.postLogical (s : State) (n : Nat) (p : Packet) : State :=
  match s.physDie n with
  | some t => s.post { p with dst := BitVec.ofNat 8 (tileDA t) }
  | none => s.flag p.src.toNat pgNi 1

/-- The tags of a port that an outstanding request or a timeout still holds. -/
def State.tagsUsed (s : State) (da port : Nat) : List Nat :=
  ((s.net.outstanding.filter fun o => o.da == da && o.port == port).map (·.tag)) ++
    ((s.net.heldTags.filter fun h => h.da == da && h.port == port).map (·.tag))

/-- NI_TIMEOUT of a die, in core cycles. -/
def State.niTimeout (s : State) (da : Nat) : Nat := 350 * (s.reg da pgNi 0x040 % 2 ^ 12)

/-- The lowest free tag of a port (DESIGN CHOICE, notes/assumptions/11.md). -/
def State.freeTag (s : State) (da port : Nat) : Option Nat :=
  let used := s.tagsUsed da port
  (List.range 1024).find? fun t => !used.contains t

/-- R241, R250: a request is handed to the NI of its source with tag `tag`; without a route it is answered UNROUTABLE. -/
def State.request (s : State) (p : Packet) (tag : Nat) : State :=
  let p := { p with tag := BitVec.ofNat 10 tag }
  let da := p.src.toNat
  let s := s.setNet { s.net with
    outstanding := s.net.outstanding ++ [{ da := da, port := p.sport.toNat, tag := tag, p := p, sent := s.boot.time }] }
  match s.routeTo da p.sport.toNat p.dst.toNat with
  | some r => s.inject (p.routed r)
  | none => (s.flag da pgNi 1).arrive (synthRsp p 2)

/-- A request to a logical die; an unbound die answers UNROUTABLE (R241). -/
def State.requestLogical (s : State) (n : Nat) (p : Packet) (tag : Nat) : State :=
  match s.physDie n with
  | some t => s.request { p with dst := BitVec.ofNat 8 (tileDA t) } tag
  | none =>
    let p := { p with tag := BitVec.ofNat 10 tag }
    let da := p.src.toNat
    let s := s.setNet { s.net with
      outstanding := s.net.outstanding ++ [{ da := da, port := p.sport.toNat, tag := tag, p := p, sent := s.boot.time }] }
    (s.flag da pgNi 1).arrive (synthRsp p 2)

/-- A target answers a request (R237, R245): the response carries the request's class and tag. -/
def State.respond (s : State) (p : Packet) (status : Nat) (data : List Byte) (psn : List Bool) : State :=
  s.postRaw { synthRsp p status with len := BitVec.ofNat 9 data.length, data := data, psn := psn }

/-- R240: a packet is refused at its target. -/
def State.refusePkt (s : State) (p : Packet) : State :=
  let s := s.flag p.dst.toNat pgNi 3
  if p.isRequest then s.respond p 4 [] [] else s

/-- A packet that has reached its target unit is taken from the network. -/
def State.take (s : State) (p : Packet) : State := s.setNet { s.net with arrived := s.net.arrived.erase p }

/-- The packet waits at its target. -/
def State.hasArrived (s : State) (p : Packet) : Bool := s.net.arrived.contains p

/-- R372: fault injection is permitted. -/
def State.injectable (s : State) : Bool := s.keeper.lifecycle != 1

/-! ### Free values -/

/-- The counter of free values advanced by one: the next draw is another one. -/
def State.draw (s : State) : State := { s with free := s.free + 1 }

end Sys2Proof.Machine
end

