-- ==== Sys2Proof/Machine/CoreOps.lean ====
section
/-! DEFINITION. Operations on one core that several chapters share: charges, the quad's abandonment (R70), launches,
streams (R193 to R221), task holding places (R179 to R182), faulted programs (R147 to R149), starts (R129, R130). -/

namespace Sys2Proof.Machine

/-! ### ASTAT and the event flags (R104, R128, R158) -/

/-- The registers SEQ_ASTAT of a class and SEQ_EVENT. -/
def astatKey (t c cls : Nat) : Nat := regKey (tileDA t) (pgSeq c) (0x050 + 4 * cls) 0
def eventKey (t c : Nat) : Nat := regKey (tileDA t) (pgSeq c) 0x05C 0

/-- R104: flags merge into the class's ASTAT. -/
def State.mergeFlags (s : State) (t c cls : Nat) (f : BitVec 4) : State :=
  let s := s.updBank t c cls fun b => { b with astat := b.astat ||| f }
  ((List.range 4).filter fun i => f.getLsbD i).foldl (fun s i => s.markFresh (astatKey t c cls) i) s

/-- R128: the event flags of a bank: a check failed, poison was consumed in control, commands were abandoned. -/
def State.raiseCk (s : State) (t c cls : Nat) : State :=
  (s.updBank t c cls fun b => { b with ck := true }).markFresh (eventKey t c) (2 * cls)
def State.raisePs (s : State) (t c cls : Nat) : State :=
  (s.updBank t c cls fun b => { b with ps := true }).markFresh (eventKey t c) (2 * cls + 1)
def State.raiseAb (s : State) (t c : Nat) : State :=
  (s.updBank t c 2 fun b => { b with ab := true }).markFresh (eventKey t c) 6

/-! ### Charges (R416 to R422) -/

/-- R417, R421, R422: a charge in 2^-20 coin is taken; class 2 takes it from the die's allowance. -/
def State.spend (s : State) (t c cls amount : Nat) : State :=
  let s := s.updBank t c cls fun b => { b with spent := b.spent + amount }
  if cls = 2 then
    let s := s.setTile t { s.tile t with allowance := (s.tile t).allowance - amount }
    s.setMint { s.mint with spentQ := s.mint.spentQ + amount }
  else s

/-- R421: a class 2 charge that may be held is covered by the allowance; classes 0 and 1 are never held (R422). -/
def State.covers (s : State) (t cls amount : Nat) : Bool :=
  cls != 2 || (decide (0 < (s.tile t).allowance) && decide ((amount : Int) ≤ (s.tile t).allowance))

/-- R125: a unit of a tile die reports a refund to the Mint. -/
def State.reportRefund (s : State) (t amount : Nat) : State :=
  if amount = 0 then s else s.setMint { s.mint with refunds := s.mint.refunds ++ [(t, amount)] }

/-- R211: a beat of class 0 or 1 at the own die store waited for its bank: how long is not stated below 1 + Q, Q at most
20, and STR_ARB_MAX records the longest wait. -/
def State.arbWait (s : State) (t cls : Nat) : State :=
  if cls = 2 then s
  else (s.setReg (tileDA t) pgStrDie 0x05C (max (s.reg (tileDA t) pgStrDie 0x05C % 256) (Config.freeNat s.free % 22))).draw

/-! ### The quad -/

/-- Matrix multiply command fields (R61). -/
def MqCmd.kind (m : MqCmd) : Nat := bits m.w0.toNat 3 0
def MqCmd.shape (m : MqCmd) : Nat := bits m.w0.toNat 6 4
def MqCmd.sparse (m : MqCmd) : Nat := bits m.w0.toNat 8 7
def MqCmd.afmt (m : MqCmd) : Nat := bits m.w0.toNat 12 9
def MqCmd.wfmt (m : MqCmd) : Nat := bits m.w0.toNat 16 13
def MqCmd.ofmt (m : MqCmd) : Nat := bits m.w0.toNat 20 17
def MqCmd.rnd (m : MqCmd) : Nat := bits m.w0.toNat 22 21
def MqCmd.ovm (m : MqCmd) : Bool := bit m.w0.toNat 23
def MqCmd.swap (m : MqCmd) : Bool := bit m.w0.toNat 24
def MqCmd.acc (m : MqCmd) : Bool := bit m.w0.toNat 25
def MqCmd.out (m : MqCmd) : Bool := bit m.w0.toNat 26
def MqCmd.m (m : MqCmd) : Nat := bits m.w1.toNat 8 0
def MqCmd.klen (m : MqCmd) : Nat := bits m.w1.toNat 17 9
def MqCmd.nlen (m : MqCmd) : Nat := bits m.w1.toNat 25 18
def MqCmd.aline (m : MqCmd) : Nat := bits m.w2.toNat 14 0
def MqCmd.accrow (m : MqCmd) : Nat := bits m.w2.toNat 23 16
def MqCmd.oaddr (m : MqCmd) : Nat := bits m.w3.toNat 14 0
def MqCmd.paddr (m : MqCmd) : Nat := bits m.w3.toNat 30 16
/-- Weight load fields (R61). -/
def MqCmd.fromDie (m : MqCmd) : Bool := bit m.w0.toNat 4
def MqCmd.amask (m : MqCmd) : Nat := bits m.w0.toNat 8 5
def MqCmd.lwfmt (m : MqCmd) : Nat := bits m.w0.toNat 12 9
def MqCmd.lsparse (m : MqCmd) : Nat := bits m.w0.toNat 14 13
def MqCmd.wide (m : MqCmd) : Bool := bit m.w0.toNat 15
def MqCmd.saddr (m : MqCmd) : Nat := bits m.w1.toNat 20 0

def Quad.row (q : Quad) (r : Nat) : AccRow := tget q.acc r {}
def Quad.plane (q : Quad) (a p : Nat) : Plane := tget q.planes (2 * a + p) {}
/-- Index of the active plane of array Aa (R75). -/
def Quad.activeIx (q : Quad) (a : Nat) : Nat := boolNat (q.active.getLsbD a)
def Quad.activePlane (q : Quad) (a : Nat) : Plane := q.plane a (q.activeIx a)
def Quad.shadowPlane (q : Quad) (a : Nat) : Plane := q.plane a (1 - q.activeIx a)

/-- Rows `r` to `r + n − 1` marked invalid. -/
def Quad.invalidRows (q : Quad) : Nat → Nat → Quad
  | _, 0 => q
  | r, n + 1 => { q with acc := tput q.acc r {} }.invalidRows (r + 1) n

/-- The planes that an abandoned load has begun to fill become invalid and lose their clean flags (R70, R75, R113). A load fills
its arrays in increasing order (R74); how many it has begun is free (notes/assumptions/189.md). -/
def Quad.spoilLoad (q : Quad) (m : MqCmd) (k : Nat) : Quad :=
  let as := (List.range 4).filter fun a => bit m.amask a
  (as.take (Config.freeNat k % (as.length + 1))).foldl (fun q a =>
    { q with planes := tput q.planes (2 * a + (1 - q.activeIx a)) {} }) q

/-- Output rows of a multiply that were written before it was abandoned stay written (R70): how many is open. -/
def State.writeOuts (s : State) (t c cls : Nat) : List OutWrite → State
  | [] => s
  | o :: r => (s.writeRun t c cls o.addr o.bytes o.poison).writeOuts t c cls r

/-- R81: the lines that the bus had carried for multiplies which end early: the row engine stops at a line boundary (R70), which
one is free. -/
def carriedLines (k : Nat) (ex : List MulExec) : Nat :=
  (ex.zipIdx.map fun x => Config.freeNat (k + x.2) % (x.1.lines + 1)).sum

/-- R81: MQ_ROWCYC counts the lines of multiplies that end. -/
def State.countLines (s : State) (t c n : Nat) : State := if n = 0 then s else s.incReg64 (tileDA t) (pgMq c) 0x058 n

/-- R70 item 1: the class 2 commands of a core's quad are abandoned. -/
def State.abandon (s : State) (t c : Nat) : State :=
  let q := (s.core t c).quad
  let qd := q.queue.filter fun m => m.cls == 2
  let ex := q.muls.filter fun m => m.cmd.cls == 2
  let ld := q.load.filter fun m => m.cls == 2
  let n := qd.length + ex.length + (if ld.isSome then 1 else 0)
  if n = 0 then s
  else
    let q := ex.foldl (fun q m => q.invalidRows m.cmd.accrow m.cmd.m) q
    let q := match ld with | some m => q.spoilLoad m s.free | none => q
    let q := { q with queue := q.queue.filter fun m => m.cls != 2,
                      muls := q.muls.filter fun m => m.cmd.cls != 2,
                      load := q.load.filter fun m => m.cls != 2 }
    let s := s.updCore t c fun k => { k with quad := q }
    let s := (s.raiseAb t c).updBank t c 2 fun b => { b with
      outM := b.outM - n, lfsr := match ex with | m :: _ => m.lfsr0 | [] => b.lfsr }
    let s := match ex with
      | m :: _ => s.writeOuts t c 2 (m.outs.take (Config.freeNat (s.free + 1) % (m.outs.length + 1)))
      | [] => s
    let s := s.countLines t c (carriedLines (s.free + 2) ex)
    ({ s with free := s.free + 2 + ex.length }).incReg (tileDA t) (pgMq c) 0x054 n

/-- The commands of every class leave the quad without a trace in MQ_ABANDON_CNT: state of a class discarded at a
restart strobe (R389). -/
def State.dropQuad (s : State) (t c cls : Nat) : State :=
  let free := s.free
  let ex : List MulExec := (s.core t c).quad.muls.filter fun m => m.cmd.cls == cls
  let s := s.countLines t c (carriedLines (free + 1) ex)
  ({ s with free := free + 1 + ex.length }).updCore t c fun k =>
    let q := k.quad
    let q := ex.foldl (fun (q : Quad) (m : MulExec) => q.invalidRows m.cmd.accrow m.cmd.m) q
    let q := match q.load with | some m => if m.cls = cls then q.spoilLoad m free else q | none => q
    { k with quad := { q with
        queue := q.queue.filter (fun m => m.cls != cls), muls := q.muls.filter (fun m => m.cmd.cls != cls),
        load := q.load.filter (fun m => m.cls != cls) } }

/-! ### Launches -/

/-- The rolls of a class on a core. -/
def Vec.rollsOf (v : Vec) (cls : Nat) : List (Nat × Roll) := v.rolls.filter fun x => x.2.cls == cls

/-- R164: every roll of a launch stops and becomes free; the launch is no longer outstanding. -/
def State.stopLaunch (s : State) (t c l : Nat) : State :=
  let v := (s.core t c).vec
  match v.rolls.find? fun x => x.2.launch == l with
  | none => s
  | some x =>
    (s.updCore t c fun k => { k with vec := { k.vec with rolls := k.vec.rolls.filter fun y => y.2.launch != l } }).updBank
      t c x.2.cls fun b => { b with outV := b.outV - 1 }

/-- Every launch of a class stops. -/
def State.stopLaunches (s : State) (t c cls : Nat) : State :=
  (s.updCore t c fun k => { k with vec := { k.vec with rolls := k.vec.rolls.filter fun y => y.2.cls != cls } }).updBank
    t c cls fun b => { b with outV := 0 }

/-! ### Streams: descriptor fields (R197) -/

def dfld (d : List Word) (w hi lo : Nat) : Nat := bits ((d[w]?).getD 0).toNat hi lo

def dSSP (d : List Word) : Nat := dfld d 0 2 0
def dDSP (d : List Word) : Nat := dfld d 0 5 3
def dEsz (d : List Word) : Nat := 2 ^ dfld d 0 8 6
def dSkew (d : List Word) : Nat := dfld d 0 10 9
def dXlt (d : List Word) : Bool := dfld d 0 11 11 == 1
def dPsn (d : List Word) : Nat := dfld d 0 13 12
def dRec (d : List Word) : Bool := dfld d 0 14 14 == 1
def dTen (d : List Word) : Bool := dfld d 0 15 15 == 1
def dGen (d : List Word) : Bool := dfld d 0 16 16 == 1
def dCaddr (d : List Word) : Nat := 32 * dfld d 0 31 17
def dCnt (d : List Word) (i : Nat) : Nat :=
  match i with
  | 0 => dfld d 1 15 0 | 1 => dfld d 1 31 16 | 2 => dfld d 2 15 0 | 3 => dfld d 2 31 16 | _ => dfld d 3 15 0
def dTally (d : List Word) : Nat := dfld d 3 25 16
def dGcount (d : List Word) : Nat := dfld d 3 31 26
def dSaddr (d : List Word) : Nat := dfld d 4 31 0 + 2 ^ 32 * dfld d 5 15 0
def dXdie (d : List Word) : Nat := dfld d 5 23 16
def dTdie (d : List Word) : Nat := dfld d 5 31 24
def dDaddr (d : List Word) : Nat := dfld d 6 31 0 + 2 ^ 32 * dfld d 7 15 0
def dGtally (d : List Word) : Nat := dfld d 7 25 16
def dSstr (d : List Word) (i : Nat) : Int := sext 32 (dfld d (7 + i) 31 0)
def dDstr (d : List Word) (i : Nat) : Int := sext 32 (dfld d (11 + i) 31 0)

/-- The number of elements (R201, R204). -/
def dTotal (d : List Word) : Nat := dCnt d 0 * dCnt d 1 * dCnt d 2 * dCnt d 3 * dCnt d 4

/-- R201: the index tuple of element `e` in element order. -/
def dTuple (d : List Word) (e : Nat) : Nat × Nat × Nat × Nat × Nat :=
  let c0 := dCnt d 0
  let c1 := dCnt d 1
  let c2 := dCnt d 2
  let c3 := dCnt d 3
  (e % c0, e / c0 % c1, e / (c0 * c1) % c2, e / (c0 * c1 * c2) % c3, e / (c0 * c1 * c2 * c3))

/-- R201: σ(i0) of the SKEW code. -/
def dSigma (d : List Word) (i0 : Nat) : Nat :=
  if dSkew d = 0 then 0
  else
    let g := 2 * 2 ^ dSkew d
    i0 % (8 * g) / g

/-- The byte offset of element `e` at the source, from SADDR (a fabric port's offset lies above its port number). -/
def dSrcOff (d : List Word) (e : Nat) : Int :=
  let (i0, i1, i2, i3, i4) := dTuple d e
  (dEsz d * i0 : Nat) + dSstr d 1 * i1 + dSstr d 2 * i2 + dSstr d 3 * i3 + dSstr d 4 * i4

def dDstOff (d : List Word) (e : Nat) : Int :=
  let (i0, i1, i2, i3, i4) := dTuple d e
  (dEsz d * i0 : Nat) + dDstr d 1 * i1 + dDstr d 2 * i2 + dDstr d 3 * i3 + dDstr d 4 * i4 + dDstr d 1 * dSigma d i0

/-- The base byte of a side: of a fabric port, the byte offset of the port (R198). -/
def sideBase (sp addr : Nat) : Nat := if sp = 3 then addr / 256 else addr

def dSrc (d : List Word) (e : Nat) : Int := (sideBase (dSSP d) (dSaddr d) : Int) + dSrcOff d e
def dDst (d : List Word) (e : Nat) : Int := (sideBase (dDSP d) (dDaddr d) : Int) + dDstOff d e

/-- The side is a store of the issuing core or of its own die (R199). -/
def sideLocal (d : List Word) (sp : Nat) : Bool := sp == 0 || (sp == 1 && dXdie d == 0xFF)

/-- Lowest and highest value of `n` steps of a stride. -/
def strideSpan (st : Int) (n : Nat) : Int × Int :=
  let e := st * ((n - 1 : Nat) : Int)
  (min 0 e, max 0 e)

/-- R201: the extent of a side: its lowest and highest element byte. -/
def dExtent (d : List Word) (src : Bool) : Int × Int :=
  let base : Int := if src then sideBase (dSSP d) (dSaddr d) else sideBase (dDSP d) (dDaddr d)
  let st := fun i => if src then dSstr d i else dDstr d i
  let offs := (List.range (dCnt d 0)).map fun i0 =>
    ((dEsz d * i0 : Nat) : Int) + (if src then 0 else dDstr d 1 * dSigma d i0)
  let lo0 := offs.foldl min 0
  let hi0 := offs.foldl max 0
  let sp := [1, 2, 3, 4].map fun i => strideSpan (st i) (dCnt d i)
  (base + lo0 + (sp.map (·.1)).foldl (· + ·) 0, base + hi0 + (sp.map (·.2)).foldl (· + ·) 0 + ((dEsz d : Int) - 1))

/-- Populated DRAM bytes: 12 × C (R259, R261), from MCH_CFG of C0. -/
def State.dramSize (s : State) : Nat :=
  12 * (match s.reg (memoryDA 0) 0xC0 0x040 % 8 with
    | 1 => 2 ^ 36 | 2 => 3 * 2 ^ 35 | 3 => 2 ^ 37 | 4 => 2 ^ 38 | _ => 0)

/-- The class's core-store window (SEQ_WIN): base and size in bytes. -/
def State.window (s : State) (t c cls : Nat) : Nat × Nat :=
  let w := s.reg (tileDA t) (pgSeq c) (0x060 + 4 * cls)
  (4096 * bits w 7 0, 4096 * bits w 16 8)

/-- Bytes `a` to `a + n − 1` lie in the class's window. -/
def State.inWindow (s : State) (t c cls a n : Nat) : Bool :=
  let (b, z) := s.window t c cls
  decide (b ≤ a) && decide (a + n ≤ b + z)

/-- R401, R413: where the class 2 escrow of a die begins; none where no core of it has class 2 state. -/
def State.esc2Base (s : State) (t : Nat) : Option Nat :=
  if (List.range 9).any fun c => bits (s.reg (tileDA t) pgAud (0x0A4 + 4 * c)) 28 16 != 0
  then some (s.reg (tileDA t) pgAud 0x0C8 % 2 ^ 10 * 0x10000) else none

/-- R54, R412: `n` bytes from byte `a` of a die store on touch the reserved area or the class 2 escrow of the die: no stream,
program or host access writes them (notes/assumptions/183.md). -/
def State.escrowHit (s : State) (t a n : Nat) : Bool :=
  n != 0 && (decide (dieReserved < a + n) ||
    match s.esc2Base t with | some b => decide (a < b + 0x400000) && decide (b < a + n) | none => false)

/-- R200: an extent lies inside its space or window. A side in a die store lies below the reserved area (R412), and a
destination clear of the class 2 escrow (R54). -/
def State.extentOk (s : State) (t c cls sp : Nat) (die : Option Nat) (dst : Bool) (x : Int × Int) : Bool :=
  decide (0 ≤ x.1) && match sp with
    | 0 => s.inWindow t c cls x.1.toNat (x.2 - x.1 + 1).toNat
    | 1 => decide (x.2 < dieReserved) &&
      !(dst && (die.any fun r => s.escrowHit r x.1.toNat (x.2 - x.1 + 1).toNat))
    | 2 => decide (x.2 < s.dramSize)
    | _ => decide (x.2 < 2 ^ 40)

/-- R196: where the descriptor of an index lies; none where the index is refused. -/
def State.descriptor (s : State) (t c cls idx : Nat) : Option (List Word) :=
  let words := fun (sp : Sp) (a : Nat) =>
    (List.range 16).map fun i => BitVec.ofNat 32 (s.word sp (coreKey t c) (a + 4 * i))
  if idx < 1024 then some (words .fdesc (64 * idx))
  else
    let r := s.reg (tileDA t) (pgStr c) 0x040
    let j := idx - 1024
    if cls = 2 ∧ j < bits r 20 8 then some (words .core (4096 * bits r 7 0 + 64 * j)) else none

/-- R200: the record of a stream and its two extents lie inside their windows and spaces. -/
def State.streamPlaces (s : State) (t c cls : Nat) (d : List Word) : Bool :=
  let ssp := dSSP d
  let dsp := dDSP d
  let xdie := dXdie d
  let x := dXlt d
  (!dRec d || s.inWindow t c cls (dCaddr d) 32) &&
  (dTotal d == 0 ||
    (let die := if xdie = 0xFF then some t else s.physDie xdie
     (s.extentOk t c cls ssp die false (dExtent d true) || (x && ssp == 2)) &&
     (s.extentOk t c cls dsp die true (dExtent d false) || (x && dsp == 2))))

/-- R198 to R200: the descriptor may run in a class. `fixed` says that it is a fixed descriptor. -/
def State.streamOk (s : State) (t c cls : Nat) (fixed : Bool) (d : List Word) : Bool :=
  let ssp := dSSP d
  let dsp := dDSP d
  let e : Int := dEsz d
  let xdie := dXdie d
  let x := dXlt d
  decide (ssp < 4) && decide (dsp < 4) && decide (dfld d 0 8 6 < 4) && decide (dPsn d < 2) &&
  dfld d 7 31 26 == 0 && (dSkew d == 0 || dsp == 0) &&
  (sideLocal d ssp || sideLocal d dsp) &&
  (!x || ((ssp == 2 || dsp == 2) && cls == 2)) &&
  (!(cls == 2 && (ssp == 2 || dsp == 2) && !x) || fixed) &&
  decide ((sideBase ssp (dSaddr d) : Int) % e = 0) && decide ((sideBase dsp (dDaddr d) : Int) % e = 0) &&
  ([1, 2, 3, 4].all fun i => decide (dSstr d i % e = 0) && decide (dDstr d i % e = 0)) &&
  (!((ssp == 1 || dsp == 1) && xdie != 0xFF) || (s.physDie xdie).isSome) &&
  (!(ssp == 3 || dsp == 3) || decide (dieKind xdie = some .fabric)) &&
  (!dTen d || decide (dTdie d < 56) || dTdie d == 0xFF) && s.streamPlaces t c cls d

/-- Queue entries of a class in use (R194). -/
def StrUnit.count (u : StrUnit) (cls : Nat) : Nat := (u.streams.filter fun x => x.cls == cls).length

/-- The running stream of a class: the first of its queue (R195). -/
def StrUnit.running (u : StrUnit) (cls : Nat) : Option Stream := u.streams.find? fun x => x.cls == cls

/-- The streams with the first one of a class replaced, or removed. -/
def replaceFirst (cls : Nat) (v : Option Stream) : List Stream → List Stream
  | [] => []
  | x :: r => if x.cls = cls then (match v with | some y => y :: r | none => r) else x :: replaceFirst cls v r

def State.setRunning (s : State) (t c cls : Nat) (v : Option Stream) : State :=
  s.updCore t c fun k => { k with str := { k.str with streams := replaceFirst cls v k.str.streams } }

def State.tally (s : State) (t i : Nat) : Tally := tget s.tallies (1024 * t + i) {}
def State.setTally (s : State) (t i : Nat) (v : Tally) : State := { s with tallies := tput s.tallies (1024 * t + i) v }

/-- R208, R209: one arrival of a class counts at a tally; one of class 2 at a fixed tally is dropped. -/
def State.arriveTally (s : State) (t cls i : Nat) : State :=
  let x := s.tally t i
  if !s.pageEn (tileDA t) pgStrDie then s
  else if cls = 2 ∧ i < 768 then s.flag (tileDA t) pgStrDie 0
  else s.setTally t i { x with count := min 0xFFFF (x.count + 1) }

/-! ### Timetable actions -/

/-- An entry's action of a tick is complete (R44). -/
def State.completeEntry (s : State) (i tick : Nat) : State :=
  s.setPacer { s.pacer with complete := (i, tick) :: s.pacer.complete }

/-- R48: a class 0 or class 1 action that has not completed is reported by the die it targets; it needs no further deadline
check. The unit involved is charged; whether as confirmed or as suspect is not stated, and is free. -/
def State.violation (s : State) (da i cls tick ref : Nat) : State :=
  let s := s.report da cls 0x01 ref i
  let s := (s.charge da ref (if Config.freeBool s.free then ckConfirmed else ckSuspect) 0x01 noRef).draw
  s.setPacer { s.pacer with watch := s.pacer.watch.filter fun w => w != (i, tick) }

/-- LEDGER_REF of a core (R405). -/
def coreRef (t c : Nat) : Nat := ledgerRef (tileDA t) 0x02 c

/-- VEC_ADAPT_CNT: one of its three counts, modulo 256. -/
def State.countAdapt (s : State) (t c field : Nat) : State :=
  let da := tileDA t
  let v := s.reg da (pgVec c) 0x064
  s.setReg da (pgVec c) 0x064 (putBits v (8 * field + 7) (8 * field) (bits v (8 * field + 7) (8 * field) + 1))

/-! ### Completion of a stream (R205) -/

/-- The class whose run a stream belongs to: its own where a program or task issued it, and none (3) otherwise. -/
def Stream.runCls (st : Stream) : Nat := if st.src = .sis then st.cls else 3

/-- The completion record of a stream (R206). -/
def State.strRecord (s : State) (st : Stream) : List Byte :=
  let n := dTotal st.desc
  let (i0, i1, i2, i3, i4) := dTuple st.desc (st.cursor.getD 0)
  let cur := fun x => if st.cursor.isSome then x else 0
  let status := if st.cursor.isSome then 2 else if st.pgrans.isEmpty then 0 else 1
  leBytes 4 (status + 4 * boolNat st.xf + 8 * boolNat st.pc) ++
  leBytes 4 ((match st.cursor with | some e => e - (st.psnElems.filter fun i => decide (i < e)).length | none => n) % 2 ^ 32) ++
  leBytes 4 (st.pgrans.length % 2 ^ 32) ++
  leBytes 4 (cur i0 + cur i1 * 2 ^ 16) ++ leBytes 4 (cur i2 + cur i3 * 2 ^ 16) ++ leBytes 4 (cur i4) ++
  leBytes 4 (s.tick % 2 ^ 32) ++ leBytes 4 (st.index + st.cls * 2 ^ 16)

/-- A header-only tally arrival (R237, R238) of a core's port. -/
def arrPkt (da sport dport cls tally : Nat) : Packet :=
  { Packet.blank with
      opc := opARR, cls := BitVec.ofNat 2 cls, src := BitVec.ofNat 8 da, sport := BitVec.ofNat 4 sport,
      dport := BitVec.ofNat 4 dport, aux := BitVec.ofNat 32 tally }

/-- An arrival is handed to the NI for a logical die, or for the own die at 0xFF (R151, R197). -/
def State.sendArrival (s : State) (t c cls die tally : Nat) : State :=
  let p := arrPkt (tileDA t) c 9 cls tally
  if die = 0xFF then s.post { p with dst := BitVec.ofNat 8 (tileDA t) } else s.postLogical die p

/-- The bytes of a task descriptor and back (R177). -/
def Task.words (k : Task) : List Word := [k.w0, k.w1, k.w2, k.w3, k.w4, k.w5, k.w6, k.w7]
def Task.bytes (k : Task) : List Byte := k.words.flatMap fun w => leBytes 4 w.toNat
def taskOf (l : List Byte) : Task :=
  let w := fun i => BitVec.ofNat 32 (word32At l (4 * i))
  ⟨w 0, w 1, w 2, w 3, w 4, w 5, w 6, w 7⟩

def Task.entry (k : Task) : Nat := bits k.w0.toNat 16 0
def Task.skip (k : Task) : Bool := bit k.w0.toNat 17
def Task.adapt (k : Task) : Bool := bit k.w0.toNat 18
def Task.steal (k : Task) : Nat := bits k.w0.toNat 20 19
def Task.retry (k : Task) : Bool := bit k.w0.toNat 22
def Task.instr (k : Task) : Nat := bits k.w2.toNat 15 0
def Task.latest (k : Task) : Nat := bits k.w2.toNat 23 16
def Task.layer (k : Task) : Nat := bits k.w3.toNat 7 0

def State.disp (s : State) (t c : Nat) : Disp := (s.core t c).disp
def State.updDisp (s : State) (t c : Nat) (f : Disp → Disp) : State :=
  s.updCore t c fun k => { k with disp := f k.disp }

/-- R222: a task is parked; with the slot full it is discarded and PARK_LOST is set. -/
def State.parkTask (s : State) (t c : Nat) (k : Task) : State :=
  match (s.disp t c).park with
  | none => s.updDisp t c fun d => { d with park := some k }
  | some _ => s.flag (tileDA t) (pgStr c) 3

/-- R205 steps 1 to 3 for a stream whose writes are all acknowledged, and which has left its queue. -/
def State.finishStream (s : State) (t c : Nat) (st : Stream) : State :=
  let da := tileDA t
  let s := if dRec st.desc then s.writeRun t c st.runCls (dCaddr st.desc) (s.strRecord st) false else s
  let s := s.incReg da (pgStr c) 0x048
  let s := match st.src with
    | .sis => s.updBank t c st.cls fun b => { b with outS := b.outS - 1 }
    | .timetable i tick => s.completeEntry i tick
    | .taskIn =>
      let d := s.disp t c
      match d.staged with
      | some k =>
        if st.xf then (s.updDisp t c fun d => { d with staged := none, ready := false }).parkTask t c k
        else s.updDisp t c fun d => { d with ready := true }
      | none => s
  let s := match st.src with
    | .sis => if st.xf && (s.bank t c 2).isTask && decide (st.cls = 2) then s.updDisp t c fun d => { d with xfaulted := true } else s
    | _ => s
  if dTen st.desc then s.sendArrival t c st.cls (dTdie st.desc) (dTally st.desc) else s

/-- The gate of a descriptor is open (R205, R210). -/
def State.gateOpen (s : State) (t : Nat) (d : List Word) : Bool :=
  !dGen d || decide (dGcount d ≤ (s.tally t (dGtally d)).count)

/-- R194, R200: a stream is accepted into its class's queue; none where it is refused. A stream of a zero count whose
gate is open completes at once (R204). `view` is the state in which its descriptor is read. -/
def State.acceptStream (s : State) (t c cls : Nat) (src : StrSrc) (idx : Nat) (due : Nat := 0) (view : State := s) :
    Option State :=
  match view.descriptor t c cls idx with
  | none => none
  | some d =>
    if s.streamOk t c cls (decide (idx < 1024)) d && s.pageEn (tileDA t) (pgStr c) then
      let st : Stream := { cls := cls, src := src, index := idx, desc := d, gateOpen := s.gateOpen t d, due := due }
      if dTotal d = 0 ∧ st.gateOpen then some (s.finishStream t c st)
      else some (s.updCore t c fun k => { k with str := { k.str with streams := k.str.streams ++ [st] } })
    else none

def State.refuseStream (s : State) (t c : Nat) : State := s.flag (tileDA t) (pgStr c) 0

/-- R200: what follows the refusal of a stream that the timetable or the staging of a task has started. -/
def State.refusedStart (s : State) (t c : Nat) (st : Stream) : State :=
  let s := s.refuseStream t c
  match st.src with
  | .sis => s
  | .timetable i tick => if st.cls < 2 then s.violation (tileDA t) i st.cls tick (coreRef t c) else s
  | .taskIn => (s.flag (tileDA t) (pgVec c) 2).updDisp t c fun d => { d with staged := none, ready := false }

/-- R194: a timetable or task-input stream enters its queue, or waits for an entry of it; one of a zero count without a gate
completes at once (R204). None where it is refused. -/
def State.enterStream (s : State) (t c cls : Nat) (src : StrSrc) (idx : Nat) (due : Nat) : Option State :=
  let u := (s.core t c).str
  let zero := match s.descriptor t c cls idx with | some d => dTotal d == 0 && !dGen d | none => false
  if !zero && (decide (4 ≤ u.count cls) || u.waiting.any fun x => x.cls == cls) then
    some (s.updCore t c fun k => { k with str := { k.str with
      waiting := k.str.waiting ++ [{ cls := cls, src := src, index := idx, desc := [], gateOpen := false }] } })
  else s.acceptStream t c cls src idx due

/-- R194: waiting streams enter the queues that have an entry free, at most `n`. -/
def State.admitWaiting (s : State) (t c : Nat) : Nat → State
  | 0 => s
  | n + 1 =>
    let u := (s.core t c).str
    match u.waiting.find? fun x => decide (u.count x.cls < 4) with
    | none => s
    | some x =>
      let s := s.updCore t c fun k => { k with str := { k.str with waiting := k.str.waiting.erase x } }
      ((s.acceptStream t c x.cls x.src x.index ((s.core t c).time + (s.core t c).lag)).getD (s.refusedStart t c x)).admitWaiting t c n

def State.admitStreams (s : State) (t c : Nat) : State := s.admitWaiting t c (s.core t c).str.waiting.length

/-- R218: the streams that `f` names are cancelled, those that wait for an entry too; the ones from SIS stop counting as
outstanding. -/
def State.cancelStreams (s : State) (t c : Nat) (f : Stream → Bool) : State :=
  let gone := (s.core t c).str.streams.filter f ++ (s.core t c).str.waiting.filter f
  let s := s.updCore t c fun k => { k with str := {
    streams := k.str.streams.filter (fun x => !f x), waiting := k.str.waiting.filter fun x => !f x } }
  let sis := fun cls => (gone.filter fun x => decide (x.src = .sis) && x.cls == cls).length
  let s := [0, 1, 2].foldl (fun s cls => s.updBank t c cls fun b => { b with outS := b.outS - sis cls }) s
  if gone.length = 0 then s else s.incReg (tileDA t) (pgStr c) 0x050 gone.length

/-! ### Ends of programs and tasks -/

/-- The clock of a core's units: issue cycles and frozen cycles (R135). -/
def Core.clock (k : Core) : Nat := k.time + k.lag

/-- Work that a unit accepted for clock cycle `due` may start. A core that issues nothing lets its units go on. -/
def Core.reached (k : Core) (due : Nat) : Bool := decide (due ≤ k.clock) || k.issuing.isNone

/-- R146: the sequencer goes to the highest class with an active program. -/
def Core.reissue (k : Core) : Core :=
  { k with issuing := if k.bG.active then some 0 else if k.bL.active then some 1 else if k.bE.active then some 2 else none
           frozen := false }

/-- R145, R146: the end of the issuing class's program lets the next class issue; the end of another leaves the issuing bank
issuing. -/
def Core.reissueAfter (k : Core) (cls : Nat) : Core := if k.issuing = some cls then k.reissue else k

/-! ### The ring (R176, R178) -/

def State.ringBase (s : State) (t c : Nat) : Nat := 32 * bits (s.reg (tileDA t) (pgVec c) 0x048) 14 0
def State.ringSize (s : State) (t c : Nat) : Nat := bits (s.reg (tileDA t) (pgVec c) 0x048) 24 16
def State.ringHead (s : State) (t c : Nat) : Nat := s.word .core (coreKey t c) (s.ringBase t c) % 2 ^ 16
def State.ringTail (s : State) (t c : Nat) : Nat := s.word .core (coreKey t c) (s.ringBase t c + 4) % 2 ^ 16

/-- (TAIL − HEAD) mod 2^16. -/
def State.ringDiff (s : State) (t c : Nat) : Nat := (s.ringTail t c + 2 ^ 16 - s.ringHead t c) % 2 ^ 16

/-- R178: the dispatcher looks at TAIL: RING_ERR is set when it goes out of range. -/
def State.checkRing (s : State) (t c : Nat) : State :=
  let bad := decide (s.ringSize t c ≠ 0) && decide (s.ringSize t c < s.ringDiff t c)
  let s' := s.updDisp t c fun d => { d with ringBad := bad }
  if bad && !(s.disp t c).ringBad then s'.flag (tileDA t) (pgVec c) 3 else s'

/-- R178: the dispatcher sees a write of `n` bytes at `a` that touches TAIL; each TAIL out of range sets RING_ERR. -/
def State.sawStore (s : State) (t c a n : Nat) : State :=
  let b := s.ringBase t c + 4
  if s.ringSize t c ≠ 0 ∧ a < b + 4 ∧ b < a + n then (s.updDisp t c fun d => { d with ringBad := false }).checkRing t c else s

/-- The effect of one pipeline write on a bank. -/
def Bank.applyReg (b : Bank) (d : WDst) (v : PWord) : Bank :=
  match d with
  | .g i => { b with g := tputD {} b.g i v }
  | .a i => { b with a := tputD 0 b.a i (v.val.setWidth 20) }
  | .m i => { b with m := tputD 0 b.m i (v.val.setWidth 20) }
  | .l i => { b with l := tputD 0 b.l i (v.val.setWidth 21) }
  | .flags f => { b with flags := f }
  | .astatSet => { b with astat := b.astat ||| v.val.setWidth 4 }
  | .astatClr => { b with astat := b.astat &&& ~~~ v.val.setWidth 4 }
  | .evClr => { b with ck := b.ck && !v.val.getLsbD 0, ps := b.ps && !v.val.getLsbD 1, ab := b.ab && !v.val.getLsbD 2 }
  | .core _ => b
  | .coef _ => b

/-- One pipeline write takes effect (R131, R133). -/
def State.applyWrite (s : State) (t c cls : Nat) (w : PendWrite) : State :=
  match w.dst with
  | .core a => (s.writeRun t c cls a (leBytes 4 w.val.val.toNat) w.val.poison).sawStore t c a 4
  | .coef a => s.writeAll .coef (coreKey t c) a (leBytes 4 w.val.val.toNat) w.val.poison
  | .astatSet => s.mergeFlags t c cls (w.val.val.setWidth 4)
  | _ => s.updBank t c cls fun b => b.applyReg w.dst w.val

/-- Clears precede merges of the same cycle (R9, R104). -/
def WDst.rank : WDst → Nat
  | .astatClr => 0
  | .evClr => 0
  | _ => 1

/-- The writes of a list that fall in one cycle, clears first. -/
def inCycle (n : Nat) (l : List PendWrite) : List PendWrite :=
  let x := l.filter fun w => w.due == n
  (x.filter fun w => w.dst.rank == 0) ++ (x.filter fun w => w.dst.rank == 1)

/-- The pending writes due in `n` cycles from cycle `d` take effect in order of time. -/
def State.retireFrom (s : State) (t c cls d : Nat) : Nat → State
  | 0 => s
  | n + 1 =>
    let b := s.bank t c cls
    let now := inCycle d b.pipe
    let s := s.setBank t c cls { b with pipe := b.pipe.filter fun w => w.due != d }
    (now.foldl (fun s w => s.applyWrite t c cls w) s).retireFrom t c cls (d + 1) n

/-- Every write in the pipeline of a bank takes effect: no cycle issues between (R145). -/
def State.flushBank (s : State) (t c cls : Nat) : State :=
  let b := s.bank t c cls
  let last := (b.pipe.map (·.due)).foldl max 0
  let n := (s.core t c).time
  s.retireFrom t c cls n (last + 1 - n)

/-- The units of a class 2 program or task that ends otherwise than at its END (R149): its matrix commands are
abandoned, its launches stop, its SIS streams are cancelled. -/
def State.endUnits2 (s : State) (t c : Nat) : State :=
  ((s.abandon t c).stopLaunches t c 2).cancelStreams t c fun x => decide (x.src = .sis) && x.cls == 2

/-- The bank stops issuing and its class is no longer active. -/
def State.deactivate (s : State) (t c cls : Nat) : State :=
  let s := s.flushBank t c cls
  let s := s.updBank t c cls fun b => { b with
    active := false, isTask := false, holding := false, delay := none, loops := [], idle := 0, atFence := false }
  s.updCore t c fun k => k.reissueAfter cls

/-- R181, R222: the task that ran ends; it counts, unless it is parked. -/
def State.endTask (s : State) (t c : Nat) : State :=
  let d := s.disp t c
  let s := s.updDisp t c fun d => { d with running := none, xfaulted := false }
  match d.running with
  | none => s
  | some k => if d.xfaulted then s.parkTask t c k else s.incReg (tileDA t) (pgVec c) 0x054

/-- Sequencer FAULT bits (R158). -/
def sfADDR : Nat := 0
def sfMQ : Nat := 1
def sfPOISON : Nat := 2
def sfRSTACK : Nat := 3
def sfUNIT : Nat := 4

/-- A class 2 program or task ends as a faulted program without rollback (R149: a missed deadline, STR_CANCEL). -/
def State.endClass2 (s : State) (t c : Nat) : State :=
  let task := (s.bank t c 2).isTask
  let s := (s.endUnits2 t c).deactivate t c 2
  if task then s.endTask t c else s

/-- R48, R147, R149: an event of `bit` stops the program of a class as a faulted program: SEQ_FAULT_PC, the fault report, for
class 0 and class 1 the schedule violation of the START that can no longer complete, and for class 2 the end of the program
or task. -/
def State.faultProgram (s : State) (t c cls bit : Nat) (pc : Nat) : State :=
  let da := tileDA t
  let first := s.reg da (pgSeq c) 0x014 == 0
  let s := s.flag da (pgSeq c) bit
  let s := if first then s.setReg da (pgSeq c) 0x088 (pc + cls * 2 ^ 17) else s
  let s := s.report da cls 0x05 (coreRef t c) (s.reg da (pgSeq c) 0x014)
  if cls = 2 then s.endClass2 t c
  else
    let b := s.bank t c cls
    let s := if b.active then s.violation da b.entry cls b.startTick (coreRef t c) else s
    s.deactivate t c cls

/-- R148: poison consumed in control: PS in the bank, POISON_CTL, and the program stops. -/
def State.poisonCtl (s : State) (t c cls pc : Nat) : State :=
  (s.raisePs t c cls).faultProgram t c cls sfPOISON pc

/-! ### Starts (R129, R130) -/

/-- R129: the bank that a start of a class leaves; ASTAT is kept, and the work that an ended program left in the units stays
outstanding (R152). -/
def Bank.started (b : Bank) (isTask skip : Bool) (prog entry : Nat) (pc : BitVec 17) (seed : Word) (tick : Nat) : Bank :=
  { active := true, prog := prog, entry := entry, startTick := tick, isTask := isTask, skip := skip, pc := pc,
    astat := b.astat, outM := b.outM, outV := b.outV, outS := b.outS, lfsr := lfsrSeed seed tick }

/-- A program or task of a class becomes active; with no class issuing, it issues (R130), otherwise it waits for a
preemption or for the END of a higher class (R50, R145, R146). -/
def State.startBank (s : State) (t c cls : Nat) (isTask skip : Bool) (prog entry : Nat) (pc : BitVec 17) (seed : Word) :
    State :=
  if s.pageEn (tileDA t) (pgSeq c) then
    let s := s.updBank t c cls fun b => b.started isTask skip prog entry pc seed s.tick
    s.updCore t c fun k => if k.issuing.isNone then { k with issuing := some cls, frozen := false } else k
  else s

/-- R181: a class 2 START or an overrun returns the running task; an occupied return slot keeps its task. -/
def State.returnTask (s : State) (t c : Nat) (k : Task) : State :=
  match (s.disp t c).ret with
  | none => s.updDisp t c fun d => { d with ret := some k }
  | some _ => s

end Sys2Proof.Machine
end

