-- ==== Sys2Proof/Machine/EdgeOps.lean ====
section
/-! DEFINITION. Operations on the drive edge that other chapters share: stop groups, trip lines and the stop line (R322 to
R327), carriers and generators (R318 to R320), group descriptors (R309). -/

namespace Sys2Proof.Machine

/-! ### Units -/

/-- The DA of edge die Ee (R12). -/
def edgeDA (e : Nat) : Nat := if e < 4 then e else e + 2

/-- The edge die at a DA. -/
def edgeOf (da : Nat) : Option Nat := if da < 4 then some da else if da = 6 ∨ da = 7 then some (da - 2) else none

def State.edge (s : State) (e : Nat) : EdgeDie := tget s.edges e {}
def State.setEdge (s : State) (e : Nat) (v : EdgeDie) : State := { s with edges := tput s.edges e v }
def State.sd (s : State) (e ch : Nat) : SdCh := tget s.sds (64 * e + ch) {}
def State.setSd (s : State) (e ch : Nat) (v : SdCh) : State := { s with sds := tput s.sds (64 * e + ch) v }
def State.gen (s : State) (e g : Nat) : Gen := tget s.gens (64 * e + g) {}
def State.setGen (s : State) (e g : Nat) (v : Gen) : State := { s with gens := tput s.gens (64 * e + g) v }
def State.enc (s : State) (e n : Nat) : Enc := tget s.encs (16 * e + n) {}
def State.setEnc (s : State) (e n : Nat) (v : Enc) : State := { s with encs := tput s.encs (16 * e + n) v }
def State.lane (s : State) (e n : Nat) : Lane := tget s.lanes (8 * e + n) {}
def State.setLane (s : State) (e n : Nat) (v : Lane) : State := { s with lanes := tput s.lanes (8 * e + n) v }
def State.outGroup (s : State) (da g : Nat) : OutGroup := tget s.outs (16 * da + g) {}
def State.setOut (s : State) (da g : Nat) (v : OutGroup) : State := { s with outs := tput s.outs (16 * da + g) v }

/-- Drive-link dies: E4 and E5. -/
def isLink (e : Nat) : Bool := decide (4 ≤ e)
/-- The page that holds the stop groups of an edge die. -/
def sgPage (e : Nat) : Nat := if isLink e then pgDlk else pgEdg
/-- Stop groups of an edge die. -/
def sgCount (e : Nat) : Nat := if isLink e then 8 else 16

/-! ### Group descriptors (R309) -/

/-- Word `w` of group descriptor `idx`. -/
def State.grpWord (s : State) (e idx w : Nat) : Nat :=
  s.reg (edgeDA e) (sgPage e) ((if isLink e then 0x0B4 else 0x054) + 4 * w) idx

structure Grp where
  cls : Nat
  en : Bool
  mask : Nat
  enc : Nat
  dieA : Nat
  dieB : Nat
  tally : Nat
  addr : Nat

def State.grp (s : State) (e idx : Nat) : Grp :=
  let w := s.grpWord e idx
  { cls := bits (w 0) 1 0, en := bit (w 0) 2 && s.pageEn (edgeDA e) (sgPage e), mask := w 1 + 2 ^ 32 * w 2, enc := bits (w 3) 15 0,
    dieA := bits (w 4) 7 0, dieB := bits (w 4) 15 8, tally := bits (w 4) 25 16, addr := 32 * bits (w 5) 20 0 }

/-- The members of a mask, in increasing order. -/
def members (n mask : Nat) : List Nat := (List.range n).filter fun i => bit mask i

/-! ### Trip lines, stop line, sources (R322, R325 to R327) -/

/-- Lane configuration fields (R334). -/
def State.laneCfg (s : State) (e n : Nat) : Nat := s.reg (edgeDA e) pgDlk (0x040 + 4 * n)
def State.laneAxes (s : State) (e n : Nat) : Nat := bits (s.laneCfg e n) 5 2
/-- R440: the drive-link transmitters are in electrical idle up to the commit of a load, and from a shutdown on. -/
def State.linkIdle (s : State) (e : Nat) : Bool := !bit (s.reg (edgeDA e) pgDlk 0x00C) 2 || !s.boot.idle

def State.laneOn (s : State) (e n : Nat) : Bool := s.pageEn (edgeDA e) pgDlk && bits (s.laneCfg e n) 1 0 != 0
def State.laneUp (s : State) (e n : Nat) : Bool := s.laneOn e n && (s.lane e n).st == 4

/-- The key of trip cell `k` of fabric die `f`. -/
def tripKey (f k : Nat) : Nat := 64 * f + k
def State.trip (s : State) (f k : Nat) : TripCell := tget s.trips (tripKey f k) {}
def State.setTrip (s : State) (f k : Nat) (v : TripCell) : State := { s with trips := tput s.trips (tripKey f k) v }

/-- R326: what a declared cell drives onto its line. -/
def TripCell.drives (x : TripCell) : Bool := x.declared && (if x.clamped then !x.clampOff else x.input)

/-- A trip line is a wired OR of its exported trip inputs (R325) and fabric cells (R326). -/
def State.lineUp (s : State) (k : Nat) : Bool :=
  ([0, 1, 2, 3].any fun e => (List.range 16).any fun n =>
    let r := s.reg (edgeDA e) pgEdg (0x100 + 4 * n)
    (s.edge e).counted.getLsbD n && bit r 1 && bits r 6 2 == k) ||
  s.trips.any fun x => x.2.drives && x.2.line == k

/-- R325: trip input TIn of E0 to E3 is at the level that ACTIVE_HIGH selects. -/
def State.tiActive (s : State) (e n : Nat) : Bool :=
  (s.edge e).tiPin.getLsbD n == bit (s.reg (edgeDA e) pgEdg (0x100 + 4 * n)) 0

/-- R327: the stop line. -/
def State.stopLine (s : State) : Bool :=
  s.pacer.phase == .disarmed || s.pacer.phase == .armed || s.pacer.shutdownStop || s.pacer.stopExt

/-- The trip-line mask of a stop group. -/
def State.sgLines (s : State) (e g : Nat) : Nat :=
  if isLink e then s.reg (edgeDA e) pgDlk (0x080 + 4 * g) else s.reg (edgeDA e) pgEdg (0x080 + 4 * g)

/-- The trip-input mask of a stop group of E0 to E3. -/
def State.sgInputs (s : State) (e g : Nat) : Nat := s.reg (edgeDA e) pgEdg (0x0C0 + 4 * g)

/-- R322: a source of the group is asserted: trip inputs, trip lines, the stop line, comparators, link loss, and a FORCE bit in the
cycle of its write (R324). -/
def State.sgAsserted (s : State) (e g : Nat) : Bool :=
  s.stopLine || ((s.edge e).forcedAt == s.boot.time && (s.edge e).forced.getLsbD g) || ((List.range 32).any fun k => bit (s.sgLines e g) k && s.lineUp k) ||
  if isLink e then !s.laneUp e g || (s.lane e g).loss
  else
    ((List.range 16).any fun n => bit (s.sgInputs e g) n && (s.edge e).counted.getLsbD n) ||
    ((List.range 64).any fun ch =>
      let r := s.reg (edgeDA e) pgSdi 0x064 ch
      (s.sd e ch).active && bit r 29 && bits r 28 25 == g)

/-- Blocks handed to a lane's transmitter, behind those that wait there (R331 to R333); in electrical idle it sends none (R440). -/
def State.sendBlocks (s : State) (e n : Nat) (l : List (Nat × List Byte)) : State :=
  s.setLane e n { s.lane e n with tx := if s.linkIdle e then [] else (s.lane e n).tx ++ l }

/-- R333: a STOP block is inserted at the next block boundary, before the blocks that wait. -/
def State.insertStop (s : State) (e n : Nat) (b : Nat × List Byte) : State :=
  s.setLane e n { s.lane e n with tx := if s.linkIdle e then [] else b :: (s.lane e n).tx }

/-- Payload bytes 1 to 7 of a control block. -/
def ctlBytes (l : List Byte) : List Byte := (l ++ List.replicate 7 0).take 7

/-- R333: the STOP block: 01h stop, 00h clear. -/
def stopBlock (on : Bool) : Nat × List Byte := (0xC5, ctlBytes (leBytes 1 (boolNat on)))

/-- The block time of a lane, in 1/1000 core cycles: 6.4 ns or 2.56 ns; and 64 of them. -/
def blockTime (ver : Nat) : Nat := if ver = 2 then 3584 else 8960
def stopSpacing (ver : Nat) : Nat := 64 * blockTime ver

/-- R323: a group trips; the first trip since TRIP was last clear is recorded, and every trip is reported to the Pacer
and to the host. A tripped group stays as it is. -/
def State.tripGroup (s : State) (e g source : Nat) : State :=
  let x := s.edge e
  if x.tripped.getLsbD g || decide (sgCount e ≤ g) then s
  else
    let da := edgeDA e
    let pg := sgPage e
    let info := if isLink e then 0x0A8 else 0x048
    let first := !bit (s.reg da pg 0x014) 0
    let s := s.setEdge e { x with tripped := x.tripped ||| BitVec.ofNat 16 (2 ^ g) }
    let s := if first then
        (s.setReg da pg info (g + source * 2 ^ 8 + s.pacer.cycle % 2 ^ 16 * 2 ^ 16)).setReg da pg (info + 4) (s.tick % 2 ^ 32)
      else s
    let s := s.flag da pg 0
    let s := s.report da 2 0x0A noRef (s.reg da pg info)
    let s := s.event { code := 0x02, src := da, unit := g, tick := s.tickWord, w2 := BitVec.ofNat 32 (s.reg da pg info) }
    if isLink e then
      let s := s.insertStop e g (stopBlock true)
      s.setLane e g { s.lane e g with stopDue := 1000 * s.boot.time + stopSpacing (s.lane e g).ver }
    else s

/-- Every group of every edge die that `f` names trips. -/
def State.tripWhere (s : State) (f : Nat → Nat → Bool) (source : Nat) : State :=
  [0, 1, 2, 3, 4, 5].foldl (fun s e => (List.range (sgCount e)).foldl (fun s g =>
    if f e g then s.tripGroup e g source else s) s) s

/-- R322 item 2: a trip line trips every group whose mask names it. -/
def State.assertLine (s : State) (k : Nat) : State :=
  s.tripWhere (fun e g => bit (s.sgLines e g) k) (0x20 + k)

/-- R322 item 3: the stop line trips every group. -/
def State.assertStop (s : State) : State := s.tripWhere (fun _ _ => true) 0x40

/-! ### Carriers (R318, R391) -/

def State.car (s : State) (e k : Nat) : Nat := s.reg (edgeDA e) pgPwm (0x040 + 8 * k)
def State.carMul (s : State) (e k : Nat) : Nat := 2 ^ bits (s.car e k) 1 0
def State.carDiv (s : State) (e k : Nat) : Nat := bits (s.car e k) 6 2
def State.carHalf (s : State) (e k : Nat) : Bool := bit (s.car e k) 7
/-- CP in steps. -/
def State.carPeriod (s : State) (e k : Nat) : Nat := 8 * s.period * s.carMul e k / s.carDiv e k

/-- The step of the device `j` steps into the running core cycle. -/
def State.stepNow (s : State) (j : Nat) : Nat := 8 * s.boot.time + j

/-- The carrier's time: counted from t = 0 at CPHASE after the last tick edge that its CMUL selects; at the end of its
last period it holds CP − 1 until the next such point (R391). None while it does not run. -/
def State.carTime (s : State) (e k j : Nat) : Option Nat :=
  let cp := s.carPeriod e k
  let div := s.carDiv e k
  if div = 0 ∨ cp = 0 then none
  else
    let ix := bits (s.car e k) 1 0
    match s.pacer.refEdges[ix]? with
    | none => none
    | some (last, prev) =>
      let ph := s.reg (edgeDA e) pgPwm (0x044 + 8 * k) % 2 ^ 24 % cp
      let at_ := fun a => if div * cp ≤ a then cp - 1 else a % cp
      let a := s.stepNow j - 8 * last
      if ph ≤ a then some (at_ (a - ph))
      else if prev = last then none
      else some (at_ (a + 8 * (last - prev) - ph))

/-! ### Generators (R319, R320, R324, R474) -/

def State.genCfg (s : State) (e g : Nat) : Nat := s.reg (edgeDA e) pgPwm 0x064 g
def State.genDt (s : State) (e g : Nat) : Nat := s.reg (edgeDA e) pgPwm 0x068 g
def State.genCar (s : State) (e g : Nat) : Nat := bits (s.genCfg e g) 2 1
def State.genSg (s : State) (e g : Nat) : Nat := bits (s.genCfg e g) 6 3

/-- h(t) of R319. -/
def Gen.ideal (x : Gen) (t : Nat) : Bool := decide (x.on ≤ t) && decide (t < x.off)

/-- Steps from carrier time `t` to the next fall of h, from a time at which it is 1; none where it does not fall. -/
def Gen.toFall (x : Gen) (cp t : Nat) : Option Nat :=
  if x.off < cp then some (x.off - t) else if x.on = 0 then none else some (cp - t)

/-- Steps from carrier time `t` to the next rise of h, from a time at which it is 0; none where it does not rise. -/
def Gen.toRise (x : Gen) (cp t : Nat) : Option Nat :=
  if x.off ≤ x.on ∨ cp ≤ x.on then none else if t < x.on then some (x.on - t) else some (cp - t + x.on)

/-- R474: a high interval that would be shorter than 17 steps is suppressed. -/
def longEnough (n : Option Nat) : Bool := match n with | none => true | some n => decide (17 ≤ n)

/-- R319: the generator at step `now` with carrier time `t`: h follows the current values, an output that must be low
falls at once, an output rises when its dead time has passed. -/
def Gen.advance (x : Gen) (dtr dtf cp t now : Nat) : Gen :=
  let h := x.ideal t
  let x := if h = x.h then x else { x with h := h, changedAt := now }
  let dead := fun n => x.mode == 1 || decide (x.changedAt + n ≤ now)
  let rise := x.h && dead dtr && (x.outH || longEnough (x.toFall cp t))
  let low := !x.h && dead dtf && (x.outL || longEnough (x.toRise cp t))
  match x.mode with
  | 0 => { x with outH := rise, outL := low }
  | 1 => { x with outH := rise, outL := false }
  | _ => { x with outH := false, outL := false }

/-- R440: a pin that is not driven: 3 while VIO is absent (undriven), else 2 (high-impedance). -/
def State.floating (s : State) : Nat := if s.boot.power = .off then 3 else 2

/-- R445, R446: the shutdown is in progress. -/
def Boot.closing (b : Boot) : Bool := b.power == .quiescing || b.power == .testing

/-- R329: the PWM page of the die is locked, so its pins are driven. -/
def State.pinsDriven (s : State) (e : Nat) : Bool := bit (s.reg (edgeDA e) pgPwm 0x00C) 2 && s.boot.power != .halted

/-- The pins PWMH and PWML of a generator: 0 low, 1 high, 2 high-impedance, 3 undriven (R319, R323, R324, R329, R440). -/
def State.pins (s : State) (e g : Nat) : Nat × Nat :=
  let cfg := s.genCfg e g
  let x := s.gen e g
  if !s.pinsDriven e then (s.floating, s.floating)
  else if !bit cfg 0 || s.boot.closing || (s.edge e).tripped.getLsbD (s.genSg e g) || x.waitRelease || s.carDiv e (s.genCar e g) == 0 then
    (bits cfg 8 7, bits cfg 10 9)
  else (boolNat x.outH, boolNat x.outL)

/-- R327, R329, R440: the pin STOP_N: 0 driven low while the stop line is asserted (in every phase but running it is), 2 released,
3 undriven while VIO is absent. -/
def State.stopPin (s : State) : Nat := if s.boot.power = .off then 3 else if s.stopLine then 0 else 2

/-! ### Arming the edge (R442) -/

/-- R312, R314, R442: at the first tick edge after arming the modulator clocks restart and every window is counted anew. -/
def State.restartEdgeDies (s : State) : State :=
  let s := { s with sds := s.sds.map fun x => (x.1, { ({} : SdCh) with active := x.2.active }) }
  [0, 1, 2, 3].foldl (fun s e => s.setEdge e { s.edge e with sdcStart := some s.boot.time }) s

/-- R312: cycles of modulator clock `k` and the pin SDCk: 0 low, 1 high, 2 high-impedance, 3 undriven (R329, R440): low in
a shutdown. Before the clocks have
restarted in phase their phase is not stated, and free. -/
def State.sdcDiv (s : State) (e k : Nat) : Nat := s.reg (edgeDA e) pgSdi (0x040 + 4 * k) % 2 ^ 9
def State.sdcPin (s : State) (e k : Nat) : Nat :=
  let m := s.sdcDiv e k
  if !s.pinsDriven e then s.floating
  else if m = 0 ∨ s.boot.closing then 0
  else match (s.edge e).sdcStart with
    | some t => boolNat (decide ((s.boot.time - t) % m < (m + 1) / 2))
    | none => boolNat (Config.freeBool (s.boot.time + k))

end Sys2Proof.Machine
end

