-- ==== Sys2Proof/Machine/FabOps.lean ====
section
/-! DEFINITION. Operations on the logic fabric that other chapters share: regions and their strobes (R292, R306), ports
(R293), stop-source cells (R297, R298). -/

namespace Sys2Proof.Machine

def State.region (s : State) (f r : Nat) : Region := tget s.regions (16 * f + r) {}
def State.setRegion (s : State) (f r : Nat) (v : Region) : State := { s with regions := tput s.regions (16 * f + r) v }
def State.fport (s : State) (f port : Nat) : FabPort := tget s.fports (128 * f + port) {}
def State.setFport (s : State) (f port : Nat) (v : FabPort) : State := { s with fports := tput s.fports (128 * f + port) v }
def State.fab (s : State) (f : Nat) : FabDie := tget s.fabs f {}
def State.setFab (s : State) (f : Nat) (v : FabDie) : State := { s with fabs := tput s.fabs f v }

def State.regionLogic (s : State) (f r : Nat) : Logic := tget s.logic (16 * f + r) {}
def State.setLogic (s : State) (f r : Nat) (v : Logic) : State := { s with logic := tput s.logic (16 * f + r) v }

/-- R286, R289: the spare rows of a block memory, 0 to 2399 of its die: data row and spare row. -/
def State.bramSpares (s : State) (f b : Nat) : List (Nat × Nat) := tget s.keeper.bramRows (2400 * f + b) []

/-- FAB_BRAM.ROWS. -/
def State.spareRows (s : State) (f : Nat) : Nat :=
  ((s.keeper.bramRows.filter fun x => x.1 / 2400 == f).map fun x => x.2.length).sum

/-- The page of region `r`. -/
def pgFab (r : Nat) : Nat := 0xA0 + r

/-- The fabric die at a DA. -/
def fabricOf (da : Nat) : Option Nat := (List.range 24).find? fun f => fabricDA f == da

/-- A region whose configuration runs; it runs on while a variant is verified (R304). -/
def Region.runs (x : Region) : Bool := x.phase == .running || (x.phase == .verifying && x.before == .running)

/-- R306: an isolated region takes no part in the rest of the device. -/
def Region.isolatedNow (x : Region) : Bool := !x.runs

/-- R304: the outputs of a region are clamped: from 2 cycles after its isolation began, until it runs. -/
def Region.outClamped (x : Region) (t : Nat) : Bool :=
  !x.runs && !(x.phase == .isolating && x.ran && decide (t < x.isolated + 2))

/-- The first region of a list whose configuration declares a port, with the declaration. -/
def State.portIn (s : State) (f port : Nat) (l : List Nat) : Option (Nat × PortDecl) :=
  l.findSome? fun r => ((s.region f r).decl.ports.find? fun d => d.port == port).map fun d => (r, d)

/-- The region that uses a port, with its declaration: one that runs, or else one that ran last with a configuration that
declares the port. -/
def State.portOwner (s : State) (f port : Nat) : Option (Nat × PortDecl) :=
  (s.portIn f port ((List.range 16).filter fun r => (s.region f r).runs)).orElse fun _ => s.portIn f port (List.range 16)

/-- The frequency in MHz of the source of a track: REF700, PLLA, PLLB, off (R290, R307). -/
def State.sourceMHz (s : State) (f src : Nat) : Nat :=
  match src with
  | 0 => 700
  | 1 => s.reg (fabricDA f) pgFabDie 0x044 % 2 ^ 10
  | 2 => s.reg (fabricDA f) pgFabDie 0x048 % 2 ^ 10
  | _ => 0

/-- The period of track `k` of a region, as a number of core cycles over a number: `n` periods take ⌈n · a / b⌉ cycles. A track that
is off takes none. -/
def State.trackCycles (s : State) (f r k n : Nat) : Nat :=
  let v := s.reg (fabricDA f) (pgFab r) 0x04C k
  let b := s.sourceMHz f (bits v 1 0)
  (n * 1400 * bits v 10 2 + b - 1) / b

/-! ### Tracks (R290, R291) -/

/-- Edges up to time `t` of the clock that a FAB_TRK setting `v` names; a track that is off has none (notes/assumptions/205.md). -/
def State.clockEdges (s : State) (f v t : Nat) : Nat := t * s.sourceMHz f (bits v 1 0) / (1400 * bits v 10 2)

/-- Edges of track `k` of a region up to time `t`. R291: after a change of its setting it completes its high phase, stays low for 2 edges
of the new clock and then runs. -/
def State.trackEdges (s : State) (f r k t : Nat) : Nat :=
  let v := s.reg (fabricDA f) (pgFab r) 0x04C k
  match tget? (s.region f r).switched k with
  | none => s.clockEdges f v t
  | some (at_, old) =>
    if t ≤ at_ then s.clockEdges f old t
    else s.clockEdges f old at_ + (s.clockEdges f v t - s.clockEdges f v at_ - 2)

/-- A track has a rising edge in the core cycle that ends at time `t`. -/
def State.hasEdge (s : State) (f r k t : Nat) : Bool := s.trackEdges f r k t != s.trackEdges f r k (t - 1)

/-- FAB_TRK of track `k` takes the setting `v` (R291). -/
def State.setTrack (s : State) (f r k v : Nat) : State :=
  let old := s.reg (fabricDA f) (pgFab r) 0x04C k
  if old = v then s
  else
    let x := s.region f r
    (s.setReg (fabricDA f) (pgFab r) 0x04C v k).setRegion f r { x with switched := tput x.switched k (s.boot.time, old) }

/-- R292: a strobe of time `due` is past at time `t`: the pulse of one cycle of its track, from the track's first rising edge at or after
that time, has ended. -/
def State.strobePast (s : State) (f r t due : Nat) : Bool :=
  let k := (s.region f r).decl.strobeTrack % 32
  decide (s.trackEdges f r k (due - 1) + 1 < s.trackEdges f r k t)

/-- The region to which a die's configuration assigns an input or an output group. -/
def State.groupOwner (s : State) (f : Nat) (out : Bool) (g : Nat) : Option Nat :=
  (List.range 16).find? fun r =>
    let d := (s.region f r).decl
    (if out then d.outGroups else d.inGroups).contains g

/-- R292: a strobe is presented to a region; R306: an isolated region drops it and counts it. -/
def State.strobe (s : State) (f r code arg : Nat) : State :=
  let x := s.region f r
  if x.isolatedNow then s.incReg (fabricDA f) (pgFab r) 0x058
  else s.setRegion f r { x with strobes := (code, arg, s.boot.time + 4) :: x.strobes }

def State.strobeGroup (s : State) (f : Nat) (out : Bool) (g : Nat) : State :=
  match s.groupOwner f out g with
  | some r => s.strobe f r (if out then 2 else 1) g
  | none => s

/-- R292 TICK: every region that is not isolated sees the tick edge; of the strobes before it those are kept that are not past. -/
def State.strobeTick (s : State) : State :=
  { s with regions := s.regions.map fun x =>
      (x.1, { x.2 with strobes := if x.2.isolatedNow then [] else
        (0, 0, s.boot.time + 4) :: x.2.strobes.filter fun p => !s.strobePast (x.1 / 16) (x.1 % 16) s.boot.time p.2.2 }) }

/-- R299: the physical column of a group that carries logical column `j`; `lost` are the retired physical columns. -/
def physColumn (lost : List Nat) (j : Nat) : Nat :=
  match lost with
  | [] => j
  | p :: _ => if j < p then j else j + 1

/-! ### What a configuration may declare (R292, R295, R296) -/

/-- R292: a signal depends, through the cells of its region, on a RELEASE strobe. -/
def meetsRelease (cell : Nat → CellCfg) : Nat → Signal → Bool
  | 0, _ => false
  | n + 1, g =>
    let inputs := fun c => (cell c).ins.any (meetsRelease cell n)
    match g with
    | .strobe code _ => code == 2
    | .o6 c => inputs c
    | .o5 c => inputs c
    | .sum c => inputs c || meetsRelease cell n (.ci c)
    | .co c => inputs c || meetsRelease cell n (.ci c)
    | .ci c => if c % 4375 = 0 then ((cell c).ins.drop 5).any (meetsRelease cell n) else meetsRelease cell n (.co (c - 1))
    | _ => false

/-- R292: a clock enable is RELEASE[g] itself, or no RELEASE is a source of it. -/
def enableOk (cell : Nat → CellCfg) (g : Signal) : Bool :=
  match g with
  | .strobe _ _ => true
  | g => !meetsRelease cell 1120000 g

/-- R295, R296: a port has RESP from 1 to 4,095 or a BUDGET of up to 4,095, and a class 0 or class 1 initiator can address die stores and
the ports of other fabric dies only, beside ARR and SIG. -/
def portDeclOk (da : Nat) (d : PortDecl) : Bool :=
  if d.port < 64 then decide (1 ≤ d.value) && decide (d.value ≤ 4095)
  else decide (2 ≤ d.cls) || (decide (d.value ≤ 4095) && d.spaces.all fun x => x.2 == 2 || (x.2 == 4 && x.1 != da))

/-- What the Keeper accepts of the configuration that the bytes `cfg` hold for a region of the fabric die at `da`. -/
def declOk (da : Nat) (cfg : List Byte) (d : RegionDecl) : Bool :=
  d.ports.all (portDeclOk da) &&
  (List.range 70000).all fun c => let k := Config.cellCfg cfg c; enableOk (Config.cellCfg cfg) k.enA && enableOk (Config.cellCfg cfg) k.enB

/-- R298: the cells of a region are clamped, or their clamps are lifted; a line that a clamp asserts trips its groups. -/
def State.clampCells (s : State) (f r : Nat) (on : Bool) : State :=
  (List.range 8).foldl (fun s k =>
    let x := s.trip f k
    if x.declared && x.region == r then
      let x' := { x with clamped := on }
      let s := s.setTrip f k x'
      if x'.drives && !x.drives then s.assertLine x.line else s
    else s) s

/-- The cells of a region are no longer declared: no configuration of it runs (R297, R308). -/
def State.dropCells (s : State) (f r : Nat) : State :=
  (List.range 8).foldl (fun s k =>
    let x := s.trip f k
    if x.declared && x.region == r then s.setTrip f k {} else s) s

end Sys2Proof.Machine
end

