-- ==== Sys2Proof/Machine/TickOps.lean ====
section
/-! DEFINITION. Operations on the tick that several chapters share: timetable entries taking effect (R44 to R46) and the
disarming of the tick (R42). -/

namespace Sys2Proof.Machine

/-- The target of an entry, by its kind (R43): a logical core, a logical tile die, an edge or fabric die, a port of a fabric die;
a NOP has none. -/
def TtEntry.target (e : TtEntry) : Option (Nat × Nat × Nat) :=
  match e.kind with
  | 1 => some (1, e.die, e.unit)
  | 2 => some (2, e.die, 0)
  | 3 => some (1, e.die, e.unit)
  | 4 => some (4, e.die, 0)
  | 5 => some (1, e.die, e.unit)
  | 6 => some (4, e.die, 0)
  | 7 => some (7, e.die, e.obj)
  | _ => none

/-- Two entries of one target (R46). -/
def TtEntry.sameTarget (a b : TtEntry) : Bool := a.target.isSome && a.target == b.target

/-- R46: entry `i` of kind `kind` takes effect now: it has been dispatched for this tick, its AT is the local cycle, no
strobe has ended the tick's entries (R389), and no earlier entry of the same AT and target is still to come. -/
def State.entryNow (s : State) (i kind : Nat) : Option TtEntry :=
  match s.ttEntry i with
  | none => none
  | some e =>
    let earlier := s.pacer.dispatched.any fun x =>
      decide (x.1 < i) && x.2 == s.tick && (match s.ttEntry x.1 with
        | some e' => e'.at_ == e.at_ && e'.sameTarget e
        | none => false)
    if s.running && !s.pacer.strobed && e.kind == kind && e.at_ == s.pacer.cycle &&
        s.pacer.dispatched.contains (i, s.tick) && !earlier then some e else none

/-- An entry that takes effect is no longer awaited; one with a deadline is watched until it (R48). -/
def State.enter (s : State) (i : Nat) (deadline : Bool) : State :=
  let p := s.pacer
  s.setPacer { p with dispatched := p.dispatched.erase (i, s.tick),
                      watch := if deadline then p.watch ++ [(i, s.tick)] else p.watch }

/-- A timetable action: `body` runs where the entry takes effect now. -/
def State.action (s : State) (i kind : Nat) (deadline : Bool) (body : TtEntry → State → State) : Out :=
  .next <| match s.entryNow i kind with
    | some e => body e (s.enter i deadline)
    | none => s

/-- R244: the link whose failure awaits its restart is taken into NI_FAILED_LINK of every NI: at the edge at which the restarted job
resumes, or, where that restart ends in a disarm, at the disarming edge, as a link that fails while the tick is disarmed
(notes/assumptions/224.md). -/
def State.takeFailedLink (s : State) : State :=
  match s.net.awaiting with
  | some l => s.setNet { s.net with failedLink := some l, awaiting := none }
  | none => s

/-- R42, R244, R277, R301, R428: the tick is to be disarmed: at the next edge while it runs or restarts, at once while it
waits for its first edge. -/
def State.requestDisarm (s : State) : State :=
  match s.pacer.phase with
  | .disarmed => s
  | .armed =>
    let p := { s.pacer with phase := .disarmed, cycle := 0, walk := 0, walkNext := false, dispatched := [] }
    (s.setPacer { p with rearm := none, acksWanted := [] }).assertStop
  | _ => s.setPacer { s.pacer with disarmAt := true }

end Sys2Proof.Machine
end

