-- ==== Sys2Proof/Machine/NetOps.lean ====
section
/-! DEFINITION. The target side of a network interface: the form of a packet (R237 to R239) and its refusal (R240). -/

namespace Sys2Proof

/-- R239: byte `a` of `n` payload bytes: the enables that a WR may set. -/
def enableMask (a n : Nat) : Nat := (2 ^ n - 1) * 2 ^ (a % 64)

end Sys2Proof

namespace Sys2Proof.Machine

/-- The ports that R238 gives a die: 0 to 9 on a tile die, DPORT 0 and SPORT 0 to 15 elsewhere. A response goes to the port that
sent its request. -/
def portsOk (p : Packet) : Bool :=
  (if dieKind p.dst.toNat = some .tile then decide (p.dport.toNat ≤ 9) else p.dport == 0 || p.isResponse) &&
  (dieKind p.src.toNat != some .tile || decide (p.sport.toNat ≤ 9)) &&
  (p.opc != opARR || p.dport == 9)

/-- R237: OPC, CLASS, SPACE, LEN, AUX, TAG and STATUS codes. -/
def codesOk (p : Packet) : Bool :=
  let len := p.len.toNat
  let aux := p.aux.toNat
  !p.rsv && decide (p.cls.toNat < 3) && decide (len ≤ 256) && decide (p.hops.toNat ≤ 24) &&
  match p.opc.toNat with
  | 1 => decide (p.space.toNat < 5) && aux == 0 && p.status == 0 && p.data.isEmpty
  | 2 => decide (p.space.toNat < 5) && aux == 0 && p.status == 0 && decide (p.data.length = len)
  | 3 => decide (aux < 1024) && len == 0 && p.tag == 0 && p.status == 0
  | 4 => decide (aux < 65536) && len == 0 && p.tag == 0 && p.status == 0
  | 5 => decide (1 ≤ aux) && decide (aux ≤ 6) && p.tag == 0 && p.status == 0 && decide (p.data.length = len)
  | 8 => aux == 0 && decide (p.status.toNat ≤ 5) && decide (p.data.length = if p.status = 0 then len else 0)
  | 9 => aux == 0 && decide (p.status.toNat ≤ 5) && p.data.isEmpty
  | _ => false

/-- R239: a RD, WR or RDR stays in its 256-byte block; only a WR carries enables, of its own bytes. -/
def extentOk (p : Packet) : Bool :=
  let a := byteAddr p
  let n := p.len.toNat
  (!(p.opc == opRD || p.opc == opWR || p.opc == opRDR) || decide (a % 256 + n ≤ 256)) &&
  (if p.opc = opWR then (List.range 256).all fun i => !p.byteEn.getLsbD i || (decide (a % 64 ≤ i) && decide (i < a % 64 + n))
   else p.byteEn == 0)

/-- R240: the packet keeps the rules. -/
def formed (p : Packet) : Bool := codesOk p && portsOk p && extentOk p

/-- A packet that waits at its target is taken; a malformed one is refused (R240), and `body` runs for another. -/
def State.arrival (s : State) (p : Packet) (body : State → State) : Out :=
  .next <| if s.hasArrived p then
      let s := s.take p
      if formed p then body s else s.refusePkt p
    else s

/-- R237, R240: a reserved OPC or MSG kind: whichever packet command takes such a packet, it is refused. -/
def reservedCode (p : Packet) : Bool :=
  !([opRD, opWR, opARR, opSIG, opMSG, opRDR, opWRR].contains p.opc) || (p.opc == opMSG && !(decide (1 ≤ p.aux.toNat) && decide (p.aux.toNat ≤ 6)))

/-- An arrival of opcode `opc`. -/
def State.arrivalOf (s : State) (p : Packet) (opc : BitVec 4) (body : State → State) : Out :=
  if p.opc = opc ∨ reservedCode p then s.arrival p body else .next s

/-- An arrival of a message of one kind (R237). `ok` checks its payload; a message that breaks it is refused (R240). -/
def State.message (s : State) (p : Packet) (kind : Nat) (ok : Bool) (body : State → State) : Out :=
  if (p.opc = opMSG ∧ p.aux.toNat = kind) ∨ reservedCode p then s.arrival p fun s => if ok then body s else s.refusePkt p else .next s

/-- Word `i` of a message payload. -/
def pword (p : Packet) (i : Nat) : Nat := word32At p.data (4 * i)

/-- R238, R239: consecutive bytes cut at 256-byte boundaries: address and bytes of each block, `n` blocks at most. -/
def cutBlocks : Nat → Nat → List Byte → List (Nat × List Byte)
  | 0, _, _ => []
  | n + 1, a, bs =>
    let k := 256 - a % 256
    if bs.isEmpty then [] else (a, bs.take k) :: cutBlocks n (a + k) (bs.drop k)

/-- The blocks that `n` bytes from `a` on touch. -/
def blocksOf (a n : Nat) : Nat := (a % 256 + n + 255) / 256

/-- A die-store request of a die's port (R237): a write of `data` where it is given, otherwise a read of `n` bytes. -/
def storePkt (da sport cls addr n : Nat) (data : Option (List Byte)) : Packet :=
  { Packet.blank with
      opc := if data.isSome then opWR else opRD, cls := BitVec.ofNat 2 cls, src := BitVec.ofNat 8 da,
      sport := BitVec.ofNat 4 sport, dport := 9, len := BitVec.ofNat 9 n, space := 2, addr := BitVec.ofNat 48 addr,
      byteEn := if data.isSome then BitVec.ofNat 256 (enableMask addr n) else 0, data := data.getD [],
      psn := if data.isSome then List.replicate ((addr % 32 + n + 31) / 32) false else [] }

end Sys2Proof.Machine
end

