-- ==== Sys2Proof/Machine/Streamer.lean ====
section
/-! DEFINITION. The streamers: requests (R212 to R216), responses (R201, R202, R216, R221, R479), gates (R210),
completion (R205), cancellation (R217, R218), translation (R219, R220), tokens (R215), and the park slot (R222). -/

namespace Sys2Proof.Machine

/-! ### Tokens and charges -/

def State.teller (s : State) (da i : Nat) : Teller := tget s.tellers (16 * da + i) {}
def State.setTeller (s : State) (da i : Nat) (v : Teller) : State := { s with tellers := tput s.tellers (16 * da + i) v }

/-- The initiators of a die: 9 streamers on a tile die, up to 16 elsewhere. -/
def initiators (da : Nat) : Nat := if dieKind da = some .tile then 9 else 16

/-- R215: tokens of a request of `n` bytes. -/
def tokensOf (n : Nat) : Nat := max 1 ((n + 63) / 64)

/-- R215: a class 2 request takes its tokens; a class 0 or class 1 request is counted. -/
def State.takeTokens (s : State) (da i cls n : Nat) : State :=
  let x := s.teller da i
  if cls = 2 then
    s.setTeller da i { x with level := x.level - tokensOf n, spent := x.spent + BitVec.ofNat 32 (tokensOf n) }
  else s.setTeller da i { x with fixed := x.fixed + BitVec.ofNat 32 ((n + 63) / 64) }

/-- R215: at a tick edge each bucket of a die holds TLR_FLOOR at least. -/
def State.floorTokens (s : State) : State :=
  allDAs.foldl (fun s da =>
    let f := s.reg da pgTlr 0x040 % 2 ^ 16
    if f = 0 ∨ (blkAt da pgTlr).isNone ∨ !s.pageEn da pgTlr then s
    else (List.range (initiators da)).foldl (fun s i =>
      let x := s.teller da i
      s.setTeller da i { x with level := max x.level f }) s) s

/-- The bucket holds the tokens of a class 2 request. -/
def State.hasTokens (s : State) (da i cls n : Nat) : Bool :=
  cls != 2 || decide (tokensOf n ≤ (s.teller da i).level)

/-! ### Channels (R259 to R262) -/

/-- R261: the grain code. -/
def State.grain (s : State) : Nat := 8 + s.reg (memoryDA 0) 0xC0 0x048 % 8
/-- R261: the channel of a physical address, and its channel-local address. -/
def State.channelOf (s : State) (a : Nat) : Nat := a / 2 ^ s.grain % 12
def State.localAddr (s : State) (a : Nat) : Nat := a / 2 ^ s.grain / 12 * 2 ^ s.grain + a % 2 ^ s.grain
/-- The DA of the memory die that drives a channel. -/
def channelDA (ch : Nat) : Nat := memoryDA (ch / 2)

/-! ### The next request (R195, R212) -/

/-- R212: the elements of the next request: a run of dimension 0 that crosses no 256-byte boundary of its source and,
without skew, none of its destination. -/
def dRunLen (d : List Word) (next : Nat) : Nat :=
  let e := dEsz d
  let i0 := next % dCnt d 0
  let room := fun (a : Int) => (256 - (a % 256).toNat) / e
  let n := min (dCnt d 0 - i0) (room (dSrc d next))
  if dSkew d = 0 then min n (room (dDst d next)) else n

def Stream.runLen (st : Stream) : Nat := dRunLen st.desc st.next

/-- The far side of a stream: its space code, and whether it is the source. Without a far side both are local. -/
def dFar (d : List Word) : Option (Nat × Bool) :=
  if !sideLocal d (dSSP d) then some (dSSP d, true)
  else if !sideLocal d (dDSP d) then some (dDSP d, false) else none

def Stream.far (st : Stream) : Option (Nat × Bool) := dFar st.desc

/-- The store and unit of a local side of core `c` of die `t`. -/
def localSide (t c sp : Nat) : Sp × Nat := if sp = 0 then (.core, coreKey t c) else (.die, t)

/-- R219, R220: a virtual address through a stream's own result and the die's cache: the physical address, or none where
neither holds it. -/
def State.xlate (s : State) (t : Nat) (own : Option Xlat) (va : Nat) (write : Bool) : Option (Option Nat) :=
  match (own.toList ++ (s.tile t).xlat).find? fun x => x.vpage == va / 2 ^ 21 with
  | none => none
  | some x => if write && !x.write then some none else some (some (x.frame * 2 ^ 21 + va % 2 ^ 21))

/-- A request packet of a stream to its far side; the destination DA is filled in for DRAM and fabric ports. -/
def Stream.packet (st : Stream) (t c : Nat) (write : Bool) (addr n : Nat) (data : List Byte) (psn : List Bool) : Packet :=
  let d := st.desc
  let sp := if write then dDSP d else dSSP d
  let port := (if write then dDaddr d else dSaddr d) % 256
  { Packet.blank with
      opc := if write then opWR else opRD, cls := BitVec.ofNat 2 st.cls, src := BitVec.ofNat 8 (tileDA t),
      sport := BitVec.ofNat 4 c, dport := if sp = 1 then 9 else 0, len := BitVec.ofNat 9 n,
      dst := BitVec.ofNat 8 (dXdie d),
      space := if sp = 1 then 2 else if sp = 2 then 3 else 4,
      addr := BitVec.ofNat 48 (if sp = 3 then port + 256 * addr else addr),
      byteEn := if write then BitVec.ofNat 256 ((2 ^ n - 1) * 2 ^ (addr % 64)) else 0,
      data := data, psn := psn }

/-- The destination die of a request, to reckon its hops; none where it is not bound. -/
def State.farDA (s : State) (st : Stream) (sp addr : Nat) : Option Nat :=
  if sp = 2 then some (channelDA (s.channelOf addr))
  else if sp = 3 then some (dXdie st.desc)
  else (s.physDie (dXdie st.desc)).map tileDA

/-- R416: the charge of a request of `n` bytes: each 64-byte beat at a core store or die store, each 64 bytes at a memory
die, and each flit on each hop of the request and of its response: one header flit, and the data flits with the data. -/
def State.requestCharge (s : State) (st : Stream) (t c n : Nat) (far : Option (Nat × Bool)) (addr : Nat) : Nat :=
  let beats := (n + 63) / 64
  match far with
  | none => 120 * beats
  | some (sp, read) =>
    let flits := match s.farDA st sp addr with
      | some da =>
        let there := ((s.routeTo (tileDA t) c da).map (·.1)).getD 0
        let back := ((s.routeTo da 0 (tileDA t)).map (·.1)).getD 0
        if read then there + back * (beats + 1) else there * (beats + 1) + back
      | none => 0
    60 * beats + (if sp = 1 then 60 * beats else if sp = 2 then 1100 * beats else 0) + 40 * flits

/-- A charge of a stream: of the program for an SIS stream of class 0 or 1, of the allowance for class 2. -/
def State.chargeStream (s : State) (t c : Nat) (st : Stream) (amount : Nat) : State :=
  match st.src with
  | .sis => s.spend t c st.cls amount
  | _ => if st.cls = 2 then s.spend t c 2 amount else s

/-! ### Delivery -/

/-- Consecutive elements of one destination run: byte address, bytes, the poison of each element's bytes. -/
structure Seg where
  addr : Nat
  bytes : List Byte
  psn : List Bool

/-- Elements joined where their destinations follow one another. -/
def joinSegs : List Seg → List Seg
  | [] => []
  | x :: r =>
    match joinSegs r with
    | [] => [x]
    | y :: r' =>
      if x.addr + x.bytes.length = y.addr then ⟨x.addr, x.bytes ++ y.bytes, x.psn ++ y.psn⟩ :: r' else x :: y :: r'

/-- The poison of each granule that a run of bytes touches. -/
def granMarks (addr : Nat) (psn : List Bool) : List Bool :=
  (List.range ((addr % 32 + psn.length + 31) / 32)).map fun g =>
    let lo := 32 * g - addr % 32
    ((psn.drop lo).take (32 - (if g = 0 then addr % 32 else 0))).any id

/-- Destination granules of a run that carry poison, by global index in the destination space. -/
def granPsn (key addr : Nat) (psn : List Bool) : List Nat :=
  let m := granMarks addr psn
  ((List.range m.length).filter fun g => m.getD g false).map fun g => key * 2 ^ 64 + addr / 32 + g

/-- R216: granules newly written poisoned are counted. -/
def State.countPsn (s : State) (t c : Nat) (st : Stream) (gs : List Nat) : State × Stream :=
  let new := gs.filter fun g => !st.pgrans.contains g
  if new.isEmpty then (s, st)
  else ((s.flag (tileDA t) (pgStr c) 2).incReg (tileDA t) (pgStr c) 0x064 new.length,
        { st with pgrans := new.foldl nadd st.pgrans })

/-- Elements `first` on as the runs of bytes that they write at a local destination. -/
def destSegs (d : List Word) (first : Nat) (els : List (List Byte × Bool)) : List Seg :=
  joinSegs (((List.range els.length).zip els).map fun x =>
    ⟨(dDst d (first + x.1)).toNat, x.2.1, List.replicate x.2.1.length x.2.2⟩)

/-- R399: a run of bytes that a stream writes at a local destination, in the digest of its run. -/
def State.noteSeg (s : State) (t c : Nat) (st : Stream) (g : Seg) : State :=
  s.noteRun t c st.runCls (dDSP st.desc) (s.ownDie t) 0 g.addr (g.bytes.map some) (granMarks g.addr g.psn)

/-- R399: a write request of a stream to its far side, in the digest of its run. -/
def State.noteFar (s : State) (t c : Nat) (st : Stream) (sp addr : Nat) (data : List Byte) (psn : List Bool) : State :=
  s.noteRun t c st.runCls sp (if sp = 1 then dXdie st.desc else 0xFF) (dDaddr st.desc % 256) addr (data.map some) psn

/-- Elements `first` on written at a local destination (R202): their bytes and poison in element order. -/
def State.deliver (s : State) (t c : Nat) (st : Stream) (first : Nat) (els : List (List Byte × Bool)) : State × Stream :=
  let d := st.desc
  let (sp, unit) := localSide t c (dDSP d)
  let segs := destSegs d first els
  let s' := segs.foldl (fun s g =>
    (s.write sp unit g.addr (g.bytes.map some) (granMarks g.addr g.psn)).noteSeg t c st g) s
  s'.countPsn t c st (segs.flatMap fun g => granPsn (dDSP d) g.addr g.psn)

/-- R221, R479: the fault cursor at element `e`, unless an earlier one is set; the elements from it on are delivered
again, poisoned. -/
def Stream.setCursor (st : Stream) (e : Nat) (xf pc : Bool) : Stream :=
  match st.cursor with
  | some x => if x ≤ e then st else { st with cursor := some e, xf := xf, pc := pc, next := min st.next e }
  | none => { st with cursor := some e, xf := xf, pc := pc, next := min st.next e }

/-- The poisoned elements of a run that starts at element `first`. -/
def badElems (first : Nat) (els : List (List Byte × Bool)) : List Nat :=
  ((List.range els.length).filter fun i => (els.getD i ([], false)).2).map (first + ·)

/-- Elements delivered after a read: clean and poisoned ones under PSN = 00b, up to the cursor under PSN = 01b. -/
def State.deliverRead (s : State) (t c : Nat) (st : Stream) (first : Nat) (els : List (List Byte × Bool)) : State × Stream :=
  if match st.cursor with | some x => decide (x ≤ first) | none => false then (s, st)
  else if dPsn st.desc = 1 ∧ els.any (·.2) then (s, st.setCursor first false true)
  else
    let r := s.deliver t c st first els
    (r.1, { r.2 with psnElems := r.2.psnElems ++ badElems first els })

/-- Bytes that the spec does not state. -/
def freeBytes (k n : Nat) : List Byte := (List.range n).map fun i => Config.freeByte (k + i)

/-- Elements cut from bytes, each with the poison of its granules. `mark i` is the poison of byte `i`. -/
def cutElems (e n : Nat) (bs : List Byte) (mark : Nat → Bool) : List (List Byte × Bool) :=
  (List.range n).map fun i => ((bs.drop (e * i)).take e, (List.range e).any fun j => mark (e * i + j))

/-- The elements of a run at a local source. -/
def State.sourceElems (s : State) (t c : Nat) (st : Stream) (first n : Nat) : List (List Byte × Bool) :=
  let d := st.desc
  let (sp, unit) := localSide t c (dSSP d)
  (List.range n).map fun i =>
    let a := (dSrc d (first + i)).toNat
    (s.bytesAt sp unit a (dEsz d), s.psnAny sp unit a (dEsz d))

/-- Poison marks per payload granule of a packet (R234): granule 0 begins at the 64-byte block of its address. -/
def pktMarks (addr : Nat) (psn : List Bool) : List Bool := granMarks (addr % 64) (psn)

/-! ### STREAM_REQUEST -/

/-- A request of `n` elements goes to the far side with tag `tag`. -/
def State.sendRequest (s : State) (t c : Nat) (st : Stream) (tag n sp : Nat) (read : Bool) (addr : Nat)
    (data : List Byte) (psn : List Bool) : State :=
  let p := st.packet t c (!read) addr (n * dEsz st.desc) data psn
  let s := if read then s else s.noteFar t c st sp addr data psn
  if sp = 1 then s.requestLogical (dXdie st.desc) p tag
  else if sp = 2 then s.request { p with dst := BitVec.ofNat 8 (channelDA (s.channelOf addr)) } tag
  else s.request p tag

/-- The outstanding requests of a core's streamer (R227). -/
def Stream.open_ (x : Stream) : Nat := (x.reqs.filter fun q => q.data.isNone).length + boolNat x.wtag.isSome
def StrUnit.slots (u : StrUnit) : Nat := (u.streams.map Stream.open_).sum

/-- The request slots that a stream holds: a read holds its slot until its data is written, so that the reads run ahead of the
writes by no more than the slots (R212, R214). -/
def Stream.held (x : Stream) : Nat := x.reqs.length + boolNat x.wtag.isSome

/-- No request of a class can go out now: all slots are in use (R212, R214). -/
def StrUnit.busy (u : StrUnit) (cls : Nat) : Bool :=
  decide (64 ≤ (u.streams.map Stream.held).sum) ||
    (cls == 2 && decide (48 ≤ (u.streams.map fun x => if x.cls = 2 then x.held else 0).sum))

/-- A request of `n` bytes finds tokens and allowance; it takes both (R215, R421). -/
def State.mayIssue (s : State) (t c cls n charge : Nat) : Bool := s.hasTokens (tileDA t) c cls n && s.covers t cls charge
def State.payRequest (s : State) (t c : Nat) (st : Stream) (n charge : Nat) : State :=
  (s.takeTokens (tileDA t) c st.cls n).chargeStream t c st charge

/-- A walk for the next request begins; its result may be cached (R220). -/
def State.startWalk (s : State) (t c : Nat) (st : Stream) : State :=
  let u := s.tile t
  (s.setTile t { u with noCache := u.noCache.filter fun x => x != c }).setRunning t c st.cls
    (some { st with walk := true, entries := [] })

/-- R221 item 3: where a run after the fault cursor goes: some none where it cannot be translated, none where a walk must say. -/
def State.poisonPlace (s : State) (t : Nat) (st : Stream) (va : Nat) : Option (Option Nat) :=
  if !dXlt st.desc then some (some va)
  else if s.reg (tileDA t) pgStrDie 0x048 % 2 = 0 ∨ st.badPage = some (va / 2 ^ 21) then some none
  else s.xlate t st.own va true

/-- A run after the fault cursor (R221 item 3): delivered poisoned, without a source read; a translated destination that
cannot be translated is not written. A run to a local store issues no request: it takes no tokens and waits for nothing but the
reads before it (R221 item 4). Nothing is read, so only the beats written are charged. None where it cannot go on now. -/
def State.poisonRun (s : State) (t c : Nat) (st : Stream) (n : Nat) : Option State :=
  let d := st.desc
  let bytes := n * dEsz d
  let els := (List.range n).map fun i => (freeBytes (s.free + i * dEsz d) (dEsz d), true)
  let st' := { st with next := st.next + n, own := none }
  match st.far with
  | some (sp, false) =>
    let va := (dDst d st.next).toNat
    match s.poisonPlace t st va with
    | none => some (s.startWalk t c st)
    | some none => some (s.setRunning t c st.cls (some st'))
    | some (some a) =>
      let charge := s.requestCharge st t c bytes st.far a - 60 * ((bytes + 63) / 64)
      if (s.core t c).str.busy st.cls || !s.mayIssue t c st.cls bytes charge then none
      else match s.freeTag (tileDA t) c with
      | none => none
      | some tag =>
        let s := { s.payRequest t c st bytes charge with free := s.free + bytes }
        let data := (els.map (·.1)).flatten
        let psn := List.replicate data.length true
        let q : StrReq := { tag := tag, write := true, first := st.next, count := n, gs := granPsn (dDSP d) va psn }
        some ((s.sendRequest t c st tag n sp false a data (pktMarks a psn)).setRunning t c st.cls
          (some { st' with reqs := st'.reqs ++ [q] }))
  | _ =>
    if !st.reqs.isEmpty then none
    else
      let s := s.chargeStream t c st (60 * ((bytes + 63) / 64))
      let s := if dDSP d = 1 then s.arbWait t st.cls else s
      let r := { s with free := s.free + bytes }.deliver t c st' st.next els
      some (r.1.setRunning t c st.cls (some r.2))

/-! ### The translation walk (R219, R220) -/

/-- The byte address of the entry that a walk for `va` reads next: of the level-1 table, or of the level-2 table that the entry
read names. -/
def State.walkAddr (s : State) (t va : Nat) (entries : List (Nat × Bool)) : Nat :=
  match entries with
  | [] => bits (s.reg (tileDA t) pgStrDie 0x040) 31 16 * 2 ^ 16 + s.reg (tileDA t) pgStrDie 0x044 % 2 ^ 10 * 2 ^ 32 + 8 * bits va 47 35
  | e :: _ => bits e.1 41 17 * 2 ^ 17 + 8 * bits va 34 21

/-- A level-1 entry that ends the walk: poisoned, not valid, or with a reserved bit set. -/
def badLevel1 (e : Nat × Bool) : Bool := e.2 || !bit e.1 0 || bits e.1 16 1 != 0 || bits e.1 63 42 != 0

/-- The walk has read every entry that it needs. -/
def Stream.walked (st : Stream) : Bool :=
  st.walk && match st.entries with | [] => false | [e] => badLevel1 e | _ => true

/-- R220: what a walk finds: the translation or a fault, and whether an entry read was poisoned. -/
def State.walkResult (s : State) (va : Nat) (entries : List (Nat × Bool)) (poison : Bool) : Option Xlat × Bool :=
  if poison || entries.any (·.2) then (none, true)
  else match entries with
    | [e1, e2] =>
      if badLevel1 e1 || !bit e2.1 0 || bits e2.1 20 2 != 0 || bits e2.1 63 42 != 0 ||
          decide (s.dramSize < (bits e2.1 41 21 + 1) * 2 ^ 21) then (none, false)
      else (some { vpage := va / 2 ^ 21, frame := bits e2.1 41 21, write := bit e2.1 1 }, false)
    | _ => (none, false)

/-- The virtual address of the next request, and whether the translated side is read. -/
def Stream.walkVa (st : Stream) : Nat × Bool :=
  match st.far with
  | some (_, true) => ((dSrc st.desc st.next).toNat, true)
  | _ => ((dDst st.desc st.next).toNat, false)

/-- R220: the class 2 DRAM read of a walk's next entry; none where it cannot issue now. -/
def State.walkRead (s : State) (t c : Nat) (st : Stream) : Option State :=
  let a := s.walkAddr t st.walkVa.1 st.entries
  let charge := s.requestCharge st t c 8 (some (2, true)) a
  if st.wtag.isSome || st.walked || (s.core t c).str.busy 2 || !s.mayIssue t c 2 8 charge then none
  else match s.freeTag (tileDA t) c with
    | none => none
    | some tag =>
      let p : Packet := { st.packet t c false a 8 [] [] with
        dst := BitVec.ofNat 8 (channelDA (s.channelOf a)), dport := 0, space := 3, addr := BitVec.ofNat 48 a }
      some (((s.payRequest t c st 8 charge).setRunning t c st.cls (some { st with wtag := some tag })).request p tag)

/-- A translation fault of the next request (R220, R221): cursor, STR_XFLT, XLT_FAULT, and the host's event. -/
def State.xlateFault (s : State) (t c : Nat) (st : Stream) (va : Nat) (write : Bool) : State :=
  let da := tileDA t
  let s := s.flag da (pgStr c) 1
  let s := if bit (s.reg da (pgStr c) 0x058) 17 then s
    else (s.setReg da (pgStr c) 0x054 (va % 2 ^ 32)).setReg da (pgStr c) 0x058
      (va / 2 ^ 32 % 2 ^ 16 + 2 ^ 16 * boolNat write + 2 ^ 17)
  let id := s.place.logical t
  let s := s.event { code := 0x10, src := id.getD 0xFF, unit := s.place.roleOf t c, tick := s.tickWord,
                     w2 := BitVec.ofNat 32 (va % 2 ^ 32),
                     w3 := BitVec.ofNat 32 (va / 2 ^ 32 % 2 ^ 16 + 2 ^ 16 * boolNat write + 2 ^ 17) }
  s.setRunning t c st.cls (some ({ st with walk := false }.setCursor st.next true false))

/-- The next request of a running stream; none where it cannot issue one now (R195, R210, R212, R214, R215, R421). -/
def State.nextRequest (s : State) (t c : Nat) (st : Stream) : Option State :=
  let d := st.desc
  let k := s.core t c
  let total := dTotal d
  if !st.gateOpen || !k.reached st.due || decide (total ≤ st.next) then none
  else if st.walk then s.walkRead t c st
  else
    let n := st.runLen
    let bytes := n * dEsz d
    let full := st.far.isSome && k.str.busy st.cls
    if st.cursor.isSome then s.poisonRun t c st n
    else
      let src := (dSrc d st.next).toNat
      let dst := (dDst d st.next).toNat
      let va := match st.far with | some (_, true) => src | _ => dst
      let write := match st.far with | some (_, true) => false | _ => true
      let look := if dXlt d then
          (if s.reg (tileDA t) pgStrDie 0x048 % 2 = 0 then some none else s.xlate t st.own va write)
        else some (some va)
      match look with
      | none => some (s.startWalk t c st)
      | some none => some (s.xlateFault t c st va write)
      | some (some pa) =>
        let charge := s.requestCharge st t c bytes st.far pa
        if full || !s.mayIssue t c st.cls bytes charge then none
        else
          let s1 := s.payRequest t c st bytes charge
          let s1 := if (sideLocal d (dSSP d) && dSSP d == 1) || (sideLocal d (dDSP d) && dDSP d == 1) then s1.arbWait t st.cls else s1
          let st' := { st with next := st.next + n, own := none }
          match st.far with
          | none =>
            let r := s1.deliverRead t c st' st.next (s1.sourceElems t c st st.next n)
            some (r.1.setRunning t c st.cls (some r.2))
          | some (sp, true) =>
            match s.freeTag (tileDA t) c with
            | none => none
            | some tag =>
              let s2 := s1.setRunning t c st.cls (some { st' with
                reqs := st'.reqs ++ [{ tag := tag, write := false, first := st.next, count := n }] })
              some (s2.sendRequest t c st tag n sp true pa [] [])
          | some (sp, false) =>
            let els := s1.sourceElems t c st st.next n
            if dPsn d = 1 ∧ els.any (·.2) then
              some (s1.setRunning t c st.cls (some (st.setCursor st.next false true)))
            else
              match s.freeTag (tileDA t) c with
              | none => none
              | some tag =>
                let data := (els.map (·.1)).flatten
                let psn := els.flatMap fun x => List.replicate (dEsz d) x.2
                let q : StrReq :=
                  { tag := tag, write := true, first := st.next, count := n
                    gs := granPsn (dDSP d) dst psn, bad := badElems st.next els }
                let s2 := s1.setRunning t c st.cls (some { st' with reqs := st'.reqs ++ [q] })
                some (s2.sendRequest t c st tag n sp false pa data (pktMarks pa psn))

/-- STREAM_REQUEST (R195): the next request of the highest-class running stream that can issue one. -/
def execStreamRequest (t c : Nat) (s : State) : Out :=
  .next <|
    let s := s.admitStreams t c
    let try_ := fun cls => ((s.core t c).str.running cls).bind fun st => s.nextRequest t c st
    ((try_ 0).orElse fun _ => (try_ 1).orElse fun _ => try_ 2).getD s

/-! ### Responses (R201, R216, R479) -/

/-- The stream that a tag belongs to, and its request. -/
def takeReq (tag : Nat) : List Stream → Option (Stream × StrReq)
  | [] => none
  | x :: r =>
    match x.reqs.find? fun q => q.tag == tag && q.data.isNone with
    | some q => some (x, q)
    | none => takeReq tag r

/-- R201: the reads answered so far are delivered in element order, at most `n` of them. -/
def State.deliverReads (s : State) (t c : Nat) (st : Stream) : Nat → State × Stream
  | 0 => (s, st)
  | n + 1 =>
    match st.reqs with
    | q :: r => match q.data with
      | some els =>
        let x := s.deliverRead t c { st with reqs := r } q.first els
        x.1.deliverReads t c x.2 n
      | none => (s, st)
    | [] => (s, st)

/-- A write is acknowledged: the granules that it has written poisoned are counted (R206, R216). An error acts as a fault at the
first element that the write carries (R479). -/
def State.ackWrite (s : State) (t c : Nat) (st : Stream) (q : StrReq) (ok : Bool) : State × Stream :=
  let st := { st with reqs := st.reqs.filter fun x => x.tag != q.tag }
  if ok then s.countPsn t c { st with psnElems := st.psnElems ++ q.bad } q.gs else (s, st.setCursor q.first false false)

/-- A read is answered: its elements, which an error poisons (R479), are delivered after those of the reads before it. -/
def State.ackRead (s : State) (t c : Nat) (st : Stream) (q : StrReq) (p : Packet) : State × Stream :=
  let e := dEsz st.desc
  let a := byteAddr p % 64
  let els := if p.status = 0 then cutElems e q.count p.data fun i => p.psn.getD ((a + i) / 32 - a / 32) false
    else (List.range q.count).map fun i => (freeBytes (s.free + e * i) e, true)
  let s := if p.status = 0 then s else { s with free := s.free + e * q.count }
  let st := { st with reqs := st.reqs.map fun x => if x.tag = q.tag ∧ x.data = none then { x with data := some els } else x }
  s.deliverReads t c st st.reqs.length

/-- The running stream whose walk a tag belongs to. -/
def StrUnit.walker (u : StrUnit) (tag : Nat) : Option Stream := u.streams.find? fun x => x.wtag == some tag

/-- A response reaches the streamer of a core: the entry of a walk, a read, or the acknowledgement of a write. An entry read with an
error counts as poisoned, as a source does (R479). -/
def State.streamRsp (s : State) (t c : Nat) (p : Packet) : State :=
  let u := (s.core t c).str
  match u.walker p.tag.toNat with
  | some st =>
    let e := if p.status = 0 then (leNat p.data, p.psn.any id) else (0, true)
    s.setRunning t c st.cls (some { st with wtag := none, entries := st.entries ++ [e] })
  | none =>
    match takeReq p.tag.toNat u.streams with
    | none => s
    | some (st, q) =>
      let r := if q.write then s.ackWrite t c st q (decide (p.status = 0)) else s.ackRead t c st q p
      r.1.setRunning t c st.cls (some r.2)

/-! ### Gate, completion, cancellation -/

/-- R210: every accepted stream of a class whose tally has reached its count opens; one of a zero count completes. -/
def State.openGates (s : State) (t c cls : Nat) : State :=
  let ready := fun (x : Stream) => x.cls == cls && !x.gateOpen && s.gateOpen t x.desc
  let done := (s.core t c).str.streams.filter fun x => ready x && dTotal x.desc == 0
  let go := fun (x : Stream) => if ready x then { x with gateOpen := true } else x
  let s := s.updCore t c fun k => { k with str := { k.str with
    streams := (k.str.streams.filter fun x => !(ready x && dTotal x.desc == 0)).map go } }
  (done.foldl (fun s st => s.finishStream t c st) s).admitStreams t c

def execGateOpen (t c cls : Nat) (s : State) : Out := .next (s.openGates t c cls)

/-- R205: every element has been delivered and every write acknowledged. -/
def Stream.settled (st : Stream) : Bool :=
  st.gateOpen && decide (dTotal st.desc ≤ st.next) && st.reqs.isEmpty

def execStreamComplete (t c cls : Nat) (s : State) : Out :=
  .next <| match (s.core t c).str.running cls with
    | some st => if st.settled then ((s.setRunning t c cls none).finishStream t c st).admitStreams t c else s
    | none => s

/-- R217: the class 2 program or task of the core ends as faulted, and its SIS streams with it; no rollback follows. -/
def execStrCancel (t c : Nat) (s : State) : Out :=
  .next <| if (s.bank t c 2).active && !s.retired (tileDA t) (pgStr c) then s.endClass2 t c else s

/-! ### The end of a walk (R220) -/

/-- R220: the die caches 256 translations; which one a further entry replaces is not stated, and is free. -/
def State.cacheXlat (s : State) (t : Nat) (x : Xlat) : State :=
  let u := s.tile t
  if u.xlat.length < 256 then s.setTile t { u with xlat := u.xlat ++ [x] }
  else (s.setTile t { u with xlat := u.xlat.eraseIdx (Config.freeNat s.free % 256) ++ [x] }).draw

/-- A walk has found no translation: a fault, or after the cursor a page that is not written (R221). -/
def State.walkFails (s : State) (t c : Nat) (st : Stream) : State :=
  let va := st.walkVa
  if st.cursor.isSome then s.setRunning t c 2 (some { st with walk := false, entries := [], badPage := some (va.1 / 2 ^ 21) })
  else s.xlateFault t c { st with entries := [] } va.1 (!va.2)

/-- TRANSLATION_WALK: the walk that the core's class 2 stream waits for completes. `poison` says that the hardware found an entry
uncorrectable. -/
def execTranslationWalk (t c : Nat) (poison : Bool) (s : State) : Out :=
  .next <| match (s.core t c).str.running 2 with
    | none => s
    | some st =>
      if !st.walked then s
      else
        let va := st.walkVa
        let r := s.walkResult va.1 st.entries poison
        let s := if r.2 then s.flag (tileDA t) pgStrDie 1 else s
        match r.1 with
        | none => s.walkFails t c st
        | some x =>
          if !va.2 && !x.write then s.walkFails t c st
          else
            let st := { st with walk := false, entries := [] }
            if (s.tile t).noCache.contains c then s.setRunning t c 2 (some { st with own := some x })
            else (s.cacheXlat t x).setRunning t c 2 (some st)

/-- STR_XINV (R220): the die's cache is emptied; the walks in progress complete for their own requests only. -/
def execStrXinv (t : Nat) (s : State) : Out :=
  .next (if s.retired (tileDA t) pgStrDie then s else s.setTile t { s.tile t with xlat := [], noCache := List.range 9 })

/-! ### Parked tasks (R222) -/

/-- STR_XRESUME: VALID is cleared, and the parked task waits for a tick edge at which the return slot is empty. -/
def execStrXresume (t c : Nat) (s : State) : Out :=
  .next <|
    if s.retired (tileDA t) (pgStr c) then s
    else
    let s := s.setReg (tileDA t) (pgStr c) 0x058 (clrBit (s.reg (tileDA t) (pgStr c) 0x058) 17)
    s.updDisp t c fun d => { d with resume := d.park.isSome }

/-- RESUME_PARKED: at a tick edge at which the return slot is empty, the released task moves into it. -/
def execResumeParked (t c : Nat) (s : State) : Out :=
  .next <|
    let d := s.disp t c
    if d.resume ∧ d.ret.isNone ∧ s.pacer.cycle = 0 then
      s.updDisp t c fun d => { d with ret := d.park, park := none, resume := false }
    else s

/-! ### Tokens (R215) -/

/-- TOKEN_REFILL: every 64 cycles each bucket of a die becomes min(DEPTH, level + RATE). -/
def execTokenRefill (da : Nat) (s : State) : Out :=
  .next <|
    if (blkAt da pgTlr).isNone || !s.pageEn da pgTlr then s
    else
      let rate := s.reg da pgTlr 0x044 % 2 ^ 16
      let depth := s.reg da pgTlr 0x048 % 2 ^ 16
      (List.range (initiators da)).foldl (fun s i =>
        let x := s.teller da i
        s.setTeller da i { x with level := min depth (x.level + rate) }) s

end Sys2Proof.Machine
end

