-- ==== Sys2Proof/Machine/Edge.lean ====
section
/-! DEFINITION. The drive edge: sampling and release (R310, R311, R53), sigma-delta channels (R313 to R317), generators
(R318 to R320), trips and resets (R322 to R327), encoders (R330). -/

namespace Sys2Proof.Machine

/-! ### Input records (R310) -/

def padTo32 (l : List Byte) : List Byte := l ++ List.replicate ((32 - l.length % 32) % 32) 0

/-- The 32-byte header of an input record. -/
def State.recHeader (s : State) (e : Nat) : List Byte :=
  leBytes 8 s.tick ++ leBytes 4 ((if isLink e then 0 else packBits ((List.range 16).map (s.tiActive e))) + 2 ^ 16 * ((s.edge e).tripped.toNat % 2 ^ sgCount e)) ++ List.replicate 20 0

/-- SDI channel fields (R334). -/
def State.chCfg (s : State) (e ch : Nat) : Nat := s.reg (edgeDA e) pgSdi 0x064 ch
def State.chDiv (s : State) (e ch : Nat) : Nat := s.reg (edgeDA e) pgSdi (0x040 + 4 * bits (s.chCfg e ch) 2 0) % 2 ^ 9
def State.chOsr (s : State) (e ch : Nat) : Nat := bits (s.chCfg e ch) 16 8
def State.chOsrc (s : State) (e ch : Nat) : Nat := bits (s.chCfg e ch) 21 17

/-- R316: VALID of a channel for input group `g`. -/
def State.chValid (s : State) (e ch g : Nat) : Bool :=
  let x := s.sd e ch
  decide (3 < x.outs) && s.chDiv e ch != 0 && !x.seenBy.contains g

/-- The entry of an SDI channel; AGE of a channel that has given no output is not stated, and is free. -/
def State.chEntry (s : State) (e ch g : Nat) : List Byte :=
  let x := s.sd e ch
  if s.chOsr e ch = 0 then List.replicate 8 0
  else
    let age := if x.outs = 0 then Config.freeNat (s.free + ch) else s.boot.time - x.stamp
    leBytes 4 x.y.toNat ++ leBytes 2 (boolNat (s.chValid e ch g) + 2 * boolNat x.active) ++ leBytes 2 (min 0xFFFF age)

/-- ENC_STAT of a port for an input group: STALE where no read has completed since the group's last SAMPLE, or a read was
skipped (R330). -/
def Enc.status (x : Enc) (stale : Bool) : Nat := x.stat % 2 ^ 8 + 2 ^ 8 * boolNat (stale || x.skipped)

def State.encEntry (s : State) (e n g : Nat) : List Byte :=
  let x := s.enc e n
  leBytes 8 (x.pos % 2 ^ 48) ++ leBytes 4 (x.status (x.seenBy.contains g)) ++ leBytes 4 (x.readTs % 2 ^ 16)

/-- The entry of a drive-link lane (R332). -/
def State.laneEntry (s : State) (e n g : Nat) : List Byte :=
  let x := s.lane e n
  let w0 := boolNat x.frameOk + 2 * boolNat (x.seenBy.contains g || !x.frameOk) + 4 * boolNat (s.laneUp e n)
  let k := 32 * s.laneAxes e n
  leBytes 4 w0 ++ leBytes 4 x.frameCycle ++ List.replicate 24 0 ++ ((x.frame ++ List.replicate k 0).take k)

/-- The input record of group `g`. -/
def State.inputRecord (s : State) (e g : Nat) : List Byte :=
  let d := s.grp e g
  padTo32 <| s.recHeader e ++
    if isLink e then (members 8 d.mask).flatMap fun n => s.laneEntry e n g
    else ((members 64 d.mask).flatMap fun ch => s.chEntry e ch g) ++ ((members 16 d.enc).flatMap fun n => s.encEntry e n g)

/-- The members of a group have been latched by it. -/
def State.markSeen (s : State) (e g : Nat) : State :=
  let d := s.grp e g
  if isLink e then (members 8 d.mask).foldl (fun s n =>
    s.setLane e n { s.lane e n with seenBy := g :: (s.lane e n).seenBy }) s
  else
    let s := (members 64 d.mask).foldl (fun s ch =>
      s.setSd e ch { s.sd e ch with seenBy := g :: (s.sd e ch).seenBy }) s
    (members 16 d.enc).foldl (fun s n => s.setEnc e n { s.enc e n with seenBy := g :: (s.enc e n).seenBy }) s

/-- One request of an edge die for a logical die; it waits for a free tag, and in a class 2 group for tokens (R215). The tag,
where it leaves. -/
def State.edgeRequest (s : State) (da die cls : Nat) (p : Packet) : State × Option Nat :=
  match s.freeTag da 0 with
  | none => (s, none)
  | some tag =>
    if s.hasTokens da 0 cls p.len.toNat then ((s.takeTokens da 0 cls p.len.toNat).requestLogical die p tag, some tag)
    else (s, none)

/-- The writes of a delivery that can leave, in order. -/
def State.sendWrites (s : State) (da : Nat) (d : Delivery) : List (Nat × List Byte) → State × Delivery
  | [] => (s, { d with left := [] })
  | b :: r =>
    match s.edgeRequest da d.die d.cls (storePkt da 0 d.cls b.1 b.2.length (some b.2)) with
    | (s, some tag) => s.sendWrites da { d with tags := d.tags ++ [tag] } r
    | (s, none) => (s, { d with left := b :: r })

/-- The deliveries of an edge die, in order of their SAMPLE. -/
def State.sendDeliveries (s : State) (da : Nat) : List Delivery → State × List Delivery
  | [] => (s, [])
  | d :: r =>
    let x := if d.start ≤ s.boot.time then s.sendWrites da d d.left else (s, d)
    let y := x.1.sendDeliveries da r
    (y.1, x.2 :: y.2)

/-- The record of a group for one die; a logical die that is unbound is skipped (R396). Its writes leave from local cycle 4. -/
def State.deliverRecord (s : State) (e g die : Nat) (rec : List Byte) : State :=
  if (s.physDie die).isNone then s
  else
    let d := s.grp e g
    let x := s.edge e
    s.setEdge e { x with deliveries := x.deliveries ++
      [{ group := g, die := die, tally := d.tally, cls := d.cls, start := s.boot.time + (4 - s.pacer.cycle),
         left := cutBlocks (blocksOf d.addr rec.length) d.addr rec }] }

/-- R310: an input group of an edge die is latched and its record is sent. -/
def State.sampleGroup (s : State) (e g : Nat) : State :=
  let d := s.grp e g
  if d.en then
    let rec_ := s.inputRecord e g
    let s := { s.markSeen e g with free := s.free + 64 }
    let s := s.deliverRecord e g d.dieA rec_
    if d.dieB = 0xFF then s else s.deliverRecord e g d.dieB rec_
  else s

def execSample (i : Nat) (s : State) : Out :=
  s.action i 4 false fun en s =>
    match edgeOf en.die, fabricOf en.die with
    | some e, _ => s.sampleGroup e en.obj
    | none, some f => s.strobeGroup f false en.obj
    | none, none => s

/-- R310: the tally arrival that follows the last write of a record. -/
def arrivalPkt (da cls tally : Nat) : Packet :=
  { Packet.blank with
      opc := opARR, cls := BitVec.ofNat 2 cls, src := BitVec.ofNat 8 da, dport := 9, aux := BitVec.ofNat 32 tally }

/-- A write response reaches an edge die. -/
def State.deliveryRsp (s : State) (e : Nat) (p : Packet) : State :=
  let x := s.edge e
  let tag := p.tag.toNat
  match x.deliveries.find? fun d => d.tags.contains tag with
  | none => s
  | some d =>
    let d' := { d with tags := d.tags.filter (· != tag) }
    let s := if p.status = 0 then s else s.flag (edgeDA e) (sgPage e) 3
    let others := x.deliveries.filter fun y => !y.tags.contains tag
    if d'.tags.isEmpty && d'.left.isEmpty then
      (s.setEdge e { x with deliveries := others }).postLogical d.die (arrivalPkt (edgeDA e) d.cls d.tally)
    else s.setEdge e { x with deliveries := others ++ [d'] }

/-! ### Output records (R311) -/

/-- The length of an output record. -/
def State.outLen (s : State) (e g : Nat) : Nat :=
  let d := s.grp e (16 + g)
  let n := 32 + if isLink e then ((members 8 d.mask).map fun n => 16 * s.laneAxes e n).sum else 8 * (members 48 d.mask).length
  n + (32 - n % 32) % 32

/-- The reads of an output record that can leave, in increasing address order. -/
def State.sendReads (s : State) (da die cls addr : Nat) (x : OutGroup) : List (Nat × Nat) → State × OutGroup
  | [] => (s, { x with left := [] })
  | b :: r =>
    match s.edgeRequest da die cls (storePkt da 0 cls b.1 b.2 none) with
    | (s, some tag) => s.sendReads da die cls addr { x with tags := x.tags ++ [(tag, b.1 - addr)] } r
    | (s, none) => (s, { x with left := b :: r })

/-- The reads that an output group still has to send. -/
def State.pumpReads (s : State) (e g : Nat) : State :=
  let d := s.grp e (16 + g)
  let da := edgeDA e
  let x := s.outGroup da g
  let r := s.sendReads da (if x.fromB then d.dieB else d.dieA) x.cls d.addr x x.left
  r.1.setOut da g r.2

/-- The reads of an output record from one die. -/
def State.fetchRecord (s : State) (e g : Nat) (fromB : Bool) : State :=
  let d := s.grp e (16 + g)
  let n := s.outLen e g
  let reads := (cutBlocks (blocksOf d.addr n) d.addr (List.replicate n 0)).map fun b => (b.1, b.2.length)
  (s.setOut (edgeDA e) g { s.outGroup (edgeDA e) g with
    left := reads, tags := [], pieces := [], poison := false, fromB := fromB }).pumpReads e g

/-- What the edge dies send in a core cycle: writes of input records and reads of output records that have waited. -/
def State.pumpEdges (s : State) : State :=
  [0, 1, 2, 3, 4, 5].foldl (fun s e =>
    let s := if (s.edge e).deliveries.any fun d => !d.left.isEmpty then
        let r := s.sendDeliveries (edgeDA e) (s.edge e).deliveries
        r.1.setEdge e { r.1.edge e with deliveries := r.2 }
      else s
    (List.range 16).foldl (fun s g =>
      if (s.outGroup (edgeDA e) g).left.isEmpty then s else s.pumpReads e g) s) s

/-- R48, R53, R311: the release of a group is a schedule violation of its RELEASE entry. The unit involved is not stated: the die is
charged (notes/assumptions/222.md). -/
def State.releaseViolation (s : State) (da : Nat) (x : OutGroup) : State :=
  if x.cls < 2 then s.violation da x.entry x.cls (x.fired.getD s.tick) (ledgerRef da 0x0C 0) else s

/-- R311: a fetch that fails or is late: GRP_FETCH, and for classes 0 and 1 a report (R379 kind 0x09) and a schedule violation. -/
def State.failFetch (s : State) (e g : Nat) : State :=
  let da := edgeDA e
  let x := s.outGroup da g
  let s := (s.setOut da g { x with withheld := true, left := [], tags := [] }).flag da (sgPage e) 2
  if x.cls < 2 then (s.report da x.cls 0x09 noRef g).releaseViolation da x else s

/-- RELEASE: the fetch of a group's record starts. Where both of its dies are unbound, nothing is fetched (R396). -/
def execRelease (i : Nat) (s : State) : Out :=
  s.action i 6 false fun en s =>
    let g := en.obj
    let x : OutGroup := { fired := some s.tick, gate := en.arg, cls := en.cls, entry := i }
    match edgeOf en.die, fabricOf en.die with
    | some e, _ =>
      let d := s.grp e (16 + g)
      if !d.en then s
      else
        let s := s.setOut en.die g x
        if (s.physDie d.dieA).isSome then s.fetchRecord e g false
        else if d.dieB != 0xFF && (s.physDie d.dieB).isSome then s.fetchRecord e g true
        else s.setOut en.die g { x with withheld := true }
    | none, some _ => s.setOut en.die g { x with fetched := true }
    | none, none => s

/-- A read response reaches an edge die: a piece of a record, or an error: UNROUTABLE or TIMEOUT of a read from DIE_A
makes the die read the whole record from DIE_B. -/
def State.fetchRsp (s : State) (e : Nat) (p : Packet) : State :=
  let da := edgeDA e
  let tag := p.tag.toNat
  match (List.range 16).find? fun g => (s.outGroup da g).tags.any fun t => t.1 == tag with
  | none => s
  | some g =>
    let x := s.outGroup da g
    let d := s.grp e (16 + g)
    let off := ((x.tags.find? fun t => t.1 == tag).map (·.2)).getD 0
    if p.status = 0 then
      let tags := x.tags.filter fun t => t.1 != tag
      s.setOut da g { x with tags := tags, pieces := x.pieces ++ [(off, p.data)],
                             poison := x.poison || p.psn.any id, fetched := tags.isEmpty && x.left.isEmpty }
    else if (p.status = 1 ∨ p.status = 2) ∧ !x.fromB ∧ d.dieB ≠ 0xFF ∧ (s.physDie d.dieB).isSome then
      s.fetchRecord e g true
    else s.failFetch e g

/-- R311: at a tick edge, a fetch of the tick that ended which has not completed is late. -/
def State.lateFetches (s : State) (tick : Nat) : State :=
  [0, 1, 2, 3, 4, 5].foldl (fun s e => (List.range 16).foldl (fun s g =>
    let x := s.outGroup (edgeDA e) g
    if x.fired = some tick ∧ !x.fetched ∧ !x.withheld then s.failFetch e g else s) s) s

/-- R53: at a tick edge, a class 0 or class 1 release of the tick that ended whose verdict has not arrived is a schedule violation. -/
def State.lateVerdicts (s : State) (tick : Nat) : State :=
  (s.outs.filter fun y => decide (y.2.fired = some tick) && !y.2.withheld && decide (y.2.cls < 2) && y.2.gate != 0xFFFF).foldl
    (fun s y =>
      let da := y.1 / 16
      if s.verdicts.any fun v => v.da == da && v.cgroup == y.2.gate && v.tick == tick % 2 ^ 32 then s
      else s.releaseViolation da y.2) s

/-- A restart or a disarming edge withholds every release of the tick. -/
def State.withholdAll (s : State) : State :=
  { s with outs := s.outs.map fun x =>
      (x.1, if x.2.fired = some s.tick then { x.2 with withheld := true, left := [], tags := [] } else x.2) }

/-- R53, R384: VERDICT: the first verdict of a tick and clearing group that reaches a die before the edge stands. -/
def execVerdict (p : Packet) (s : State) : Out :=
  let w0 := pword p 0
  s.message p 0x04 (decide (p.len = 8) && decide (w0 < 2 ^ 18)) fun s =>
    let v : Verdict := { da := p.dst.toNat, cgroup := bits w0 15 0, tick := pword p 1, release := bit w0 16 }
    if v.tick ≠ s.tick % 2 ^ 32 ∨ s.verdicts.any fun x => x.da == v.da && x.cgroup == v.cgroup && x.tick == v.tick then s
    else { s with verdicts := s.verdicts ++ [v] }

/-- R53: the gate of a release is open. -/
def State.gateOk (s : State) (da gate tick : Nat) : Bool :=
  gate == 0xFFFF || s.verdicts.any fun v => v.da == da && v.cgroup == gate && v.tick == tick % 2 ^ 32 && v.release

/-- The record that the pieces make. -/
def OutGroup.record (x : OutGroup) (n : Nat) : List Byte :=
  x.pieces.foldl (fun r b => spliceBytes r b.1 b.2) (List.replicate n 0)

/-- R319, R320: a record entry of a generator becomes pending; MODE 11b is applied as 10b and refused. -/
def State.applyGen (s : State) (e gn : Nat) (w0 w1 : Nat) : State :=
  let mode := bits w0 25 24
  let s := s.setGen e gn { s.gen e gn with
    pending := some (bits w0 23 0, bits w1 23 0, if mode = 3 then 2 else mode), released := true }
  if mode = 3 then s.flag (edgeDA e) pgEdg 4 else s

/-- CRC-32 of a frame's data bytes, as an END block carries it. -/
def frameCrc (l : List Byte) : Nat := crc32 l

/-- R332: the blocks of a setpoint frame. -/
def setpointBlocks (data : List Byte) (tick : Nat) : List (Nat × List Byte) :=
  let n := data.length / 8
  [(0xC3, ctlBytes (leBytes 2 n ++ [0x01] ++ leBytes 4 tick))] ++
  (List.range n).map (fun i => (0, (data.drop (8 * i)).take 8)) ++
  [(0xC4, ctlBytes (leBytes 4 (frameCrc data)))]

/-- The members' parts of an output record of a drive-link die: the setpoint frames of its lanes that are up. -/
def State.applyLanes (s : State) (e : Nat) (rec : List Byte) : List Nat → Nat → State
  | [], _ => s
  | n :: r, off =>
    let k := 16 * s.laneAxes e n
    let s := if s.laneUp e n && k != 0 then s.sendBlocks e n (setpointBlocks ((rec.drop off).take k) (s.tick % 2 ^ 32)) else s
    s.applyLanes e rec r (off + k)

/-- R311, R322 item 5: a fetched record takes effect. -/
def State.applyRecord (s : State) (e g : Nat) (rec : List Byte) : State :=
  let d := s.grp e (16 + g)
  let trip := word32At rec 0 % 2 ^ 16
  let s := if d.cls = 0 then (members (sgCount e) trip).foldl (fun s k => s.tripGroup e k 0x42) s else s
  if isLink e then s.applyLanes e rec (members 8 d.mask) 32
  else
    let m := members 48 d.mask
    ((List.range m.length).zip m).foldl (fun s x =>
      s.applyGen e x.2 (word32At rec (32 + 8 * x.1)) (word32At rec (36 + 8 * x.1))) s

/-- RECORD_APPLY: D cycles after a tick edge, the release of the tick before takes effect, or is withheld. A poisoned
record is discarded by its consumer (R404). -/
def execRecordApply (da g : Nat) (s : State) : Out :=
  .next <|
    let x := s.outGroup da g
    match x.fired with
    | none => s
    | some n =>
      if s.inTick ∧ s.tick = n + 1 ∧ s.pacer.cycle = s.outOffset then
        let s' := s.setOut da g { x with fired := none }
        if x.withheld || !x.fetched || x.poison || !s.gateOk da x.gate n then s'
        else
          match edgeOf da, fabricOf da with
          | some e, _ => s'.applyRecord e g (x.record (s.outLen e g))
          | none, some f => s'.strobeGroup f true g
          | none, none => s'
      else s

/-! ### Sigma-delta channels (R313 to R317) -/

/-- Three integrators run over the modulator bits of a window: bit 1 counts +1, bit 0 counts −1. -/
def SdCh.integrate3 (x : SdCh) : List Bool → SdCh
  | [] => x
  | b :: r =>
    let a := x.i1 + if b then 1 else -1
    let c := x.i2 + a
    { x with i1 := a, i2 := c, i3 := x.i3 + c }.integrate3 r

/-- The three differentiators at the end of a window, and the output. -/
def SdCh.decimate3 (x : SdCh) (now : Nat) : SdCh :=
  let a := x.i3 - x.d1
  let b := a - x.d2
  { x with d1 := x.i3, d2 := a, d3 := b, y := b - x.d3, outs := x.outs + 1, stamp := now, seenBy := [] }

/-- Two integrators and two differentiators: the comparator filter (R317). -/
def SdCh.integrate2 (x : SdCh) : List Bool → SdCh
  | [] => x
  | b :: r =>
    let a := x.c1 + if b then 1 else -1
    { x with c1 := a, c2 := x.c2 + a }.integrate2 r

/-- R312 to R315, R391: the end of the last window of `len` modulator bits of a channel, at most `now`. The windows are counted from
the first bit after arming: the selected clock edge after the restart of the clocks, delayed by DLY. The windows of a tick-locked
main filter end 32 cycles before the tick edges of an unstretched grid. Before the clocks have restarted a window ends at any
time. -/
def State.windowEnd (s : State) (e ch len : Nat) (locked : Bool) (now : Nat) : Option Nat :=
  let cfg := s.chCfg e ch
  let m := s.chDiv e ch
  match (s.edge e).sdcStart with
  | none => some now
  | some t0 =>
    let w := m * len
    let first := if locked then t0 + w + (w - 32)
      else t0 + (if bit cfg 3 then (m + 1) / 2 else 0) + bits cfg 7 4 + w
    if w = 0 ∨ now < first then none else some (first + (now - first) / w * w)

/-- R315: the channel is tick-locked. -/
def State.tickLocked (s : State) (e ch : Nat) : Bool := s.period % (s.chDiv e ch * s.chOsr e ch) == 0

/-- FILTER_OUTPUT: a window of OSR modulator bits ends on a channel whose clock runs. -/
def execFilterOutput (e ch : Nat) (bits_ : List Bool) (s : State) : Out :=
  .next <|
    if e < 4 ∧ ch < 64 ∧ s.pageEn (edgeDA e) pgSdi ∧ s.chOsr e ch ≠ 0 ∧ s.chDiv e ch ≠ 0 ∧ bits_.length = s.chOsr e ch then
      match s.windowEnd e ch (s.chOsr e ch) (s.tickLocked e ch) s.boot.time with
      | some t =>
        if (s.sd e ch).outs = 0 ∨ (s.sd e ch).stamp < t then s.setSd e ch (((s.sd e ch).integrate3 bits_).decimate3 t) else s
      | none => s
    else s

/-- R317: an output counts toward active or inactive; the comparator changes after CNT in a row. -/
def SdCh.compare (x : SdCh) (v hi lo : Int) (cnt : Nat) : SdCh :=
  let out := decide (hi < v) || decide (v < lo)
  let x := if out then { x with outRun := x.outRun + 1, within := 0 } else { x with within := x.within + 1, outRun := 0 }
  if out && decide (cnt ≤ x.outRun) then { x with active := true }
  else if !out && decide (cnt ≤ x.within) then { x with active := false } else x

/-- A comparator window that ended at time `t`: a comparator that becomes active trips its group with CMP_TRIP = 1. -/
def State.compareWindow (s : State) (e ch t : Nat) (bits_ : List Bool) : State :=
  let cfg := s.chCfg e ch
  let x := (s.sd e ch).integrate2 bits_
  let a := x.c2 - x.e1
  let y := a - x.e2
  let x := { x with e1 := x.c2, e2 := a, couts := x.couts + 1, cstamp := t }
  let x' := x.compare y.toInt (sext 32 (s.reg (edgeDA e) pgSdi 0x068 ch)) (sext 32 (s.reg (edgeDA e) pgSdi 0x06C ch))
    (bits cfg 24 22 + 1)
  let s := s.setSd e ch x'
  if x'.active && !x.active && bit cfg 29 then
    (s.flag (edgeDA e) pgSdi 0).tripGroup e (bits cfg 28 25) (0x80 + ch)
  else s

/-- COMPARATOR_OUTPUT: a window of OSRC modulator bits ends. -/
def execComparatorOutput (e ch : Nat) (bits_ : List Bool) (s : State) : Out :=
  .next <|
    if e < 4 ∧ ch < 64 ∧ s.pageEn (edgeDA e) pgSdi ∧ s.chOsrc e ch ≠ 0 ∧ s.chDiv e ch ≠ 0 ∧ bits_.length = s.chOsrc e ch then
      match s.windowEnd e ch (s.chOsrc e ch) false s.boot.time with
      | some t => if (s.sd e ch).couts = 0 ∨ (s.sd e ch).cstamp < t then s.compareWindow e ch t bits_ else s
      | none => s
    else s

/-! ### Generators (R318 to R320) -/

/-- A generator goes on to carrier time `t` at `j` steps of the running core cycle. -/
def State.advanceGen (s : State) (e g t j : Nat) : State :=
  let dt := s.genDt e g
  s.setGen e g ((s.gen e g).advance (bits dt 15 0) (bits dt 31 16) (s.carPeriod e (s.genCar e g)) t (s.stepNow j))

/-- R320, R324: at an update point the pending values become current; a generator that a release has reached since its
group's reset leaves the safe state, its dead time counted from then on. -/
def State.updateGen (s : State) (e g t j : Nat) : State :=
  let x := s.gen e g
  let x := match x.pending with
    | some (on, off, mode) => { x with on := on, off := off, mode := mode, pending := none }
    | none => x
  let x := if x.waitRelease && x.released && !(s.edge e).tripped.getLsbD (s.genSg e g) then
      { x with waitRelease := false, changedAt := s.stepNow j, h := x.ideal t, outH := false, outL := false }
    else x
  (s.setGen e g x).advanceGen e g t j

/-- UPDATE_POINT: carrier `k` reaches t = 0, or t = CP / 2 with UPD_HALF = 1. -/
def execUpdatePoint (e k : Nat) (half : Bool) (s : State) : Out :=
  .next <|
    let t := if half then s.carPeriod e k / 2 else 0
    match (List.range 8).find? fun j => s.carTime e k j == some t with
    | none => s
    | some j =>
      if e < 4 ∧ k < 4 ∧ s.pageEn (edgeDA e) pgPwm ∧ (!half ∨ s.carHalf e k) then
        (List.range 48).foldl (fun s g =>
          if bit (s.genCfg e g) 0 && s.genCar e g == k then s.updateGen e g t j else s) s
      else s

/-- PWM_EDGE: `j` steps into the running core cycle, a generator's carrier reaches ON, OFF or the end of a dead time. -/
def execPwmEdge (e g j : Nat) (s : State) : Out :=
  .next <|
    match s.carTime e (s.genCar e g) j with
    | some t => if e < 4 ∧ g < 48 ∧ j < 8 ∧ s.pageEn (edgeDA e) pgPwm ∧ bit (s.genCfg e g) 0 then s.advanceGen e g t j else s
    | none => s

/-! ### Trips (R322 to R327) -/

/-- R325: FILT of a trip input. -/
def State.tiFilt (s : State) (e n : Nat) : Nat := bits (s.reg (edgeDA e) pgEdg (0x100 + 4 * n)) 15 8

/-- R325: input TIn counts: it trips the groups that name it, and drives its exported line. -/
def State.countInput (s : State) (e n : Nat) : State :=
  let x := s.edge e
  let s := s.setEdge e { x with counted := x.counted ||| BitVec.ofNat 16 (2 ^ n) }
  let s := (List.range 16).foldl (fun s g => if bit (s.sgInputs e g) n then s.tripGroup e g n else s) s
  let r := s.reg (edgeDA e) pgEdg (0x100 + 4 * n)
  if bit r 1 then s.assertLine (bits r 6 2) else s

/-- One sampling edge of an input that is active and has not counted. -/
def State.sampleInput (s : State) (e n : Nat) : State :=
  let x := s.edge e
  let k := tget x.tiRun n 0 + 1
  let s := s.setEdge e { x with tiRun := tput x.tiRun n k }
  if s.tiFilt e n ≤ k then s.countInput e n else s

/-- R325: an input is inactive: it no longer counts, and its count starts again. -/
def EdgeDie.clearInput (x : EdgeDie) (n : Nat) : EdgeDie :=
  { x with counted := x.counted &&& ~~~ BitVec.ofNat 16 (2 ^ n), tiRun := tput x.tiRun n 0 }

/-- An input that its next sampling edge changes: an active one that has not counted, an inactive one that has or was about to. -/
def State.tiChanges (s : State) (e n : Nat) : Bool :=
  let x := s.edge e
  if s.tiActive e n then !x.counted.getLsbD n else x.counted.getLsbD n || tget x.tiRun n 0 != 0

/-- R325: the trip inputs are sampled at every core-cycle edge. -/
def State.sampleInputs (s : State) : State :=
  [0, 1, 2, 3].foldl (fun s e => ((List.range 16).filter (s.tiChanges e)).foldl (fun s n =>
    if s.tiActive e n then s.sampleInput e n else s.setEdge e ((s.edge e).clearInput n)) s) s

/-- The pin of an input takes its active level or the other one. -/
def State.drivePin (s : State) (e n : Nat) (active : Bool) : State :=
  let x := s.edge e
  let high := bit (s.reg (edgeDA e) pgEdg (0x100 + 4 * n)) 0 == active
  let b := BitVec.ofNat 16 (2 ^ n)
  s.setEdge e { x with tiPin := if high then x.tiPin ||| b else x.tiPin &&& ~~~ b }

/-- TRIP_INPUT: input TIn becomes active; without a filter it counts at once, else from the FILT-th sampling edge on. -/
def execTripInput (e n : Nat) (s : State) : Out :=
  .next <|
    if e < 4 ∧ n < 16 then
      let s := s.drivePin e n true
      if s.tiFilt e n = 0 then s.countInput e n else s
    else s

/-- TRIP_INPUT_INACTIVE: the input leaves its active level: without a filter it no longer counts, else from the next sampling edge on at
which it is inactive. -/
def execTripInputInactive (e n : Nat) (s : State) : Out :=
  .next <|
    if e < 4 ∧ n < 16 then
      let s := s.drivePin e n false
      if s.tiFilt e n = 0 then s.setEdge e ((s.edge e).clearInput n) else s
    else s

/-- TRIP_LINE: an asserted trip line trips every group whose mask names it. -/
def execTripLine (k : Nat) (s : State) : Out := .next (if s.lineUp k then s.assertLine k else s)

/-- STOP_N: held low from outside, the pin asserts the stop line. -/
def execStopN (s : State) : Out := .next (s.setPacer { s.pacer with stopExt := true }).assertStop

def execStopNRelease (s : State) : Out := .next (s.setPacer { s.pacer with stopExt := false })

/-- STOP_SOURCE: the input of a declared cell becomes 1 and drives its line, unless the cell is clamped. -/
def execStopSource (f k : Nat) (s : State) : Out :=
  .next <|
    let x := s.trip f k
    if f < 24 ∧ k < 8 ∧ x.declared then
      let s := s.setTrip f k { x with input := true }
      if { x with input := true }.drives then s.assertLine x.line else s
    else s

def execStopSourceRelease (f k : Nat) (s : State) : Out :=
  .next <|
    let x := s.trip f k
    if f < 24 ∧ k < 8 ∧ x.declared then s.setTrip f k { x with input := false } else s

/-- R324: a group leaves its trip; its generators wait for a release, its lane sends one clearing STOP block. -/
def State.untrip (s : State) (e g : Nat) : State :=
  let x := s.edge e
  let s := s.setEdge e { x with tripped := x.tripped &&& ~~~ BitVec.ofNat 16 (2 ^ g) }
  if isLink e then s.insertStop e g (stopBlock false)
  else (List.range 48).foldl (fun s n =>
    if s.genSg e n = g then s.setGen e n { s.gen e n with waitRelease := true, released := false, outH := false, outL := false }
    else s) s

/-- A write of EDG_SG_CMD or DLK_SG_CMD: FORCE trips, RESET clears where no source is asserted (R322 item 6, R324). -/
def State.sgCommand (s : State) (e reset force : Nat) : State :=
  let reset := if s.pageEn (edgeDA e) (sgPage e) then reset else 0
  let x := s.edge e
  let now := if x.forcedAt = s.boot.time then x.forced else 0
  let s := s.setEdge e { x with forcedAt := s.boot.time, forced := now ||| BitVec.ofNat 16 force }
  let s := (members (sgCount e) force).foldl (fun s g => s.tripGroup e g 0x41) s
  (members (sgCount e) reset).foldl (fun s g =>
    if bit force g then s.flag (edgeDA e) (sgPage e) 1
    else if !(s.edge e).tripped.getLsbD g then s
    else if s.sgAsserted e g then s.flag (edgeDA e) (sgPage e) 1
    else s.untrip e g) s

def execSgReset (e : Nat) (mask : BitVec 16) (s : State) : Out := .next (if e < 6 then s.sgCommand e mask.toNat 0 else s)
def execSgForce (e : Nat) (mask : BitVec 16) (s : State) : Out := .next (if e < 6 then s.sgCommand e 0 mask.toNat else s)

/-! ### Encoders (R330) -/

def State.encCfg (s : State) (e n : Nat) : Nat := s.reg (edgeDA e) pgEnc 0x044 n
def State.encTiming (s : State) (e n : Nat) : Nat := s.reg (edgeDA e) pgEnc 0x048 n

/-- Bits of the CRC field code. -/
def encCrcBits (code : Nat) : Nat := match code with | 1 => 5 | 2 => 6 | 3 => 8 | _ => 0

/-- The number of bits of a read. -/
def encBits (cfg : Nat) : Nat := bits cfg 19 14 + bits cfg 23 21 + boolNat (bit cfg 26) + encCrcBits (bits cfg 25 24)

/-- A number from bits, most significant first. -/
def msbNat (l : List Bool) : Nat := l.foldl (fun a b => 2 * a + boolNat b) 0

/-- Gray code to binary: each bit is the exclusive OR of the bits from the top down to it. -/
def grayDecode : Bool → List Bool → List Bool
  | _, [] => []
  | p, b :: r => (p != b) :: grayDecode (p != b) r

/-- The pin ENC_CK of a port (R329, R330, R440): 0 low, 1 high, 2 high-impedance, 3 undriven. The level during the clocked bits: low in the first half
of each period from the latch edge on; of an abandoned read low for the core cycle of the latch edge (notes/assumptions/229.md). -/
def State.encPin (s : State) (e n : Nat) : Nat :=
  let x := s.enc e n
  let m := bits (s.encCfg e n) 13 0
  if !s.pinsDriven e then s.floating
  else if x.abandoned = some s.boot.time ∧ !s.boot.closing then 0
  else if x.busy ∧ !s.boot.closing ∧ s.boot.time < x.started + encBits (s.encCfg e n) * m ∧ (s.boot.time - x.started) % m < m / 2 then 0 else 1

/-- R330: the core cycles of a read: its clock periods, and DLY cycles after the last rising edge. -/
def State.encCycles (s : State) (e n : Nat) : Nat :=
  let m := bits (s.encCfg e n) 13 0
  let k := encBits (s.encCfg e n)
  max (k * m) ((k - 1) * m + m / 2 + bits (s.encTiming e n) 7 0)

/-- R330: a read of a port lasts longer than the time from one trigger to the next. -/
def State.encOverlaps (s : State) (e n : Nat) : Bool :=
  decide (2 ^ bits (s.reg (edgeDA e) pgEnc 0x04C n) 2 0 * s.period < s.encCycles e n)

/-- ENCODER_TRIGGER: at local cycle TRIG of a selected tick the port drives its latch edge; `dt` is the level of ENC_DT. -/
def execEncoderTrigger (e n : Nat) (dt : Bool) (s : State) : Out :=
  .next <|
    let sched := s.reg (edgeDA e) pgEnc 0x04C n
    let cfg := s.encCfg e n
    if e < 4 ∧ n < 16 ∧ s.pageEn (edgeDA e) pgEnc ∧ s.inTick ∧ bits cfg 13 0 ≠ 0 ∧ s.tick % 2 ^ bits sched 2 0 = bits sched 9 3 ∧
        s.pacer.cycle = bits (s.encTiming e n) 31 16 then
      let x := s.enc e n
      if s.encOverlaps e n ∨ x.busy ∨ s.boot.time < x.mono then s.setEnc e n { x with skipped := true }
      else
        if dt then s.setEnc e n { x with busy := true, ts := s.pacer.cycle, started := s.boot.time }
        else (s.setEnc e n { x with ts := s.pacer.cycle, abandoned := some s.boot.time, stat := setBit x.stat 7 }).flag (edgeDA e) pgEnc 0
    else s

/-- ENCODER_READ_DONE: the bits of the read, in order of arrival: position, status, parity, CRC. -/
def execEncoderReadDone (e n : Nat) (bits_ : List Bool) (s : State) : Out :=
  .next <|
    let cfg := s.encCfg e n
    let x := s.enc e n
    if x.busy ∧ s.pageEn (edgeDA e) pgEnc ∧ bits_.length = encBits cfg ∧
        x.started + s.encCycles e n ≤ s.boot.time then
      let nb := bits cfg 19 14
      let ns := bits cfg 23 21
      let nc := encCrcBits (bits cfg 25 24)
      let raw := bits_.take nb
      let body := bits_.take (nb + ns)
      let rest := bits_.drop (nb + ns)
      let pos := msbNat (if bit cfg 20 then grayDecode false raw else raw)
      let parErr := bit cfg 26 && (body ++ rest.take 1).foldl (· != ·) false
      let poly := s.reg (edgeDA e) pgEnc 0x050 n
      let crc := body.foldl (fun c b => crcStep nc (bits poly 7 0 % 2 ^ nc) c b) 0
      let want := if bit poly 8 then 2 ^ nc - 1 - crc else crc
      let crcErr := nc != 0 && msbNat (rest.drop (boolNat (bit cfg 26))) != want
      let bad := parErr || crcErr
      let stat := msbNat ((bits_.drop nb).take ns) + 2 ^ 4 * boolNat (!bad) + 2 ^ 5 * boolNat crcErr + 2 ^ 6 * boolNat parErr
      let s := s.setEnc e n { x with
        busy := false, readTs := x.ts, pos := if bad then x.pos else pos, stat := stat, skipped := false, seenBy := [],
        mono := s.boot.time + bits (s.encTiming e n) 15 8 * bits cfg 13 0 }
      if bad then s.flag (edgeDA e) pgEnc 0 else s
    else s

end Sys2Proof.Machine
end

