-- ==== Sys2Proof/Machine/LdgOps.lean ====
section
/-! DEFINITION. The Ledger (R405 to R410): records, charges, retirements, and the placement of auditors (R398). -/

namespace Sys2Proof.Machine

/-! ### Adaptive layers (R191) -/

/-- After a flip the layer is no longer ready, and a waiting proposal is transferred. -/
def Layer.settle (l : Layer) : Layer :=
  { l with ready := false, transfer := l.waiting, waiting := none, doneA := false, doneB := false }

/-- The flips of a clearing are over at the tick edge; a restart takes them back with the state ranges (R389). -/
def State.endFlips (s : State) (kept : Bool) : State :=
  s.setKeeper { s.keeper with layers := s.keeper.layers.map fun l =>
    if l.doneA || l.doneB then (if kept then l.settle else { l with doneA := false, doneB := false }) else l }

/-! ### Units (R405) -/

def refDA (ref : Nat) : Nat := ref / 2 ^ 24 % 2 ^ 8
def refKind (ref : Nat) : Nat := ref / 2 ^ 16 % 2 ^ 8
def refInst (ref : Nat) : Nat := ref % 2 ^ 16

/-- R446: an analogue block that a die has. -/
def analogueOk (da i : Nat) : Bool :=
  decide (i < 3) || (decide (3 ≤ i) && decide (i < 7) && (linkAt da (i - 3)).isSome) ||
  match dieKind da with
  | some .memory => i == 8 || i == 9
  | some .driveEdge => i == 8 || i == 9 || i == 10
  | some .linkEdge => decide (8 ≤ i) && decide (i < 16)
  | some .pcie => i == 8
  | some .tsnEdge => decide (8 ≤ i) && decide (i < 12)
  | some .fabric => i == 8 || i == 9
  | some .pacer => i == 8
  | _ => false

/-- R380: a REF names a unit of the part. -/
def validRef (ref : Nat) : Bool :=
  let da := refDA ref
  let n := refInst ref
  match dieKind da with
  | none => false
  | some k =>
    match refKind ref with
    | 0x01 => k == .tile && decide (n < 36)
    | 0x02 => k == .tile && decide (n < 9)
    | 0x03 => k == .tile && decide (n < 32)
    | 0x04 => k == .tile && n == 0
    | 0x05 => n == 0
    | 0x06 => decide (n < 512) && decide (n % 128 < 68) && (linkAt da (n / 128)).isSome
    | 0x07 => k == .memory && decide (n < 160)
    | 0x08 => k == .memory && decide (n < 2)
    | 0x09 => k == .fabric && decide (n < 264)
    | 0x0A => k == .fabric && decide (n < 2400)
    | 0x0B => k == .fabric && decide (n < 16)
    | 0x0C => n == 0
    | 0x0D => analogueOk da n
    | _ => false

/-- The record of a unit. Units of a retired die are retired with it. -/
def State.ledRec (s : State) (ref : Nat) : LedgerRec :=
  let r := tget s.keeper.records ref {}
  if dieKind (refDA ref) = some .tile ∧ s.place.dieState (tileOfDA (refDA ref)) = 2 ∧ r.state ≠ 3 then
    { r with state := 3, cause := 5 }
  else r

def State.setRec (s : State) (ref : Nat) (r : LedgerRec) : State :=
  s.setKeeper { s.keeper with records := tput s.keeper.records ref r }

/-! ### Placement (R16, R17, R21, R23) -/

def State.setPlace (s : State) (p : Placement) : State := s.setKeeper { s.keeper with place := p }

/-- R23: GEN advances before and after a change of the map. -/
def State.changePlace (s : State) (f : Placement → Placement) : State :=
  s.setPlace { f s.place with gen := (s.place.gen + 2) % 2 ^ 32 }

/-- The core that a LEDGER_REF of kind 0x01 or 0x02 names: tile die and physical core. -/
def refCore (ref : Nat) : Nat × Nat :=
  (tileOfDA (refDA ref), if refKind ref = 0x01 then refInst ref / 4 else refInst ref)

/-- R16: a core's retirement in the map: its role becomes retired, and the spare takes its logical index. -/
def Placement.retireCore (p : Placement) (t c : Nat) : Placement :=
  let k := p.roleOf t c
  let p' := { p with role := tput p.role (coreKey t c) 14 }
  match p.spare t with
  | some sp => if sp = c then p' else { p' with role := tput p'.role (coreKey t sp) k }
  | none => p'

/-- R17: the reserve die nearest to a die, the lower index of two. -/
def Placement.reserveFor (p : Placement) (t : Nat) : Option Nat :=
  let l := allTiles.filter fun r => p.dieState r == 0 && r != t
  l.foldl (fun best r => match best with
    | none => some r
    | some b => if hopDist (tileDA t) (tileDA r) < hopDist (tileDA t) (tileDA b) then some r else some b) none

/-- R243: the links and routers whose failure the verification covers, and none. -/
def failures : List (Option Nat) := none :: ((List.range 180).map some ++ allDAs.map fun da => some (256 + da))

/-- R21, R55 item 6, R243: every network bound of the loaded image holds under a binding of the logical dies, whichever link or router
fails, or has failed (notes/assumptions/9.md). -/
def State.networkUnder (s : State) (dies : List (Option Nat)) : Bool :=
  failures.all fun bad => Config.networkOk s.keeper.digests dies (s.net.failedLink.orElse fun _ => bad)

/-- The die that a logical die has, or that it is to have once its reserve load has rejoined. -/
def State.boundDie (s : State) (n : Nat) : Option Nat :=
  (s.physDie n).orElse fun _ => (s.keeper.reserveLoads.find? fun x => x.1 == n).map (·.2)

/-- The logical die of a die: the one that it carries, or the one whose reserve load it awaits. -/
def State.dieHolds (s : State) (t : Nat) : Option Nat :=
  (s.place.logical t).orElse fun _ => (s.keeper.reserveLoads.find? fun x => x.2 == t).map (·.1)

/-- R21: items 6 and 11 of R55 hold of the loaded image with logical die `n` on die `r` and every earlier substitution. -/
def State.bindingOk (s : State) (n r : Nat) : Bool :=
  let dies := (List.range 56).map fun k => if k = n then some r else s.boundDie k
  s.keeper.named.all (fun k => (dies.getD k none).isSome) && s.networkUnder dies

/-- R17, R21, R396, R397: a tile die is retired as a whole. Its logical die is unbound. Where a reserve die remains, and
for a second substitution the Keeper's check passes, that die enters service: it is bound at once while the tick is
disarmed, and its load is awaited otherwise. A die that is retired while its own load is awaited gives its logical die up to another. -/
def State.retireDie (s : State) (t : Nat) : State :=
  let p := s.place
  if p.dieState t = 2 then s
  else
    let s := s.changePlace fun p => { p with state := tput p.state t 2 }
    match s.dieHolds t with
    | none => s
    | some n =>
      let s := s.setPlace { s.place with dieOf := tput s.place.dieOf n none, unjoined := s.place.unjoined.filter fun k => k / 16 != n }
      let s := s.setKeeper { s.keeper with reserveLoads := s.keeper.reserveLoads.filter fun x => x.1 != n }
      match (p.reserveFor t).filter fun r => s.keeper.substitutions == 0 || s.bindingOk n r with
      | none => s.setKeeper { s.keeper with lost := s.keeper.lost ++ [(n, t)] }
      | some r =>
        let s := s.setPlace { s.place with
          state := tput s.place.state r 1,
          dieOf := if s.disarmed then tput s.place.dieOf n (some r) else s.place.dieOf }
        s.setKeeper { s.keeper with
          substitutions := s.keeper.substitutions + 1,
          reserveLoads := if s.disarmed then s.keeper.reserveLoads else s.keeper.reserveLoads ++ [(n, r)] }

/-- The usable cores of a die that carry, or may carry, a logical core. -/
def Placement.usable (p : Placement) (t : Nat) : Nat := ((List.range 9).filter fun c => p.roleOf t c != 14).length

/-- R16, R17: a core is retired; a die with fewer than 8 usable cores is retired with it, and keeps its core's role (R23). -/
def State.retireCore (s : State) (t c : Nat) : State :=
  if s.place.roleOf t c = 14 ∨ s.place.dieState t = 2 then s
  else if s.place.usable t ≤ 8 then (s.setPlace (s.place.retireCore t c)).retireDie t
  else s.changePlace fun p => p.retireCore t c

/-! ### Retirement (R410) -/

/-- Event 0x06 (R343). -/
def State.retiredEvent (s : State) (ref : Nat) : State :=
  s.event { code := 0x06, src := refDA ref, unit := 0, tick := s.tickWord, w2 := BitVec.ofNat 32 ref }

/-- The record of a unit says retired, and the event is sent. -/
def State.markRetired (s : State) (ref : Nat) : State :=
  (s.setRec ref { s.ledRec ref with state := 3 }).retiredEvent ref

/-- R278: a DRAM device is spared where its subchannel and rank have spared none; the Ledger keeps the sparing record. -/
def State.spareDevice (s : State) (ref : Nat) : State :=
  if s.keeper.spares.any fun x => x.1 == refDA ref && x.2 / 10 == refInst ref / 10 then s
  else s.setKeeper { s.keeper with spares := s.keeper.spares ++ [(refDA ref, refInst ref)] }

/-- R255, R257: the link at a receive side retrains, and its router counts it. The receive side of port p of a die is keyed
4·DA + p. -/
def State.startRetrain (s : State) (da port : Nat) : State :=
  let key := 4 * da + port
  if s.net.retraining.contains key then s
  else ((s.setNet { s.net with retraining := nadd s.net.retraining key }).incReg da pgNoc (0x080 + 4 * port)).flag da pgNoc 1

/-- R255, R410: an unusable lane: its link direction retrains. -/
def State.dropLane (s : State) (ref : Nat) : State :=
  (s.setKeeper { s.keeper with unusable := s.keeper.unusable ++ [(refDA ref, 0x60000 + refInst ref)] }).startRetrain (refDA ref) (refInst ref / 128)

/-- R410: a unit that has become retirement pending, of a kind whose retirement takes effect at once. -/
def State.retireAtOnce (s : State) (ref : Nat) : State :=
  match refKind ref with
  | 0x06 => (s.dropLane ref).markRetired ref
  | 0x07 => (s.spareDevice ref).markRetired ref
  | 0x08 => s.markRetired ref
  | 0x0B => s.markRetired ref
  | _ => s

/-- R410: a pending retirement is applied. -/
def State.retireUnit (s : State) (ref : Nat) : State :=
  if (s.ledRec ref).state ≠ 2 then s
  else
    let t := tileOfDA (refDA ref)
    let tile := decide (dieKind (refDA ref) = some .tile)
    let s := s.markRetired ref
    match refKind ref with
    | 0x01 => s.retireCore t (refInst ref / 4)
    | 0x02 => s.retireCore t (refInst ref)
    | 0x03 => s.retireDie t
    | 0x04 => s.retireDie t
    | 0x05 => if tile then s.retireDie t else s
    | 0x0C => if tile then s.retireDie t else s
    | 0x0D =>
      let s := s.setKeeper { s.keeper with unusable := s.keeper.unusable ++ [(refDA ref, 0xD0000 + refInst ref)] }
      if tile && decide (refInst ref < 2) then s.retireDie t else s
    | _ => s

/-- The units that are retirement pending, in increasing REF. -/
def State.pendingRefs (s : State) : List Nat :=
  (s.keeper.records.filter fun x => decide ((s.ledRec x.1).state = 2)).map (·.1)

/-- R393, R409: pending retirements that a restart or a planned stretch may apply: of cores and dies, and at a restart
none by aging. -/
def State.pendingUnits (s : State) (aging : Bool) : List Nat :=
  s.pendingRefs.filter fun r => decide (refKind r ≤ 5 ∨ refKind r = 0x0C) && (aging || (s.ledRec r).cause != 4)

/-- R409, R410: a retirement by aging waits for a maintenance stop or a load, also where its kind takes effect at once. -/
def State.agedUnits (s : State) : List Nat := s.pendingRefs.filter fun r => [0x06, 0x07, 0x08, 0x0B].contains (refKind r)

def State.retireAged (s : State) : State := s.agedUnits.foldl (fun s r => s.retireAtOnce r) s

/-! ### Charges (R380, R407, R408) -/

/-- R408: the service tick of a charge's TICK. -/
def State.serviceTick (s : State) (tick32 : Nat) : Nat :=
  let back := (s.tick + 2 ^ 32 - tick32 % 2 ^ 32) % 2 ^ 32
  if back ≤ s.tick then s.keeper.base + (s.tick - back) else s.keeper.base

def sat16 (n : Nat) : Nat := min 0xFFFF n

def noLoc : Nat := 0xFFFFFFFF

/-- R407: a confirmed charge in a record: counts, the last two ticks and locations, and STATE with CAUSE. -/
def LedgerRec.confirm (r : LedgerRec) (tick loc : Nat) : LedgerRec :=
  let byCount := match r.tick2 with | some x => decide (tick - x < 2 ^ 24) | none => false
  let byLoc := loc != noLoc && (loc == r.loc1.toNat || loc == r.loc2.toNat)
  let r' := { r with
    conf := sat16 (r.conf + 1), tick2 := r.tick1, tick1 := some tick, loc2 := r.loc1, loc1 := BitVec.ofNat 32 loc }
  if byLoc || byCount then (if r.state < 2 then { r' with state := 2, cause := if byLoc then 2 else 1 } else r')
  else if r.state = 0 then { r' with state := 1 } else r'

/-- R380, R407: the record after a charge. Lanes and DRAM devices count their corrected charges as confirmed. -/
def LedgerRec.charge (r : LedgerRec) (kind ckind tick loc : Nat) : LedgerRec :=
  if ckind = ckConfirmed ∨ (ckind = ckCorrected ∧ (kind = 0x06 ∨ kind = 0x07)) then r.confirm tick loc
  else if ckind = ckSuspect then { r with susp := sat16 (r.susp + 1) }
  else if ckind = ckCorrected then { r with corr := min (2 ^ 32 - 1) (r.corr + 1) }
  else if r.state < 2 then { r with state := 2, cause := 3 } else r

/-- R414: the log keeps the last 65,536 entries, newest first. -/
def State.logCharge (s : State) (e : LogEnt) : State :=
  let k := s.keeper
  s.setKeeper { k with log := (e :: k.log).take 65536, logCnt := (k.logCnt + 1) % 2 ^ 32 }

/-- R380: a charge reaches the Ledger. -/
def State.applyCharge (s : State) (ref ckind fkind loc tick32 : Nat) : State :=
  let t := s.serviceTick tick32
  let s := s.logCharge { ref := BitVec.ofNat 32 ref, ckind := ckind, fkind := fkind, tick := t, loc := BitVec.ofNat 32 loc }
  let r := s.ledRec ref
  if !validRef ref || r.state == 3 then s
  else
    let r' := r.charge (refKind ref) ckind t loc
    let s := s.setRec ref r'
    if r.state < 2 ∧ r'.state = 2 then s.retireAtOnce ref else s

/-! ### Auditors (R398) -/

/-- R398: the dies that have an auditor of their own. -/
def Placement.auditors (p : Placement) : List Nat :=
  allTiles.filter fun t => p.dieState t == 1 && (p.spare t).isSome

/-- R398: adopted dies with their adopters: dies without an auditor in increasing order, each with the nearest auditor
that has not adopted yet. -/
def Placement.adopt (auds : List Nat) : List Nat → List (Nat × Nat)
  | [] => []
  | d :: r =>
    let best := auds.foldl (fun (b : Option Nat) a => match b with
      | none => some a
      | some x => if hopDist (tileDA d) (tileDA a) < hopDist (tileDA d) (tileDA x) then some a else some x) none
    match best with
    | none => []
    | some a => (d, a) :: Placement.adopt (auds.filter (· != a)) r

def Placement.adoptions (p : Placement) : List (Nat × Nat) :=
  Placement.adopt p.auditors (allTiles.filter fun t => p.dieState t == 1 && (p.spare t).isNone)

/-- The die that audits a die: itself, its adopter, or none. -/
def Placement.auditorOf (p : Placement) (t : Nat) : Option Nat :=
  if (p.spare t).isSome then some t else ((p.adoptions.find? fun x => x.1 == t).map (·.2))

/-- The die that an auditor has adopted. -/
def Placement.adoptedBy (p : Placement) (t : Nat) : Option Nat := (p.adoptions.find? fun x => x.2 == t).map (·.1)

/-- R54, R401: class 2 escrow of a die is due in a tick. -/
def State.escrow2Due (s : State) (t tick : Nat) : Bool :=
  if (s.place.spare t).isNone && (s.place.auditorOf t).isSome then tick % 16 == 15 else tick % 8 == 7

end Sys2Proof.Machine
end

