-- ==== Sys2Proof/Machine/JobOps.lean ====
section
/-! DEFINITION. State ranges and their escrow (R386, R401, R402, R412, R443), rollback and revocation (R401, R344), the
program table (R360), and restore images (R412, R390). -/

namespace Sys2Proof.Machine

/-! ### State ranges and generations -/

/-- AUD_SRANGE or AUD_ERANGE of a physical core: first byte and granules. -/
def State.stateRange (s : State) (t c : Nat) (cls2 : Bool) : Nat × Nat :=
  let w := s.reg (tileDA t) pgAud ((if cls2 then 0x0A4 else 0x080) + 4 * c)
  (32 * bits w 14 0, if cls2 then bits w 28 16 else bits w 26 16)

/-- R412, R401: the die-store byte at which generation `j` of logical core `k` begins. -/
def State.genAddr (s : State) (t k : Nat) (cls2 : Bool) (j : Nat) : Nat :=
  if cls2 then s.reg (tileDA t) pgAud 0x0C8 % 2 ^ 10 * 0x10000 + (2 * k + j) * 0x40000
  else 0x2E80000 + 0x20000 * k + 0x10000 * j

def escKey (t k : Nat) (cls2 : Bool) : Nat := 32 * t + 2 * k + boolNat cls2
def State.esc (s : State) (t k : Nat) (cls2 : Bool) : Escrow := tget s.escrow (escKey t k cls2) {}
def State.setEsc (s : State) (t k : Nat) (cls2 : Bool) (v : Escrow) : State :=
  { s with escrow := tput s.escrow (escKey t k cls2) v }

def Escrow.cur (x : Escrow) : Nat := boolNat x.current
def Escrow.ok (x : Escrow) (j : Nat) : Bool := if j = 0 then x.ok0 else x.ok1
def Escrow.tickOf (x : Escrow) (j : Nat) : Option Nat := if j = 0 then x.tick0 else x.tick1

/-- Generation `j` written in a tick; it is not a confirmed one until an edge makes it so. -/
def Escrow.written (x : Escrow) (tick : Nat) : Escrow :=
  let x := { x with pend := some tick, committed := true }
  if x.current then { x with ok0 := false } else { x with ok1 := false }

/-- R386: the written generation becomes current. -/
def Escrow.confirm (x : Escrow) : Escrow :=
  match x.pend with
  | none => x
  | some n =>
    if !x.committed then { x with pend := none }
    else if x.current then { x with current := false, pend := none, committed := false, ok0 := true, tick0 := some n }
    else { x with current := true, pend := none, committed := false, ok1 := true, tick1 := some n }

/-- A generation that is not confirmed is dropped. -/
def Escrow.drop (x : Escrow) : Escrow := { x with pend := none, committed := false }

/-- R443: both generations loaded, generation 0 current. -/
def Escrow.loaded : Escrow :=
  { current := false, pend := none, committed := false, ok0 := true, ok1 := true, tick0 := none, tick1 := none }

/-- R402: the poisoned granules of a class 2 state range take their values of the current generation, `n` granules on
from granule `i`; the count of the replaced is added up. -/
def State.cleanRange (s : State) (t c base gen : Nat) : Nat → Nat → State × Nat
  | _, 0 => (s, 0)
  | i, n + 1 =>
    if s.psn .core (coreKey t c) (base + 32 * i) then
      let r := (s.copyGrans .die .core t (coreKey t c) (gen + 32 * i) (base + 32 * i) 1).cleanRange t c base gen (i + 1) n
      (r.1, r.2 + 1)
    else s.cleanRange t c base gen (i + 1) n

/-- R386: the granules of the class 0/1 state range of a core that were written since generation `j` was last written. -/
def State.dirty (s : State) (t c j : Nat) : List Nat :=
  let (base, n) := s.stateRange t c false
  let g := gGran .core (coreKey t c) base
  (if j = 0 then s.dirty0 else s.dirty1).filter fun x => decide (g ≤ x) && decide (x < g + n)

/-- R386: generation `j` of a core is written: none of its granules has been written since. -/
def State.wroteGen (s : State) (t c j : Nat) : State :=
  let l := s.dirty t c j
  if j = 0 then { s with dirty0 := s.dirty0.filter fun x => !l.contains x }
  else { s with dirty1 := s.dirty1.filter fun x => !l.contains x }

/-- R386, R401: a commit: the state range of logical core `k`, carried by physical core `c`, is copied into the generation
that is not current. Every granule written since that generation was last written is copied; the others hold there what they held,
so that the whole range is. -/
def State.commitRange (s : State) (t c k : Nat) (cls2 : Bool) : State :=
  let x := s.esc t k cls2
  let (base, n) := s.stateRange t c cls2
  let s := if cls2 then
      let r := s.cleanRange t c base (s.genAddr t k true x.cur) 0 n
      r.1.incReg (tileDA t) pgAud 0x050 r.2
    else s.arbWait t 0
  let s := s.copyGrans .core .die (coreKey t c) t base (s.genAddr t k cls2 (1 - x.cur)) n
  let s := if cls2 then s else s.wroteGen t c (1 - x.cur)
  s.setEsc t k cls2 (x.written s.tick)

/-- The state range of a core is restored from generation `j`. -/
def State.restoreRange (s : State) (t c k : Nat) (cls2 : Bool) (j : Nat) : State :=
  let (base, n) := s.stateRange t c cls2
  s.copyGrans .die .core t (coreKey t c) (s.genAddr t k cls2 j) base n

/-- R386: at a tick edge every generation written is confirmed, or every one is dropped. -/
def State.endGens (s : State) (confirm : Bool) : State :=
  { s with escrow := s.escrow.map fun x => (x.1, if confirm then x.2.confirm else x.2.drop) }

/-- R444: the next tick is numbered 0: the generations held predate it. -/
def State.ageGens (s : State) : State :=
  { s with escrow := s.escrow.map fun x => (x.1, { x.2 with tick0 := none, tick1 := none }) }

/-! ### Rollback (R401) -/

/-- R182, R222: a job restart or a rollback empties the holding places of a core. -/
def State.emptyHolding (s : State) (t c : Nat) : State :=
  s.updDisp t c fun d => { d with
    ret := none, steal := [], staged := none, ready := false, park := none, resume := false }

/-- R401: the generation that a rollback restores: the older confirmed one after an audit mismatch, where there is one, and
the newer, the current one, otherwise. -/
def Escrow.rollbackGen (x : Escrow) (older : Bool) : Nat :=
  if older && x.ok (1 - x.cur) then 1 - x.cur else x.cur

/-- R344: FIRST of a revocation, the tick after the commit of the restored generation. -/
def Escrow.first (x : Escrow) (j : Nat) : Nat := match x.tickOf j with | some n => n + 1 | none => 0

/-- R344: a revocation event. -/
def State.revoke (s : State) (src unit first reason : Nat) : State :=
  let count := s.tick + 1 - first
  s.event { code := evRevoke, src := src, unit := unit, tick := s.tickWord, w2 := BitVec.ofNat 32 first,
            w3 := BitVec.ofNat 32 (count % 2 ^ 16 + reason * 2 ^ 16), w4 := BitVec.ofNat 32 (first / 2 ^ 32) }

/-- R401: the class 2 state of a physical core is rolled back: its state range, its holding places; a generation that
awaits its edge is dropped. -/
def State.rollbackCore (s : State) (t c k : Nat) (older : Bool) : State × Nat :=
  let x := s.esc t k true
  let j := x.rollbackGen older
  let s := s.restoreRange t c k true j
  let s := s.setEsc t k true { x with committed := false }
  (s.emptyHolding t c, x.first j)

/-- R401, R344: the rollback of one core, with its revocation. -/
def State.rollback (s : State) (t c reason : Nat) : State :=
  let k := s.place.roleOf t c
  match s.place.logical t with
  | none => s
  | some n =>
    if 8 ≤ k then s
    else
      let r := s.rollbackCore t c k (decide (reason = 1))
      r.1.revoke n k r.2 reason

/-- The cores of a die that carry a logical core, with it. -/
def Placement.carriers (p : Placement) (t : Nat) : List (Nat × Nat) :=
  ((List.range 9).filter fun c => decide (p.roleOf t c < 8)).map fun c => (c, p.roleOf t c)

/-- R401: FIRST of the one revocation of a job restart: the smallest of the cores'. -/
def State.restartFirst (s : State) : Nat :=
  let all := s.inService.flatMap fun t => (s.place.carriers t).map fun ck =>
    let x := s.esc t ck.2 true
    x.first x.cur
  match all with
  | [] => 0
  | a :: r => r.foldl min a

/-! ### The program table (R360) -/

/-- A program header from its 64 bytes. -/
def progOf (b : List Byte) : ProgHdr :=
  let w := fun i => word32At b (4 * i)
  { cls := bits (w 0) 9 8, skip := bit (w 0) 10, double := bit (w 0) 11, entry := BitVec.ofNat 17 (w 1),
    seed := BitVec.ofNat 32 (w 2), cgroup := bits (w 3) 15 0, wcet := w 4, span := bits (w 5) 15 0, coins := w 6,
    codeLen := w 7, netPkts := w 8, dramB := w 9 }

/-- A program header as 64 bytes, with its index. -/
def ProgHdr.bytes (p : ProgHdr) (i : Nat) : List Byte :=
  let w0 := i % 256 + 256 * p.cls + 2 ^ 10 * boolNat p.skip + 2 ^ 11 * boolNat p.double
  [w0, p.entry.toNat, p.seed.toNat, p.cgroup, p.wcet, p.span, p.coins, p.codeLen, p.netPkts, p.dramB,
    0, 0, 0, 0, 0, 0].flatMap fun v => leBytes 4 v

/-- A program that no segment supplies: an empty one. -/
def ProgHdr.none : ProgHdr :=
  { cls := 0, skip := false, double := false, entry := 0, seed := 0, cgroup := 0xFFFF, wcet := 0, span := 0, coins := 0,
    codeLen := 0, netPkts := 0, dramB := 0 }

def State.prog (s : State) (t c i : Nat) : ProgHdr := tget (s.core t c).programs i ProgHdr.none

/-! ### Restore images (R412, R390) -/

def restoreBase (k : Nat) : Nat := 0x2C00000 + 0x50000 * k

/-- The granules of the class 0 and class 1 windows of a core less its state range, by byte address, in order. -/
def State.imageGrans (s : State) (t c : Nat) : List Nat :=
  let (b, n) := s.stateRange t c false
  let out := fun a => decide (a < b) || decide (b + 32 * n ≤ a)
  [0, 1].flatMap fun cls =>
    let (w, z) := s.window t c cls
    ((List.range (z / 32)).map fun i => w + 32 * i).filter out

/-- Granules copied one by one between a core store and consecutive granules of the die store. -/
def State.copyList (s : State) (t c : Nat) (toDie : Bool) : Nat → List Nat → State
  | _, [] => s
  | d, a :: r =>
    (if toDie then s.copyGrans .core .die (coreKey t c) t a d 1 else s.copyGrans .die .core t (coreKey t c) d a 1).copyList
      t c toDie (d + 32) r

/-- R412: the restore image of logical core `k` is written from the core that carries it. -/
def State.writeRestoreImage (s : State) (t c k : Nat) : State :=
  let b := restoreBase k
  let s := s.copyGrans .vis .die (coreKey t c) t 0 b 1024
  let s := s.copyGrans .fdesc .die (coreKey t c) t 0 (b + 0x8000) 2048
  let s := s.writeAll .die t (b + 0x18000) ((List.range 256).flatMap fun i => (s.prog t c i).bytes i) false
  s.copyList t c true (b + 0x1C000) (s.imageGrans t c)

/-- The registers that the image sets for a core: page within the core's pages, offset. -/
def coreSettings : List (Nat × Nat) :=
  [(0, 0x060), (0, 0x064), (0, 0x068), (0, 0x06C), (0, 0x00C), (1, 0x00C), (2, 0x040), (2, 0x048), (2, 0x04C), (2, 0x050),
   (2, 0x00C), (3, 0x040), (3, 0x00C)]

/-- R390, R394: physical core `sp` of a die takes the restore image of logical core `k`: its instruction and descriptor stores,
its program table, and its class 0 and class 1 windows. -/
def State.spareImage (s : State) (t sp k : Nat) : State :=
  let b := restoreBase k
  let s := s.copyGrans .die .vis t (coreKey t sp) b 0 1024
  let s := s.copyGrans .die .fdesc t (coreKey t sp) (b + 0x8000) 0 2048
  let s := s.updCore t sp fun x => { x with
    programs := ((List.range 256).map fun i => (i, progOf (s.bytesAt .die t (b + 0x18000 + 64 * i) 64))) }
  s.copyList t sp false (b + 0x1C000) (s.imageGrans t sp)

/-- R390: the spare steps: page settings from the core record, the restore image, the programs. `c` is the core whose
logical index `k` the spare `sp` takes over. -/
def State.spareCopy (s : State) (t c sp k : Nat) : State :=
  let da := tileDA t
  let s := coreSettings.foldl (fun s x =>
    s.setReg da (pgSeq sp + x.1) x.2 (s.reg da (pgSeq c + x.1) x.2)) s
  let s := [0x080, 0x0A4].foldl (fun s o => s.setReg da pgAud (o + 4 * sp) (s.reg da pgAud (o + 4 * c))) s
  s.spareImage t sp k

/-- R443: at the commit of a load both generations of every core of a die are written from the image's state. -/
def State.loadGens (s : State) (t c k : Nat) : State :=
  [false, true].foldl (fun s cls2 =>
    let (base, n) := s.stateRange t c cls2
    let s := [0, 1].foldl (fun s j => s.copyGrans .core .die (coreKey t c) t base (s.genAddr t k cls2 j) n) s
    let s := if cls2 then s else (s.wroteGen t c 0).wroteGen t c 1
    s.setEsc t k cls2 Escrow.loaded) s

/-! ### The end of a job (R389) -/

/-- R389: what the restart strobe ends on a core: every program and task, every stream, the sequencer, quad and vector
state of classes 0 and 1, and the holding places. -/
def State.stopCore (s : State) (t c : Nat) : State :=
  let s := if (s.bank t c 2).active then s.endClass2 t c else s
  let s := s.cancelStreams t c fun _ => true
  let s := [0, 1].foldl (fun s cls =>
    let s := (s.dropQuad t c cls).stopLaunches t c cls
    s.updBank t c cls fun b => { ({} : Bank) with astat := b.astat }) s
  (s.updCore t c Core.reissue).emptyHolding t c

def State.stopTile (s : State) (t : Nat) : State := (List.range 9).foldl (fun s c => s.stopCore t c) s

end Sys2Proof.Machine
end

