-- ==== Sys2Proof/Machine/PowerOps.lean ====
section
/-! DEFINITION. The reset of dies (R367, R428, R435, R451) and the shutdown for temperature or supply (R428). -/

namespace Sys2Proof.Machine

/-- The dies that a refused load or a thermal shutdown leaves running: the Keeper, the Pacer and E6. -/
def keptDA (da : Nat) : Bool := da == keeperDA || da == pacerDA || da == pcieDA

/-- The die of a register. -/
def keyDA (key : Nat) : Nat := key / 2 ^ 32

/-- The store of a byte address among all stores. -/
def addrSp (a : Nat) : Nat := a / 2 ^ 64 / 2 ^ 16

/-- Stores that a reset of dies leaves: host memory and flash. -/
def keptSp (sp : Nat) : Bool := sp == Sp.host.code || sp == Sp.flash.code

/-! ### Training of the links (R254, R437) -/

/-- R254: the lanes of a receive side that fail: those that the Ledger marks unusable, and those whose eye margin, which the test
measures (free), lies below the threshold that the Ledger holds for the lane. -/
def State.failingLanes (s : State) (da p : Nat) : List Nat :=
  (List.range 68).filter fun l => s.keeper.unusable.contains (da, 0x60000 + 128 * p + l) ||
    decide (Config.freeNat (s.free + 68 * (4 * da + p) + l) < (s.ledRec (ledgerRef da 0x06 (128 * p + l))).thresh)

/-- R468: the instruction that the TAP selects: none while TRST_N keeps it in reset; EXTEST and SAMPLE while PORST_N is low, else BYPASS.
No command moves the TAP's pins (notes/assumptions/182.md). -/
def State.tapSelects (s : State) : Option TapInstr :=
  if s.boot.trst then none else some (if s.boot.porst then s.boot.tap else .bypass)

/-- The receive sides of the mesh. -/
def allSides : List (Nat × Nat) := allDAs.flatMap fun da => ((List.range 4).filter fun p => (linkAt da p).isSome).map fun p => (da, p)

/-- R254, R255: the substitutions that a direction keeps, and for each further failed lane an unused spare in increasing order;
with the number of lanes that find none. -/
def assignSpares (old : List (Nat × Nat)) (bad : List Nat) : List (Nat × Nat) × Nat :=
  let keep := old.filter fun x => !bad.contains (64 + x.2)
  let need := bad.filter fun l => decide (l < 64) && !(keep.any fun x => x.1 == l)
  let spares := (List.range 4).filter fun k => !bad.contains (64 + k) && !(keep.any fun x => x.2 == k)
  (keep ++ need.zip spares, need.length - spares.length)

/-- R254, R447: a side whose link fails at training. -/
def State.sideFails (s : State) (x : Nat × Nat) : Bool :=
  decide (4 < (tget s.net.badLanes (4 * x.1 + x.2) []).length) || s.keeper.unusable.contains (x.1, 0xD0003 + x.2)

/-- R254: every link trains; a link that fails is the device's failed link (R244). -/
def State.trainLinks (s : State) : State :=
  let bad := allSides.foldl (fun t x => tput t (4 * x.1 + x.2) (s.failingLanes x.1 x.2)) []
  let s := { s.setNet { s.net with
    badLanes := bad, subst := bad.map fun x => (x.1, (assignSpares [] x.2).1), links := [], replays := [], trained := true,
    retraining := [], crcErrs := [], failed := [], failedLink := none, awaiting := none } with free := s.free + 131072 }
  let gone := (allSides.filter s.sideFails).foldl (fun l x => match linkAt x.1 x.2 with | some k => nadd l k | none => l) []
  let s := s.setNet { s.net with failed := gone, failedLink := gone.head? }
  s.setPacer { s.pacer with netFailed := false }

/-- R367, R428: every die other than the Keeper, the Pacer and E6 returns to its reset state. The links are trained again
and the start routes serve, as from Keeper start (R438, R478). -/
def State.resetDies (s : State) : State :=
  State.trainLinks { s with
    regs := s.regs.filter fun x => keptDA (keyDA x.1)
    mem := s.mem.filter fun x => keptSp (addrSp x.1)
    poison := s.poison.filter fun g => keptSp (addrSp (32 * g))
    zeroTags := []
    cores := []
    tallies := []
    tellers := []
    escrow := []
    clearings := []
    tiles := []
    net := { startRoutes := true }
    chans := []
    regions := []
    logic := []
    memIn := []
    fports := []
    trips := []
    fabs := []
    edges := []
    sds := []
    gens := []
    outs := []
    verdicts := []
    encs := []
    lanes := []
    eths := [] }

/-- R451: the registers of a page return to their reset values; the page is no longer locked. -/
def State.resetPage (s : State) (da page : Nat) : State :=
  { s with regs := s.regs.filter fun x => x.1 / 2 ^ 24 != da * 256 + page }

/-- IMG_STATE (R376). -/
def State.imgState (s : State) : Nat := s.reg keeperDA pgImg 0x040 % 16
def State.setImg (s : State) (v : Nat) : State :=
  (s.setReg keeperDA pgImg 0x040 (putBits (s.reg keeperDA pgImg 0x040) 3 0 v)).setBoot { s.boot with stepStart := s.boot.time }

/-- R428 item 3: the dies are reset, and IMG_STATE becomes unconfigured. -/
def State.dropDies (s : State) : State :=
  ((s.setKeeper { s.keeper with configured := [] }).resetDies).setImg 0

/-- R428, R430: shutdown for temperature or supply: the stop line, the disarm at the next edge, then the reset of the dies
(at that edge, or at once while no tick runs). -/
def State.thermalShutdown (s : State) : State :=
  let s := (s.setPacer { s.pacer with shutdownStop := true }).assertStop
  let s := s.setMint { s.mint with shutdown := true }
  let s := (s.flag pacerDA pgThmAgg 2).requestDisarm
  if s.disarmed then s.dropDies else s

end Sys2Proof.Machine
end

