-- ==== Sys2Proof/Machine/MintOps.lean ====
section
/-! DEFINITION. The Mint's plan (R418, R419), its bucket (R424), and what a tick edge changes in it. -/

namespace Sys2Proof.Machine

/-! ### Registers (R431) -/

def State.mntReg (s : State) (off : Nat) : Nat := s.reg pacerDA pgMnt off
def State.efloor (s : State) : Nat := s.mntReg 0x04C % 2 ^ 16
def State.staticW (s : State) : Nat := s.mntReg 0x044 % 2 ^ 10
def State.fixedW (s : State) : Nat := s.mntReg 0x048 % 2 ^ 10

/-- R418: the effective budget B in W. -/
def State.budget (s : State) : Nat :=
  let b := s.mntReg 0x040 % 2 ^ 10
  let l := s.mint.limit
  if l ≠ 0 ∧ l < b then l else b

def ceilDiv (a b : Nat) : Nat := (a + b - 1) / b

/-- One coin in the steps of the charges (R416). -/
def coin : Nat := 2 ^ 20

/-! ### The demand of a tick (R419) -/

/-- The charge of every request of a stream, `fuel` requests at most. -/
def State.planRequests (s : State) (t c : Nat) : Nat → Stream → Nat
  | 0, _ => 0
  | fuel + 1, st =>
    if dTotal st.desc ≤ st.next then 0
    else
      let n := st.runLen
      let pa := match st.far with
        | some (_, true) => (dSrc st.desc st.next).toNat
        | _ => (dDst st.desc st.next).toNat
      s.requestCharge st t c (n * dEsz st.desc) st.far pa + s.planRequests t c fuel { st with next := st.next + max 1 n }

/-- The charge of a fixed stream of a logical core. -/
def State.planStream (s : State) (t c cls idx : Nat) : Nat :=
  match s.descriptor t c cls idx with
  | none => 0
  | some d => s.planRequests t c (dTotal d) { cls := cls, src := .sis, index := idx, desc := d, gateOpen := true }

/-- The length of an input record (R310). -/
def State.inLen (s : State) (e g : Nat) : Nat :=
  let d := s.grp e g
  let n := 32 + if isLink e then ((members 8 d.mask).map fun n => 32 + 32 * s.laneAxes e n).sum
    else 8 * (members 64 d.mask).length + 16 * (members 16 d.enc).length
  n + (32 - n % 32) % 32

/-- The charge of a group's delivery to one die: its writes and its arrival. -/
def State.planDelivery (s : State) (e g die : Nat) : Nat :=
  match s.physDie die with
  | none => 0
  | some t =>
    let d := s.grp e g
    let there := ((s.routeTo (edgeDA e) 0 (tileDA t)).map (·.1)).getD 0
    let back := ((s.routeTo (tileDA t) 9 (edgeDA e)).map (·.1)).getD 0
    let n := s.inLen e g
    ((cutBlocks (blocksOf d.addr n) d.addr (List.replicate n 0)).map fun b =>
      let beats := (b.2.length + 63) / 64
      60 * beats + 40 * (there * (beats + 1) + back)).sum + 40 * there

/-- The planned charge of a timetable entry of class 0 or 1. -/
def State.planEntry (s : State) (e : TtEntry) : Nat :=
  match e.kind with
  | 1 => match s.entryCore e with
    | some (t, c) => (s.prog t c e.obj).coins * coin
    | none => 0
  | 3 => match s.entryCore e with
    | some (t, c) => s.planStream t c e.cls e.obj
    | none => 0
  | 4 => match edgeOf e.die with
    | some x =>
      let d := s.grp x e.obj
      s.planDelivery x e.obj d.dieA + if d.dieB = 0xFF then 0 else s.planDelivery x e.obj d.dieB
    | none => 0
  | _ => 0

/-- The class 0 and class 1 entries that fire in a tick. -/
def State.plannedEntries (s : State) (tick : Nat) : List TtEntry :=
  s.pacer.entries.filter fun e => decide (e.cls < 2) && e.fires tick

/-- D(n) in steps of 2^-20 coin. -/
def State.demandOf (s : State) (tick : Nat) : Nat := ((s.plannedEntries tick).map s.planEntry).sum

/-- R419: the maximum of D(n) over the hyperperiod, in coins: MNT_DEMAND. -/
def State.maxDemand (s : State) : Nat := ((List.range 128).map fun n => ceilDiv (s.demandOf n) coin).foldl max 0

/-- Cycles that [a, b) and [c, d) share. -/
def overlap (a b c d : Nat) : Nat := min b d - max a c

/-- R419, R420: the planned class 0 and class 1 profile of a quantum of a tick, scaled to a full quantum: of programs and streams;
the charges of a group delivery are in D(n) only. -/
def State.profile (s : State) (tick q : Nat) : Nat :=
  let lo := 1400 * q
  let len := min 1400 (s.period - lo)
  (((s.plannedEntries tick).filter fun e => e.kind != 4).map fun e =>
    let o := if e.span = 0 then overlap lo (lo + len) e.at_ (e.at_ + 1) else overlap lo (lo + len) e.at_ (e.at_ + e.span)
    s.planEntry e * o * 1400 / (max 1 len * max 1 e.span)).sum

/-- Q of R420. -/
def State.quanta (s : State) : Nat := ceilDiv s.period 1400

/-- Δ of R420: the rise of the profile from the quantum before; the profile has a period of 128 ticks (R45). -/
def State.profileRise (s : State) (q : Nat) : Int :=
  let before := if q = 0 then s.profile (s.tick + 127) (s.quanta - 1) else s.profile s.tick (q - 1)
  (s.profile s.tick q : Int) - before

/-! ### Bucket (R424) -/

def bucketFull : Nat := 450000000 * 1400

/-- Over-budget time in the last 20 s, in core cycles. -/
def State.overTime (s : State) : Nat :=
  ((s.mint.overLog.filter fun x => decide (s.boot.time - x.1 < 28000000000)).map (·.2)).sum

/-- One tick's boost at a budget, in coins. -/
def State.fullBoost (s : State) (b : Nat) : Nat := (1150 - b) * s.period / 1400

/-- R427 to R430: class 2 receives its floor only. -/
def State.shedNow (s : State) : Bool := s.mint.shed || s.mint.uvShed || s.chans.any fun x => x.2.modHot

/-- R424: the boost of the tick that begins. -/
def State.boostNow (s : State) : Nat :=
  let f := s.fullBoost s.budget
  if s.shedNow || decide (s.mint.bucket < f * 1400) || decide (2100000000 ≤ s.overTime) then 0 else f

/-- R424: the bucket after `len` cycles in which `energy` µJ were drawn. -/
def bucketAfter (bucket b len energy : Nat) : Nat := min bucketFull (bucket + b * len - energy * 1400)

/-- Every class 2 allowance becomes 0 (R421). -/
def State.zeroAllowances (s : State) : State :=
  { s with tiles := s.tiles.map fun x => (x.1, { x.2 with allowance := 0 }) }

/-- R424 to R426: what a tick edge changes in the Mint; `len` is the length of the tick that it ends. -/
def State.mintEdge (s : State) (len : Nat) : State :=
  let m := s.mint
  let b := s.budget
  let exceeded := decide (b * len < m.energy * 1400)
  let log := m.overLog.filter fun x => decide (s.boot.time - x.1 < 28000000000)
  let late := exceeded && m.boost == 0
  let s := if late then s.flag pacerDA pgMnt 2 else s
  let s := s.setReg pacerDA pgMnt 0x05C (min 0x7FF (m.energy * 1400 / max 1 len))
  let s := s.setMint { m with
    bucket := bucketAfter m.bucket b len m.energy, energy := 0, quantum := 0, ended := 0, cut := false, noExtra := late,
    overLog := if exceeded then (s.boot.time, len) :: log else log, limit := s.mntReg 0x050 % 2 ^ 10 }
  s.setMint { s.mint with boost := s.boostNow }

/-- R442: the first edge after arming: the bucket is full. -/
def State.mintArm (s : State) : State :=
  let s := s.setMint { s.mint with
    bucket := bucketFull, energy := 0, quantum := 0, ended := 0, cut := false, noExtra := false, spentQ := 0, lastQ := 0,
    lastLen := 1400, refunds := [], limit := s.mntReg 0x050 % 2 ^ 10 }
  s.setMint { s.mint with boost := s.boostNow }

end Sys2Proof.Machine
end

