-- ==== Sys2Proof/Machine/Tick.lean ====
section
/-! DEFINITION. The tick (R36, R37, R41, R42, R442), the walk of the timetable (R46), the timetable actions START, BARRIER,
STREAM, SIGNAL and NOP (R43, R50, R51), and deadlines (R48, R49). -/

namespace Sys2Proof.Machine

/-! ### The core clock -/

/-- A core cycle in which no command acts: the package time and the local cycle advance. In a running tick the local cycle
stays at P until the tick edge, unless the tick is being stretched (R391). -/
def State.coreCycle (s : State) : State :=
  let p := s.pacer
  let hold := p.phase == .running && !p.stretching && decide (s.period ≤ p.cycle)
  let idle := p.phase == .disarmed || p.phase == .armed
  let s := if s.boot.porst then s else s.setBoot { s.boot with time := s.boot.time + 1 }
  if hold || idle then s else s.setPacer { p with cycle := p.cycle + 1 }

/-! ### The walk (R45, R46) -/

/-- The entries that the Pacer dispatches in one cycle: from index `i` on, those with AT ≤ `limit` that fire in the tick, at
most `k` of them; and the index of the next entry. -/
def walkEntries (tick limit : Nat) : Nat → Nat → List TtEntry → Nat × List Nat
  | _, i, [] => (i, [])
  | 0, i, _ :: _ => (i, [])
  | k + 1, i, e :: r =>
    if limit < e.at_ then (i, [])
    else if e.fires tick then
      let x := walkEntries tick limit k (i + 1) r
      (x.1, i :: x.2)
    else walkEntries tick limit (k + 1) (i + 1) r

/-- One cycle of the walk for a tick. -/
def State.walkFor (s : State) (tick limit : Nat) : State :=
  let p := s.pacer
  let x := walkEntries tick limit 4 p.walk (p.entries.drop p.walk)
  s.setPacer { p with walk := x.1, dispatched := p.dispatched ++ x.2.map fun i => (i, tick) }

/-- The walk of the tick that the next edge begins. -/
def State.walkAhead (s : State) (tick limit : Nat) : State :=
  let s := if s.pacer.walkNext then s else s.setPacer { s.pacer with walkNext := true, walk := 0 }
  s.walkFor tick limit

/-- TIMETABLE_DISPATCH (R46): up to 4 entries, 32 cycles ahead of their AT; in the last 32 cycles of a tick, of an arming
wait or of a restart, those of the next tick. -/
def execTimetableDispatch (s : State) : Out :=
  .next <|
    let p := s.pacer
    match p.phase with
    | .disarmed => s
    | .armed => s.walkAhead 0 31
    | .restarting => if p.acksWanted.isEmpty then s.walkAhead (s.tick + 1) 31 else s
    | .running =>
      if p.strobed then s
      else if !p.walkNext && decide (p.walk < p.entries.length) then s.walkFor s.tick (p.cycle + 32)
      else if s.period ≤ p.cycle + 32 then s.walkAhead (s.tick + 1) (min 31 (p.cycle + 32 - s.period))
      else s

/-! ### Audit samples at dispatch (R398, R399, R403) -/

/-- R398: a die's own auditor, or its adopter in odd ticks, may take a sample of it in this tick. -/
def State.sampleTurn (s : State) (t : Nat) : Bool :=
  match s.place.auditorOf t with
  | none => false
  | some a =>
    let turn := if a = t then (s.place.adoptedBy t).isNone || s.tick % 2 == 0 else s.tick % 2 == 1
    turn && !(s.pacer.ties.any fun x => x.auditor == some a)

/-- A further class 2 run of a core begins: a sampled run of it that has not ended at its END never will. -/
def State.stopSamples (s : State) (t c : Nat) : State :=
  let u := s.tile t
  let open_ := fun (x : Sample) => x.core == c && !x.ended
  let stop := fun (x : Sample) => if open_ x then { x with stopped := true } else x
  if u.sample.any open_ || u.held.any fun h => open_ h.x then
    s.setTile t { u with sample := u.sample.map stop, held := u.held.map fun h => { h with x := stop h.x } }
  else s

/-- R399: a sampled run begins, and with it the capture of the core's class 2 window. An adaptation run that finds a sample under way is
captured beside it and waits (R403). Each run has a capture of its own (notes/assumptions/225.md). -/
def State.beginSample (s : State) (t c : Nat) (adapt : Bool) (latest : Nat) : State :=
  let s := s.stopSamples t c
  let u := s.tile t
  let x : Sample := { core := c, tick := s.tick, adapt := adapt, bank := s.bank t c 2,
                      layer := ((s.disp t c).running.map (·.layer)).getD 0 }
  let take := (s.place.auditorOf t).isSome && u.sample.isNone &&
    (adapt || (latest == 0 && s.place.roleOf t c == u.nextSample && s.sampleTurn t && u.sampled != some s.tick))
  if take then
    s.setTile t { u with
      sample := some x, sampled := some s.tick, capture := [], captureOvf := false }
  else if adapt && (s.place.auditorOf t).isSome then
    s.setTile t { u with held := u.held ++ [{ x := x }] }
  else s

/-! ### Timetable actions -/

/-- NOP (R43). -/
def execTtNop (i : Nat) (s : State) : Out := s.action i 0 false fun _ s => s

/-- R181, R222: a class 2 START ends a task, which goes to the return slot, or is parked where a stream of it has faulted. -/
def State.startReturns (s : State) (t c : Nat) : State :=
  let d := s.disp t c
  let s := ((s.endUnits2 t c).deactivate t c 2).updDisp t c fun d => { d with running := none, xfaulted := false }
  match d.running with
  | some k => if d.xfaulted then s.parkTask t c k else (s.returnTask t c k).incReg (tileDA t) (pgVec c) 0x060
  | none => s

/-- START (R3, R50, R51, R129, R130): an empty program is complete at once and reports its coins unspent; a task gives way; a
second program of a class is a schedule violation, which classes 0 and 1 report (R48) and whose deadline a class 2 entry misses
(R49, notes/assumptions/26.md). A program runs in the class of its header, which the Keeper holds equal to
its entries' (notes/assumptions/184.md): an entry of another class starts nothing. -/
def execStart (i : Nat) (s : State) : Out :=
  s.action i 1 true fun e s =>
    match s.entryCore e with
    | none => s
    | some (t, c) =>
      let cls := e.cls
      let h := s.prog t c e.obj
      let b := s.bank t c cls
      if h.codeLen = 0 then
        let s := s.completeEntry i s.tick
        if cls < 2 then s.reportRefund t (h.coins * coin) else s
      else if h.cls ≠ cls ∨ (b.active ∧ !b.isTask) then
        if cls < 2 then s.violation (tileDA t) i cls s.tick (coreRef t c) else s
      else
        let s := if b.active then s.startReturns t c else s
        let s := s.startBank t c cls false h.skip e.obj i h.entry h.seed
        if cls = 2 then s.beginSample t c false 0 else s

/-- BARRIER (R209): the tally is armed with its expected count. -/
def execBarrier (i : Nat) (s : State) : Out :=
  s.action i 2 true fun e s =>
    match s.physDie e.die with
    | none => s
    | some t => s.setTally t e.obj { s.tally t e.obj with expect := e.arg, armed := true }

/-- STREAM (R194): the stream enters its class's queue; behind a full queue it waits. A refused stream is a schedule
violation (R48, R200). -/
def execStream (i : Nat) (s : State) : Out :=
  s.action i 3 true fun e s =>
    match s.entryCore e with
    | none => s
    | some (t, c) =>
      (s.enterStream t c e.cls (.timetable i s.tick) e.obj (s.core t c).clock).getD
        (s.refusedStart t c { cls := e.cls, src := .timetable i s.tick, index := e.obj, desc := [], gateOpen := false })

/-- SIGNAL (R43): a header-only signal packet for a fabric port, with the tag in AUX. -/
def execSignal (i : Nat) (s : State) : Out :=
  s.action i 7 false fun e s =>
    s.post { Packet.blank with
      opc := opSIG, cls := BitVec.ofNat 2 e.cls, src := BitVec.ofNat 8 pacerDA, dst := BitVec.ofNat 8 e.die,
      addr := BitVec.ofNat 48 e.obj, aux := BitVec.ofNat 32 e.arg }

/-! ### Deadlines (R44, R48, R49) -/

/-- Cycles since local cycle 0 of tick `n`. -/
def State.elapsed (s : State) (n : Nat) : Nat := (s.tick - n) * s.period + s.pacer.cycle

/-- R44: the action of an entry, in force since tick `n`, is complete. -/
def State.actionDone (s : State) (i n : Nat) (e : TtEntry) : Bool :=
  s.pacer.complete.contains (i, n) ||
  (e.kind == 2 && n == s.tick && match s.physDie e.die with
    | some t => decide (e.arg ≤ (s.tally t e.obj).count)
    | none => true)

def State.unwatch (s : State) (i n : Nat) : State :=
  s.setPacer { s.pacer with watch := s.pacer.watch.erase (i, n), complete := s.pacer.complete.filter (· != (i, n)) }

/-- The physical die that an entry targets. -/
def State.entryDA (s : State) (e : TtEntry) : Nat :=
  if e.dakind then e.die else match s.physDie e.die with | some t => tileDA t | none => 0

/-- R49: a class 2 action that misses its deadline. -/
def State.estOverrun (s : State) (i n : Nat) (e : TtEntry) : State :=
  let s := s.flag pacerDA pgTkc 3
  match s.entryCore e with
  | none => s
  | some (t, c) =>
    if e.kind = 1 then
      let b := s.bank t c 2
      if b.active && !b.isTask && b.entry == i && b.startTick == n then s.endClass2 t c else s
    else if e.kind = 3 then s.cancelStreams t c fun x => decide (x.src = .timetable i n)
    else s

/-- The entry names a core that no die carries (its die is lost and has not rejoined): nothing checks its deadline. -/
def State.entryGone (s : State) (e : TtEntry) : Bool := e.kind != 2 && (s.entryCore e).isNone

/-- R235: a class 0 or class 1 deadline of an action in force since tick `n` that is missed charges each link that has replayed since,
where the replay caused the miss; whether it did is free. The lane of the receive side that is charged is free. -/
def State.chargeReplays (s : State) (n : Nat) : State :=
  (s.net.replays.filter fun x => decide (n ≤ x.2)).foldl (fun s x =>
    let da := x.1 / 4
    if Config.freeBool s.free then
      (s.charge da (ledgerRef da 0x06 (128 * (x.1 % 4) + Config.freeNat (s.free + 1) % 68)) (Config.freeNat (s.free + 2) % 3) 0x01 noLoc).draw.draw.draw
    else s.draw) s

/-- R276: a class 1 deadline of an action in force since tick `n` that is missed charges each channel that has replayed twice in a tick
since, where the second replay caused the miss; whether it did is free. -/
def State.chargeChannels (s : State) (n : Nat) : State :=
  (s.chans.filter fun x => x.2.replayed.any fun m => decide (n ≤ m) && decide (2 ≤ (x.2.replayed.filter (· == m)).length)).foldl (fun s x =>
    let da := channelDA x.1
    if Config.freeBool s.free then
      (s.charge da (ledgerRef da 0x08 (x.1 % 2)) (Config.freeNat (s.free + 1) % 3) 0x01 noLoc).draw.draw
    else s.draw) s

/-- DEADLINE (R48, R49): AT + SPAN of an entry in force. After a restart strobe no class 0 or class 1 deadline is checked
(R389). -/
def execDeadline (i : Nat) (s : State) : Out :=
  .next <|
    match s.ttEntry i with
    | none => s
    | some e =>
      match s.pacer.watch.find? fun w => w.1 == i && s.elapsed w.2 == e.at_ + e.span with
      | none => s
      | some w =>
        if e.cls < 2 && s.pacer.strobed then s
        else
          let done := s.actionDone i w.2 e
          let s := s.unwatch i w.2
          if done || s.entryGone e then s
          else if e.cls < 2 then
            let da := s.entryDA e
            let ref := match s.entryCore e with
              | some (t, c) => if e.kind = 2 then ledgerRef da 0x04 0 else coreRef t c
              | none => ledgerRef da 0x04 0
            let s := (s.violation da i e.cls w.2 ref).chargeReplays w.2
            if e.cls = 1 then s.chargeChannels w.2 else s
          else s.estOverrun i w.2 e

/-! ### Arming (R41, R441, R444) -/

/-- R441: the twelve channels are ready (MCH_STATE.STEP 100b). -/
def State.channelsReady (s : State) : Bool := (List.range 12).all fun ch => (tget s.chans ch {}).step == 4

/-- R303: every region with fixed use runs. -/
def State.fixedRunning (s : State) : Bool := s.regions.all fun x => !x.2.fixed || x.2.phase == .running

/-- R41, R441: the conditions of an ARM. -/
def State.armOk (s : State) : Bool :=
  s.disarmed && bit (s.reg pacerDA pgTtb 0x044) 0 && s.period == s.reg pacerDA pgTtb 0x048 && s.channelsReady &&
  !s.mint.cold && !s.mint.shutdown && s.boot.idle &&
  (s.reg pacerDA pgTkc 0x050 % 2 == 0 || s.pacer.netLock) && s.fixedRunning && !s.pacer.netFailed

/-- R389, R444: what a job restart does on the tile dies, and the dies whose restore is awaited. -/
def State.beginRestore (s : State) : State :=
  let s := allTiles.foldl (fun s t => if (s.place.dieState t) = 1 then s.stopTile t else s) s
  s.setPacer { s.pacer with acksWanted := s.inService, lastAck := s.boot.time }

/-- ARM (R41): accepted, the tick waits for its first edge; an ARM that resumes a job restores it first (R444). -/
def State.arm (s : State) : State :=
  if s.armOk then
    let s := s.setKeeper { s.keeper with base := s.keeper.service }
    let s := s.setPacer { s.pacer with
      phase := .armed, cycle := 0, stretch := 0, restarts := 0, walk := 0, walkNext := false, dispatched := [],
      watch := [], complete := [], strobed := false, opened := none, disarmAt := false, stretching := false, rejoin := [] }
    if s.pacer.resumes then
      let s := s.revoke 0xFF 0xFF s.restartFirst 4
      let s := ((s.endGens false).ageGens).beginRestore
      s.setPacer { s.pacer with rearm := some s.boot.time }
    else s
  else s.flag pacerDA pgTkc 1

def execArm (s : State) : Out := .next s.arm

/-- DISARM (R42). -/
def execDisarm (s : State) : Out := .next s.requestDisarm

/-! ### The tick edge (R36, R37) -/

/-- The times of the last edges whose numbers are multiples of 1, 2, 4 and 8 (R318), after the edge of tick `n`. -/
def edgeTimes (old : List (Nat × Nat)) (n now : Nat) : List (Nat × Nat) :=
  (List.range 4).map fun i =>
    let x : Nat × Nat := old.getD i (now, now)
    if n % 2 ^ i = 0 then (now, x.1) else x

/-- The actions whose condition the edge takes away are judged before it: barriers in force whose count is reached. -/
def State.latchBarriers (s : State) : State :=
  let p := s.pacer
  let done := p.watch.filter fun w => match s.ttEntry w.1 with | some e => e.kind == 2 && s.actionDone w.1 w.2 e | none => false
  s.setPacer { p with complete := done ++ p.complete }

/-- What every edge does once the generations are settled: tick `n` begins (R37), tallies and allowances are cleared (R209,
R421), strobes (R292), budgets (R296), the fetches and the verdicts of the tick before are judged (R311, R53). -/
def State.beginTick (s : State) (n : Nat) : State :=
  let p := s.pacer
  let len := s.boot.time - p.edgeTime
  let s := s.setPacer { p with
    phase := .running, tick := n, cycle := 0, edgeTime := s.boot.time, refEdges := edgeTimes p.refEdges n s.boot.time,
    walk := if p.walkNext then p.walk else 0, walkNext := false, strobed := false, acksWanted := [],
    dispatched := p.dispatched.filter fun x => x.2 == n,
    stretching := false, rejoin := [], rearm := none, resumes := true,
    complete := p.complete.filter fun x => p.watch.contains x }
  let since := fun (m : Nat) => p.watch.any fun w => decide (w.2 ≤ m)
  let s := { (s.endFlips true).setNet { s.net with replays := s.net.replays.filter fun x => since x.2 } with
    chans := s.chans.map fun (x : Nat × Chan) => (x.1, { x.2 with replayed := x.2.replayed.filter since }),
    tallies := [], clearings := [], fports := s.fports.map fun (x : Nat × FabPort) => (x.1, { x.2 with used := 0 }),
    verdicts := s.verdicts.filter fun v => v.tick == (n - 1) % 2 ^ 32 }
  let s := (s.zeroAllowances).floorTokens.strobeTick
  if n = 0 then s.mintArm else ((s.mintEdge len).lateFetches (n - 1)).lateVerdicts (n - 1)

/-- R42: a disarming edge: nothing is confirmed, no release takes place, every output enters its safe state. -/
def State.disarmEdge (s : State) : State :=
  let p := s.pacer
  let len := s.boot.time - p.edgeTime
  let ran := s.keeper.base + s.tick + 1
  let s := (s.endGens false).withholdAll
  let s := s.setKeeper { s.keeper with service := ran, serviceSaved := ran }
  let s := s.setPacer { p with
    phase := .disarmed, cycle := 0, walk := 0, walkNext := false, dispatched := [], watch := [], complete := [],
    disarmAt := false, strobed := false, opened := none, acksWanted := [], stretching := false, rejoin := [],
    edgeTime := s.boot.time }
  let s := { s with tallies := [], clearings := [] }
  let s := (((s.zeroAllowances).mintEdge len).assertStop).takeFailedLink
  let s := s.setMint { s.mint with updated := s.boot.time }
  if s.mint.shutdown then s.dropDies else s

/-- R391: cycles by which the edge that now falls is late. -/
def State.stretchNow (s : State) : Nat := s.pacer.cycle - s.period

/-- R393, R397: the other entry of the clearing group on logical core 16 · die + core. -/
def State.partner (s : State) (key : Nat) : Option Nat :=
  s.pacer.entries.findSome? fun e =>
    if e.kind = 5 then
      let a := 16 * e.die + e.unit
      let b := 16 * bits e.arg 7 0 + bits e.arg 11 8
      if a = key then some b else if b = key then some a else none
    else none

/-- R397: the surviving entry's current generation becomes the current generation and the state of a core that rejoins. -/
def State.copyEntry (s : State) (key : Nat) : State :=
  match s.physCore (key / 16) (key % 16), (s.partner key).bind fun p => (s.physCore (p / 16) (p % 16)).map fun tc => (p, tc) with
  | some (t, c), some (p, (t2, _)) =>
    let x := s.esc t2 (p % 16) false
    let (_, n) := s.stateRange t c false
    let s := s.copyGrans .die .die t2 t (s.genAddr t2 (p % 16) false x.cur) (s.genAddr t (key % 16) false 0) n
    let s := s.setEsc t (key % 16) false { Escrow.loaded with ok1 := false, tick0 := x.tickOf x.cur }
    s.restoreRange t c (key % 16) false 0
  | _, _ => s

/-- R397: a core of a rebound logical die rejoins; with the first of them the die is bound. -/
def State.rejoinCore (s : State) (key : Nat) : State :=
  let n := key / 16
  let die := (s.keeper.reserveLoads.find? fun x => x.1 == n).map (·.2)
  let s := s.changePlace fun p => { p with
    dieOf := match die with | some r => tput p.dieOf n (some r) | none => p.dieOf
    unjoined := p.unjoined.filter (· != key) }
  let s := s.setKeeper { s.keeper with reserveLoads := s.keeper.reserveLoads.filter fun y => y.1 != n }
  s.copyEntry key

/-- R390, R393: the spare steps of a core's retirement: the spare takes the core's settings, images and state. -/
def State.spareSteps (s : State) (ref : Nat) : State :=
  let (t, c) := refCore ref
  let k := s.place.roleOf t c
  match s.place.spare t with
  | some sp =>
    if (refKind ref = 0x01 ∨ refKind ref = 0x02) ∧ k < 8 then
      let s := s.spareCopy t c sp k
      let s := s.restoreRange t sp k false (s.esc t k false).cur
      (s.rollbackCore t sp k false).1
    else s
  | none => s

/-- R393: the retirements that a restart or a planned stretch applies take effect at its edge. -/
def State.applyRetirements (s : State) (steps : Bool) : State :=
  s.keeper.applying.foldl (fun s r => (if steps then s.spareSteps r else s).retireUnit r)
    (s.setKeeper { s.keeper with applying := [] })

/-- TICK_EDGE (R36, R42, R442): the first edge after arming, the edge at local cycle P, a disarming edge, or the edge that
ends a planned stretch (R393). -/
def execTickEdge (s : State) : Out :=
  .next <|
    let p := s.pacer
    match p.phase with
    | .armed =>
      if p.rearm.isNone || (p.acksWanted.isEmpty && decide (p.lastAck + 32 ≤ s.boot.time)) then
        let s := s.restartEdgeDies.applyRetirements false
        ({ s.setPacer { s.pacer with refEdges := [] } with verdicts := [] }).beginTick 0
      else s
    | .running =>
      if p.strobed || decide (p.cycle < s.period) then s
      else if p.disarmAt then s.disarmEdge
      else
        let s := s.latchBarriers.endGens true
        let s := s.setPacer { s.pacer with stretch := min (2 ^ 32 - 1) (s.pacer.stretch + s.stretchNow) }
        let s := p.rejoin.foldl (fun s key => s.rejoinCore key) (s.applyRetirements true)
        s.beginTick (s.tick + 1)
    | _ => s

end Sys2Proof.Machine
end

