-- ==== Sys2Proof/Machine/Restart.lean ====
section
/-! DEFINITION. Fault reports (R378, R379, R457) and the job restart (R389 to R393, R396). -/

namespace Sys2Proof.Machine

/-! ### Fault reports -/

/-- R379: what a report asks for. -/
inductive Handling where
  | restart | rollback | disarm | count
deriving DecidableEq, Repr

/-- R379: the table of fault kinds; none for a reserved kind. -/
def handling (kind cls : Nat) : Option Handling :=
  let byClass := if cls < 2 then Handling.restart else .count
  match kind with
  | 0x01 => some byClass
  | 0x02 => some byClass
  | 0x03 => some .restart
  | 0x04 => some .restart
  | 0x05 => some (if cls < 2 then .restart else .rollback)
  | 0x06 => some .restart
  | 0x07 => some .restart
  | 0x08 => some byClass
  | 0x09 => some .restart
  | 0x0A => some .count
  | 0x0B => some .disarm
  | 0x0C => some .disarm
  | 0x0D => some .count
  | _ => none

/-- R378, R379: the payload carries no reserved code. -/
def reportOk (p : Packet) : Bool :=
  let w := pword p 0
  decide (p.dst.toNat = pacerDA) && decide (p.len = 16) && decide (w < 2 ^ 10) && bits w 9 8 != 3 &&
  (handling (bits w 7 0) (bits w 9 8)).isSome

/-- R457: the history keeps the last 1,024 reports, newest first. -/
def State.history (s : State) (e : FhEnt) : State :=
  let p := s.pacer
  let s := if p.history.length < 1024 then s else s.flag pacerDA pgPrc 0
  s.setPacer { p with history := (e :: p.history).take 1024, fhCnt := (p.fhCnt + 1) % 2 ^ 32 }

/-- R48, R343: a schedule violation is recorded in TKC_VIOL, unless a restart strobe has been driven (R389). -/
def State.recordViolation (s : State) (da cls index tick : Nat) : State :=
  if s.pacer.strobed then s
  else
    let v := index % 2 ^ 15 + da * 2 ^ 16 + cls * 2 ^ 24
    let s := (s.setReg pacerDA pgTkc 0x064 v).setReg pacerDA pgTkc 0x068 (tick % 2 ^ 32)
    (s.flag pacerDA pgTkc 2).event
      { code := 0x03, src := da, unit := 0, tick := BitVec.ofNat 32 tick, w2 := BitVec.ofNat 32 v }

/-- The CLEAR entry of a clearing group. -/
def State.clearEntry (s : State) (cg : Nat) : Option TtEntry :=
  s.pacer.entries.find? fun e => e.kind == 5 && e.obj == cg

/-- The two physical cores of a clearing group; none where one is unbound. -/
def State.groupCores (s : State) (cg : Nat) : Option (Nat × Nat) × Option (Nat × Nat) :=
  match s.clearEntry cg with
  | some e => (s.entryCore e, s.physCore (bits e.arg 7 0) (bits e.arg 11 8))
  | none => (none, none)

/-- R394: from the restart strobe the dies of the mismatched entries capture their die stores. -/
def State.startCapture (s : State) (t : Nat) : State :=
  s.setTile t { s.tile t with tieCapture := [], tieCapturing := true, tieOvf := false }

/-- The digest that an entry of a clearing group has latched, or else the one that the reporting die has recorded at `off` of
its AUD page. -/
def State.latchedDigest (s : State) (t c cg da off : Nat) : BitVec 64 :=
  match (tget? s.clearings (coreKey t c)).filter fun x => x.cgroup == cg with
  | some x => x.digest
  | none => BitVec.ofNat 64 (s.reg da pgAud off + 2 ^ 32 * s.reg da pgAud (off + 4))

/-- R394: a mismatch of a clearing group in the tick, reported by the die at `da`, awaits its tie-break, with the digests of its
entries. After the restart strobe its dies capture at once. -/
def State.noteMismatch (s : State) (da cg : Nat) : State :=
  if s.pacer.mismatches.any fun m => m.cgroup == cg && m.tick == s.tick then s
  else
    match s.groupCores cg with
    | (some (ta, ca), some (tb, cb)) =>
      let fresh := fun (s : State) t => if s.pacer.strobed && !(s.tile t).tieCapturing then s.startCapture t else s
      let s := s.setPacer { s.pacer with mismatches := s.pacer.mismatches ++
        [{ cgroup := cg, tick := s.tick, auditor := none, running := false,
           coreA := coreKey ta ca, coreB := coreKey tb cb,
           digA := s.latchedDigest ta ca cg da 0x058, digB := s.latchedDigest tb cb cg da 0x060 }] }
      fresh (fresh s ta) tb
    | _ => s

/-- R401: a faulted class 2 program: its core is rolled back, with REASON 02h where poison was consumed in control. -/
def State.faultRollback (s : State) (ref detail : Nat) : State :=
  if refKind ref = 0x02 ∧ dieKind (refDA ref) = some .tile ∧ !s.pacer.strobed then
    s.rollback (tileOfDA (refDA ref)) (refInst ref) (if bit detail sfPOISON then 2 else 3)
  else s

/-- FAULT_REPORT (R379). A report that would restart, or roll back, is absorbed while a restart is open. -/
def execFaultReport (p : Packet) (s : State) : Out :=
  s.message p 0x05 (reportOk p) fun s =>
    let kind := bits (pword p 0) 7 0
    let cls := bits (pword p 0) 9 8
    let detail := pword p 3
    let da := p.src.toNat
    let h := (handling kind cls).getD .count
    let open_ := s.pacer.opened.isSome
    let opens := decide (h = .restart) && s.running && !open_
    let s := s.history { w0 := BitVec.ofNat 32 (pword p 0), w1 := BitVec.ofNat 32 (pword p 1), w2 := BitVec.ofNat 32 (pword p 2),
                         w3 := BitVec.ofNat 32 detail, da := da, cycle := s.pacer.cycle % 2 ^ 16, restart := opens,
                         absorbed := open_ }
    let s := if kind = 0x01 then s.recordViolation da cls detail (pword p 1) else s
    let s := if kind = 0x03 then (s.flag pacerDA pgTkc 4).noteMismatch da detail else s
    let s := if opens then s.setPacer { s.pacer with opened := some s.boot.time } else s
    match h with
    | .disarm => s.requestDisarm
    | .rollback => if open_ then s else s.faultRollback (pword p 2) detail
    | _ => s

/-! ### The restart (R389, R390) -/

/-- RESTART_STROBE (R389): 32 cycles after the report that opened the restart. -/
def execRestartStrobe (s : State) : Out :=
  .next <|
    match s.pacer.opened with
    | none => s
    | some x =>
      if s.running ∧ !s.pacer.strobed ∧ x + 32 ≤ s.boot.time then
        let s := s.withholdAll.zeroAllowances
        let s := s.setKeeper { s.keeper with applying := s.pendingUnits false }
        let s := s.pacer.mismatches.foldl (fun s m =>
          if m.tick = s.tick then (s.startCapture (m.coreA / 16)).startCapture (m.coreB / 16) else s) s
        let s := s.setPacer { s.pacer with
          phase := .restarting, strobed := true, dispatched := [], walk := s.pacer.entries.length, walkNext := false,
          restarts := (s.pacer.restarts + 1) % 2 ^ 32 }
        { s.endFlips false with clearings := [] }.beginRestore
      else s

/-- R390: the restore of a die: each core's state ranges from their current generations, and on a die where a retirement is
applied the spare steps. Late arrivals and die-store writes of classes 0 and 1 are discarded. -/
def State.restoreTile (s : State) (t : Nat) : State :=
  let s := (s.place.carriers t).foldl (fun s ck =>
    let s := s.restoreRange t ck.1 ck.2 false (s.esc t ck.2 false).cur
    (s.rollbackCore t ck.1 ck.2 false).1) s
  let s := (s.keeper.applying.filter fun r => tileOfDA (refDA r) == t).foldl (fun s r => s.spareSteps r) s
  let late := fun (p : Packet) => p.dst.toNat == tileDA t && decide (p.cls.toNat < 2) && (p.opc == opWR || p.opc == opARR)
  s.setNet { s.net with
    arrived := s.net.arrived.filter fun p => !late p, queued := s.net.queued.filter fun q => !late q.p }

/-- RESTORE_ACK (R390): a tile die has restored. -/
def execRestoreAck (t : Nat) (s : State) : Out :=
  .next <|
    if s.pacer.acksWanted.contains t then
      let s := s.restoreTile t
      s.setPacer { s.pacer with acksWanted := s.pacer.acksWanted.filter (· != t), lastAck := s.boot.time }
    else s

/-- The time from which a restore is counted: the report's arrival, or the accepted ARM (R390, R444). -/
def State.restoreSince (s : State) : Option Nat := if s.pacer.phase = .armed then s.pacer.rearm else s.pacer.opened

/-- DIE_LOST (R390, R396): no acknowledgement by x + 8,180: the die's retirement is pending, and the edge at which the restart
ends applies it (R19). -/
def execDieLost (t : Nat) (s : State) : Out :=
  .next <|
    match s.restoreSince with
    | none => s
    | some x =>
      if s.pacer.acksWanted.contains t ∧ x + 8180 ≤ s.boot.time then
        let s := s.setPacer { s.pacer with
          acksWanted := s.pacer.acksWanted.filter (· != t), lastAck := max s.pacer.lastAck (x + 8180) }
        let ref := ledgerRef (tileDA t) 0x0C 0
        let s := s.setRec ref { s.ledRec ref with state := 2 }
        s.setKeeper { s.keeper with applying := nadd s.keeper.applying ref }
      else s

/-- RESTART_EDGE (R390, R391, R401): the later of the regular edge and 32 cycles after the last acknowledgement. -/
def execRestartEdge (s : State) : Out :=
  .next <|
    let p := s.pacer
    if p.phase = .restarting ∧ p.acksWanted = [] ∧ s.period ≤ p.cycle ∧ p.lastAck + 32 ≤ s.boot.time then
      if p.disarmAt then s.disarmEdge.applyRetirements false
      else
        let s := (s.revoke 0xFF 0xFF s.restartFirst 4).endGens false
        let s := (s.applyRetirements false).takeFailedLink
        let s := s.setPacer { s.pacer with opened := none, stretch := min (2 ^ 32 - 1) (s.pacer.stretch + s.stretchNow) }
        s.beginTick (s.tick + 1)
    else s

/-! ### Planned stretches (R393, R397, R411) -/

/-- PLANNED_STRETCH: at the regular edge, for a rejoin of logical core `k` of die `l`, or for the granted retirements of the
tile die that carries `l`. The edge that follows applies them. -/
def execPlannedStretch (l k : Nat) (s : State) : Out :=
  .next <|
    let p := s.pacer
    let key := 16 * l + k
    if p.phase = .running ∧ !p.strobed ∧ !p.stretching ∧ !p.disarmAt ∧ s.period ≤ p.cycle then
      if s.place.unjoined.contains key then
        s.setPacer { p with stretching := true, rejoin := [key] }
      else
        match s.physDie l with
        | none => s
        | some t =>
          let mine := s.keeper.granted.filter fun r => decide (refDA r = tileDA t)
          if mine.isEmpty then s
          else
            (s.setKeeper { s.keeper with
              applying := mine, granted := s.keeper.granted.filter fun r => decide (refDA r ≠ tileDA t) }).setPacer
                { p with stretching := true }
    else s

end Sys2Proof.Machine
end

