-- ==== Sys2Proof/Machine/Clearing.lean ====
section
/-! DEFINITION. Double entry: digests and clearing (R383 to R388, R396), the commit to escrow (R386, R401, R191), and the
transfer of adaptive layers (R190). -/

namespace Sys2Proof.Machine

def State.clearing (s : State) (t c : Nat) : Option Clearing := tget? s.clearings (coreKey t c)
def State.setClearing (s : State) (t c : Nat) (v : Clearing) : State :=
  { s with clearings := tput s.clearings (coreKey t c) v }

/-! ### Digests (R383) -/

/-- The die-store records that an entry's digest covers: first byte and length of every output record that a RELEASE of
the group gates and that lies in the entry's logical die. -/
def State.coveredRecords (s : State) (n cg : Nat) : List (Nat × Nat) :=
  let l := s.pacer.entries.filterMap fun e =>
    if e.kind == 6 && e.arg == cg then
      match edgeOf e.die with
      | some x =>
        let d := s.grp x (16 + e.obj)
        if d.dieA == n || d.dieB == n then some (d.addr, s.outLen x e.obj) else none
      | none => none
    else none
  l.foldl (fun (acc : List (Nat × Nat)) x => if acc.contains x then acc else acc ++ [x]) []

/-- The covered granules of an entry: store and byte address. -/
def State.coveredGrans (s : State) (t c n cg : Nat) : List (Sp × Nat) :=
  let (b, k) := s.stateRange t c false
  ((List.range k).map fun i => (Sp.core, b + 32 * i)) ++
    (s.coveredRecords n cg).flatMap fun r => (List.range (r.2 / 32)).map fun i => (Sp.die, r.1 + 32 * i)

/-- The unit of a covered granule's store. -/
def coverUnit (t c : Nat) (sp : Sp) : Nat := if sp = .core then coreKey t c else t

/-- R383: the CRC of one covered granule. -/
def granDigest (space addr : Nat) (data : List Byte) (poison : Bool) : Nat :=
  let c := crc64 (leBytes 8 (addr + space * 2 ^ 48 + 0xFF * 2 ^ 56) ++ data)
  if poison then 2 ^ 64 - 1 - c else c

/-- R383: the digest of an entry. -/
def State.entryDigest (s : State) (t c n cg : Nat) : Nat :=
  ((s.coveredGrans t c n cg).foldl (fun acc g =>
    let u := coverUnit t c g.1
    acc + granDigest (if g.1 = .core then 0 else 1) g.2 (s.bytesAt g.1 u g.2 32) (s.psn g.1 u g.2)) 0) % 2 ^ 64

/-- The covered-poison flag of an entry. -/
def State.entryPoison (s : State) (t c n cg : Nat) : Bool :=
  (s.coveredGrans t c n cg).any fun g => s.psn g.1 (coverUnit t c g.1) g.2

/-- The adaptive layers of a clearing group, in increasing layer index. -/
def State.groupLayers (s : State) (cg : Nat) : List Layer :=
  let l := s.keeper.layers.filter fun x => x.cgroup == cg
  (List.range 256).filterMap fun i => l.find? fun x => x.index == i

/-- The ready mask of a clearing group (R384, R191). -/
def State.readyMask (s : State) (cg : Nat) : Nat := packBits ((s.groupLayers cg).map (·.ready)) % 2 ^ 64

/-! ### Messages (R384) -/

def digestData (x : Clearing) : List Byte :=
  leBytes 4 (x.cgroup % 2 ^ 16 + 2 ^ 16 * boolNat x.poison) ++ leBytes 4 (x.tick % 2 ^ 32) ++
    leBytes 8 x.digest.toNat ++ leBytes 8 x.ready.toNat ++ leBytes 8 0

def verdictData (cg : Nat) (release single : Bool) (tick : Nat) : List Byte :=
  leBytes 4 (cg % 2 ^ 16 + 2 ^ 16 * boolNat release + 2 ^ 17 * boolNat single) ++ leBytes 4 (tick % 2 ^ 32)

/-- The dies with an output group that a RELEASE entry of the group gates. -/
def State.releaseDAs (s : State) (cg : Nat) : List Nat :=
  s.pacer.entries.foldl (fun (acc : List Nat) e => if e.kind == 6 && e.arg == cg then nadd acc e.die else acc) []

/-- An entry's verdict messages. -/
def State.sendVerdicts (s : State) (t c : Nat) (x : Clearing) (release : Bool) : State :=
  (s.releaseDAs x.cgroup).foldl (fun s da =>
    s.post (msgPkt (tileDA t) c da 0 0 0x04 (verdictData x.cgroup release x.single x.tick))) s

/-! ### Clearing (R384, R385, R388) -/

/-- The CLEAR action is complete when every present entry has handed its verdicts over. -/
def State.settleClear (s : State) (x : Clearing) : State :=
  if s.clearings.all fun y => y.2.cgroup != x.cgroup || y.2.done then s.completeEntry x.entry x.tick else s

/-- An entry withholds: its verdict messages withhold, and it does not commit. -/
def State.withholdClear (s : State) (t c : Nat) (x : Clearing) : State :=
  let x := { x with done := true }
  ((s.setClearing t c x).sendVerdicts t c x false).settleClear x

/-- R388: the first entry reports covered poison; in single-entry mode the surviving one. -/
def State.clearPoison (s : State) (t c : Nat) (x : Clearing) (cls : Nat) : State :=
  let s := if x.first || x.single then s.report (tileDA t) cls 0x04 noRef x.cgroup else s
  s.withholdClear t c x

/-- One entry latches its digest, poison flag and ready mask (R384 cycle 0). -/
def State.latchEntry (s : State) (i cg n : Nat) (first single : Bool) (t c : Nat) : State :=
  s.setClearing t c
    { cgroup := cg, first := first, entry := i, tick := s.tick, digest := BitVec.ofNat 64 (s.entryDigest t c n cg),
      poison := s.entryPoison t c n cg, ready := BitVec.ofNat 64 (s.readyMask cg), single := single, since := s.boot.time }

/-- An entry has a partner to hand its digest message to. -/
def State.awaitDigest (s : State) (t c t2 c2 : Nat) : State :=
  match s.clearing t c with
  | some x => s.setClearing t c { x with partner := some (coreKey t2 c2) }
  | none => s

/-- R384: from cycle 4 on an entry hands its digest message to its NI. -/
def State.sendDigests (s : State) : State :=
  s.clearings.foldl (fun s x =>
    match x.2.partner with
    | some k =>
      if x.2.since + 4 ≤ s.boot.time then
        (s.setClearing (x.1 / 16) (x.1 % 16) { x.2 with partner := none }).post
          (msgPkt (tileDA (x.1 / 16)) (x.1 % 16) (tileDA (k / 16)) (k % 16) 0 0x03 (digestData x.2))
      else s
    | none => s) s

/-- R396: the surviving entry judges alone. No digests are compared, so no selector flips (R191). -/
def State.clearAlone (s : State) (t c cls : Nat) : State :=
  match s.clearing t c with
  | none => s
  | some x => if x.poison then s.clearPoison t c x cls else s.setClearing t c { x with passed := true, flips := 0, passedAt := s.boot.time }

/-- CLEAR (R384). With one entry unbound the other runs in single-entry mode; with both unbound nothing clears. -/
def execClear (i : Nat) (s : State) : Out :=
  s.action i 5 true fun e s =>
    let cg := e.obj
    let nb := bits e.arg 7 0
    let kb := bits e.arg 11 8
    match s.entryCore e, s.physCore nb kb with
    | some (t, c), some (t2, c2) =>
      let s := s.latchEntry i cg e.die true false t c
      let s := s.latchEntry i cg nb false false t2 c2
      (s.awaitDigest t c t2 c2).awaitDigest t2 c2 t c
    | some (t, c), none => (s.latchEntry i cg e.die true true t c).clearAlone t c e.cls
    | none, some (t2, c2) => (s.latchEntry i cg nb false true t2 c2).clearAlone t2 c2 e.cls
    | none, none => s

/-- R384: the payload carries no reserved bit. -/
def digestOk (p : Packet) : Bool :=
  decide (dieKind p.dst.toNat = some .tile) && decide (p.dport.toNat < 9) && decide (p.len = 32) &&
  decide (pword p 0 < 2 ^ 17) && pword p 6 == 0 && pword p 7 == 0

def lo64 (p : Packet) (i : Nat) : Nat := pword p i + 2 ^ 32 * pword p (i + 1)

/-- R385: digests that differ are recorded in AUD and reported with FKIND 0x03; the report charges no unit (R395). -/
def State.clearMismatch (s : State) (t c cls : Nat) (x : Clearing) (other : Nat) : State :=
  let da := tileDA t
  let a := if x.first then x.digest.toNat else other
  let b := if x.first then other else x.digest.toNat
  let s := (s.setReg da pgAud 0x058 (a % 2 ^ 32)).setReg da pgAud 0x05C (a / 2 ^ 32)
  let s := (s.setReg da pgAud 0x060 (b % 2 ^ 32)).setReg da pgAud 0x064 (b / 2 ^ 32)
  (s.report da cls 0x03 noRef x.cgroup).withholdClear t c x

/-- DIGEST (R385): the other entry's digest arrives; the entry compares. A message of a group that the core does not clear,
or of a tick that a restart has ended, has no effect. -/
def execDigest (p : Packet) (s : State) : Out :=
  s.message p 0x03 (digestOk p) fun s =>
    let t := tileOfDA p.dst.toNat
    let c := p.dport.toNat
    match s.clearing t c with
    | none => s
    | some x =>
      if !s.running || s.pacer.strobed || x.done || x.passed || x.cgroup != bits (pword p 0) 15 0 then s
      else
        let cls := match s.ttEntry x.entry with | some e => e.cls | none => 0
        if x.poison || bit (pword p 0) 16 then s.clearPoison t c x cls
        else if lo64 p 2 ≠ x.digest.toNat then s.clearMismatch t c cls x (lo64 p 2)
        else if pword p 1 ≠ x.tick % 2 ^ 32 then s.withholdClear t c x
        else s.setClearing t c { x with passed := true, flips := x.ready &&& BitVec.ofNat 64 (lo64 p 4), passedAt := s.boot.time }

/-! ### Adaptive layers (R190, R191) -/

/-- A layer of the loaded image, replaced. -/
def State.setLayer (s : State) (v : Layer) : State :=
  s.setKeeper { s.keeper with layers := s.keeper.layers.map fun x => if x.index = v.index then v else x }

/-- The entry's side of a layer on a logical core: both copies' addresses and the selector's. -/
def Layer.side (l : Layer) (n k : Nat) : Option (Nat × Nat × Nat) :=
  if l.dieA = n ∧ l.coreA = k then some (l.copy0A, l.copy1A, l.selA)
  else if l.dieB = n ∧ l.coreB = k then some (l.copy0B, l.copy1B, l.selB)
  else none

/-- R191: the selector of an entry is flipped: once both are, the layer is no longer ready and the proposal that waits is
transferred. -/
def Layer.flip (l : Layer) (first : Bool) : Layer :=
  let l := if first then { l with doneA := true } else { l with doneB := true }
  if l.doneA && l.doneB then l.settle else l

/-- R191: the selectors of the layers that both entries report ready are flipped; the first of the commits gives the event. -/
def State.flipLayers (s : State) (t c n k : Nat) (x : Clearing) : State :=
  let l := (s.groupLayers x.cgroup).zipIdx.filter fun y => x.flips.getLsbD y.2
  l.foldl (fun s y =>
    match y.1.side n k with
    | none => s
    | some (_, _, sel) =>
      let w := s.word .core (coreKey t c) sel
      let s := s.writeAll .core (coreKey t c) sel (leBytes 4 (w ^^^ 1)) false
      let s := s.countAdapt t c 2
      let s := s.setLayer (y.1.flip (decide (y.1.dieA = n ∧ y.1.coreA = k)))
      if !y.1.doneA && !y.1.doneB then
        s.event { code := 0x11, src := y.1.dieA, unit := y.1.index, tick := s.tickWord, w2 := BitVec.ofNat 32 x.cgroup }
      else s) s

/-- LAYER_READY (R190): both transfers of an approved proposal into the inactive copies are complete; with an entry unbound they
are not. -/
def execLayerReady (layer : Nat) (s : State) : Out :=
  .next <|
    match s.keeper.layers.find? fun x => x.index == layer with
    | none => s
    | some l =>
      match l.transfer with
      | none => s
      | some data =>
        if l.ready || (s.physCore l.dieA l.coreA).isNone || (s.physCore l.dieB l.coreB).isNone then s
        else
          let put := fun (s : State) (n k : Nat) =>
            match s.physCore n k, l.side n k with
            | some (t, c), some (c0, c1, sel) =>
              let a := if bit (s.word .core (coreKey t c) sel) 0 then c0 else c1
              let s := s.writeAll .core (coreKey t c) a data false
              (s.imageGrans t c).zipIdx.foldl (fun s g =>
                if a ≤ g.1 ∧ g.1 < a + data.length then
                  s.copyGrans .core .die (coreKey t c) t g.1 (restoreBase k + 0x1C000 + 32 * g.2) 1
                else s) s
            | _, _ => s
          let s := put (put s l.dieA l.coreA) l.dieB l.coreB
          s.setLayer { l with ready := true, transfer := none }

/-! ### Commit (R386, R401) -/

/-- R401: class 2 escrow of a core is due: in the clearing of the ticks that R401 names, once. -/
def State.escrow2Now (s : State) (t k : Nat) : Bool :=
  s.running && !s.pacer.strobed && s.escrow2Due t s.tick && decide (s.period ≤ s.pacer.cycle + s.clearLen) &&
  (s.esc t k true).pend != some s.tick

/-- R384, R386: the dirty granules, those written since the generation that a commit writes was last written. -/
def State.dirtyCount (s : State) (t c k : Nat) : Nat := (s.dirty t c (1 - (s.esc t k false).cur)).length

/-- R384: the time from which an entry's commit is complete and its verdicts are handed over: compare, commit, hand-off. -/
def State.commitDue (s : State) (t c k : Nat) (x : Clearing) : Nat :=
  x.passedAt + (if x.single then 0 else 2) + 24 + (s.dirtyCount t c k + 3) / 4 + 1

/-- ESCROW_COMMIT (R386): the entry that passed its compare commits, flips its selectors and sends its verdicts; class 2
escrow that is due is taken with it. -/
def execEscrowCommit (t c : Nat) (s : State) : Out :=
  .next <|
    let k := s.place.roleOf t c
    match s.place.logical t with
    | none => s
    | some n =>
      if 8 ≤ k then s
      else
        let s := match s.clearing t c with
          | none => s
          | some x =>
            if s.running && !s.pacer.strobed && x.passed && !x.done && decide (s.commitDue t c k x ≤ s.boot.time) then
              let s := (s.flipLayers t c n k x).commitRange t c k false
              let x := { x with done := true }
              ((s.setClearing t c x).sendVerdicts t c x true).settleClear x
            else s
        if s.escrow2Now t k then s.commitRange t c k true else s

end Sys2Proof.Machine
end

