-- ==== Sys2Proof/Machine/Matrix.lean ====
section
/-! DEFINITION. The matrix commands of a quad: the combinations of R59 and R60, the charges of R416, the legality of R63,
and the arithmetic of one pass (R65 to R73, R85 to R98, R107 to R111). -/

namespace Sys2Proof.Machine

/-! ### Geometry (R59, R60) -/

/-- The modes of R60. -/
inductive MMode where
  | int | flt | fp32 | fp64
deriving DecidableEq, Repr

def fmtMode (code : Nat) : Option MMode :=
  if code ≤ 3 then some .int else if code ≤ 7 then some .flt else if code = 8 then some .fp32
  else if code = 9 then some .fp64 else none

/-- The mode tag of an accumulator row (R72). -/
def MMode.tag : MMode → AccTag
  | .int => .int
  | .flt => .fp32e
  | .fp32 => .fp32e
  | .fp64 => .fp64x

/-- R60: the output formats of a mode. -/
def MMode.outOk (m : MMode) (ofmt : Nat) : Bool :=
  match m with
  | .int => [0, 1, 2, 3, 10, 6, 7, 8].contains ofmt
  | .flt => [4, 5, 6, 7, 8].contains ofmt
  | .fp32 => [8, 6, 7].contains ofmt
  | .fp64 => [9, 8].contains ofmt

/-- K per pass, N, and r of a multiply (R59). For MQ.B16 and MQ.B8, K counts the elements of a line. -/
structure Geo where
  k : Nat
  n : Nat
  r : Nat
deriving DecidableEq, Repr

/-- R59: the executable combinations of shape, sparse form and activation width. -/
def geoOf (shape sparse width : Nat) : Option Geo :=
  match shape, sparse, width with
  | 0, 0, 8 => some ⟨32, 128, 1⟩ | 0, 0, 16 => some ⟨32, 128, 1⟩
  | 1, 0, 8 => some ⟨64, 64, 1⟩ | 1, 0, 16 => some ⟨64, 64, 1⟩
  | 2, 0, 8 => some ⟨128, 32, 1⟩ | 2, 0, 16 => some ⟨128, 32, 2⟩
  | 3, 0, 8 => some ⟨32, 128, 1⟩ | 3, 0, 16 => some ⟨32, 128, 1⟩
  | 4, 0, 8 => some ⟨32, 128, 1⟩ | 4, 0, 16 => some ⟨32, 128, 1⟩
  | 0, 1, 8 => some ⟨64, 128, 1⟩ | 0, 1, 16 => some ⟨64, 128, 1⟩
  | 0, 2, 8 => some ⟨128, 128, 1⟩ | 0, 2, 16 => some ⟨128, 128, 2⟩
  | 1, 1, 8 => some ⟨128, 64, 1⟩ | 1, 1, 16 => some ⟨128, 64, 2⟩
  | 1, 2, 8 => some ⟨256, 64, 2⟩
  | 0, 0, 32 => some ⟨32, 64, 2⟩ | 1, 0, 32 => some ⟨64, 32, 2⟩
  | 0, 0, 64 => some ⟨32, 32, 4⟩ | 1, 0, 64 => some ⟨64, 16, 4⟩
  | _, _, _ => none

/-- Modes and geometry of a multiply that R59 and R60 list. -/
def MqCmd.geo (m : MqCmd) : Option (MMode × Geo) :=
  match fmtMode m.afmt, fmtMode m.wfmt, geoOf m.shape m.sparse (fmtBits m.afmt) with
  | some a, some w, some g => if a = w ∧ a.outOk m.ofmt then some (a, g) else none
  | _, _, _ => none

/-- The block length of MQ.B16 and MQ.B8; a line's whole K otherwise. KLEN counts within it. -/
def MqCmd.block (m : MqCmd) (g : Geo) : Nat := if m.shape = 3 then 16 else if m.shape = 4 then 8 else g.k

/-- s of R65. -/
def sparseS (sparse : Nat) : Nat := 2 ^ sparse
/-- Bytes of one activation element, of a line. -/
def MqCmd.abytes (m : MqCmd) : Nat := fmtBits m.afmt / 8
def MqCmd.stride (m : MqCmd) (g : Geo) : Nat := g.k * m.abytes
/-- T of R73. -/
def MqCmd.orow (m : MqCmd) : Nat := (m.nlen * (fmtBits m.ofmt / 8) + 31) / 32 * 32
/-- R65: σ(k). -/
def MqCmd.sigma (m : MqCmd) (k : Nat) : Nat :=
  let s := sparseS m.sparse
  k % (32 * s) / (4 * s)
/-- R85: limbs of a logical weight. -/
def limbs (wfmt : Nat) : Nat := if wfmt = 8 then 2 else if wfmt = 9 then 4 else 1

/-- R74: bytes of a cell, and of an array image. -/
def cellBytes (wfmt : Nat) : Nat := if wfmt = 8 ∨ wfmt = 9 then 4 else fmtBits wfmt / 8
def arrayBytes (wfmt sparse : Nat) : Nat := 1024 * cellBytes wfmt + (if sparse = 0 then 0 else 256)
def MqCmd.loadBytes (m : MqCmd) : Nat := popcount 4 m.amask * arrayBytes m.lwfmt m.lsparse

/-! ### Charges (R416, R417) -/

/-- The charge of one stage slot of an activation width. -/
def slotCharge (width : Nat) : Nat := if width = 8 then 14 else if width = 16 then 22 else 24

/-- The array charge r × (M + 8) × the line charge. -/
def MqCmd.arrayCharge (m : MqCmd) : Nat :=
  match m.geo with
  | some (_, g) => g.r * (m.m + 8) * (48 + 32 * slotCharge (fmtBits m.afmt))
  | none => 0

/-- R417: the whole charge of a matrix command, taken at its acceptance. -/
def MqCmd.charge (m : MqCmd) : Nat :=
  if m.kind = 2 then m.arrayCharge + (if m.out then 96 * m.m else 0)
  else if m.kind = 1 then 40 * (if m.fromDie then (m.loadBytes + 63) / 64 else (m.loadBytes + 127) / 128)
  else 0

/-! ### Legality (R63) -/

/-- R63: reserved codes and fields of a multiply, its combination, its limits and the bytes it addresses. -/
def MqCmd.mulLegal (m : MqCmd) : Bool :=
  match m.geo with
  | none => false
  | some (_, g) =>
    bits m.w0.toNat 31 27 == 0 && bits m.w1.toNat 31 26 == 0 && !bit m.w2.toNat 15 && bits m.w2.toNat 31 24 == 0 &&
    !bit m.w3.toNat 15 && !bit m.w3.toNat 31 && m.rnd != 3 &&
    decide (m.m ≤ 256) && decide (m.klen ≤ m.block g) && decide (m.nlen ≤ g.n) && decide (m.accrow + m.m ≤ 256) &&
    (m.klen == 0 || decide (m.aline * 32 + (m.m + 8) * m.stride g ≤ Sp.core.size)) &&
    (!m.out || decide (m.paddr * 32 + 12 * g.n ≤ Sp.core.size)) &&
    (!m.out || m.m == 0 || m.nlen == 0 ||
      decide (m.oaddr * 32 + (m.m - 1) * m.orow + m.nlen * (fmtBits m.ofmt / 8) ≤ Sp.core.size))

/-- R63 for a weight load, but for the CLS codes of its containers (R87). -/
def MqCmd.loadLegal (m : MqCmd) : Bool :=
  bits m.w0.toNat 31 16 == 0 && bits m.w1.toNat 31 21 == 0 && m.w2 == 0 && m.w3 == 0 && m.amask != 0 &&
  decide (m.lwfmt ≤ 9) && m.lsparse != 3 && (m.wide == decide (8 ≤ m.lwfmt)) && (m.lsparse == 0 || !m.wide) &&
  decide (m.saddr * 32 + m.loadBytes ≤ if m.fromDie then Sp.die.size else Sp.core.size)

/-- R87: a limb container with the reserved CLS code. -/
def badCls (l : List Byte) : Bool := bits (leNat (l.take 4)) 31 30 == 3
def anyBadCls : Nat → List Byte → Bool
  | 0, _ => false
  | n + 1, l => badCls l || anyBadCls n (l.drop 4)

/-- The plane that a multiply uses in array Aa (R75). -/
def Quad.planeFor (q : Quad) (swap : Bool) (a : Nat) : Plane := if swap then q.shadowPlane a else q.activePlane a

/-- R63: the planes and the accumulator rows that a multiply uses fit it. -/
def Quad.fits (q : Quad) (m : MqCmd) : Bool :=
  ((List.range 4).all fun a =>
    let p := q.planeFor m.swap a
    p.valid && p.wfmt == m.wfmt && p.sparse == m.sparse) &&
  (!m.acc || match m.geo with
    | some (md, _) => (List.range m.m).all fun i => decide ((q.row (m.accrow + i)).tag = md.tag)
    | none => false)

/-! ### Weights -/

def Plane.cell (p : Plane) (row col : Nat) : Nat :=
  let n := cellBytes p.wfmt
  leNat ((p.img.drop ((row * 32 + col) * n)).take n)

/-- R108: the metadata code of a cell. -/
def Plane.code (p : Plane) (row col : Nat) : Nat :=
  bits (leNat ((p.img.drop (1024 * cellBytes p.wfmt + 8 * row)).take 8)) (2 * col + 1) (2 * col)

/-- R80: the bytes of a cell, or the metadata of its row, carry poison. -/
def Plane.cellPoison (p : Plane) (row col : Nat) : Bool :=
  let n := cellBytes p.wfmt
  ((p.psn.drop ((row * 32 + col) * n)).take n).any id ||
    (p.sparse != 0 && ((p.psn.drop (1024 * n + 8 * row)).take 8).any id)

/-- R87: the containers of a logical weight. -/
def Plane.containers (p : Plane) (row j : Nat) : List Nat :=
  let l := limbs p.wfmt
  (List.range l).map fun i => p.cell row (j * l + i)

/-- The exact value of the weight at physical row `row`, logical column `j` (R85 to R87). R87 does not say what the checks see of
a weight whose containers disagree, nor what a finite container holds whose EXP is all ones or whose LIMB has bits above its
width: SIGN, EXP and CLS are those of container 0, and EXP and all 16 bits of LIMB are taken at face value (DESIGN CHOICE,
notes/assumptions/215.md, notes/assumptions/216.md). -/
def Plane.weight (p : Plane) (row j : Nat) : Num :=
  let l := limbs p.wfmt
  if l = 1 then match fmtOf p.wfmt with | some f => f.decode (p.cell row j) | none => Num.zero
  else
    let cs := p.containers row j
    let c := cs.headD 0
    let w := if l = 2 then 12 else 14
    let sig := cs.foldl (fun acc x => acc * 2 ^ w + x % 2 ^ 16) 0
    let x := max (bits c 26 16) 1
    let neg := bit c 27
    match bits c 31 30 with
    | 0 => .fin neg sig ((x : Int) - if l = 2 then 150 else 1075)
    | 1 => .inf neg
    | _ => .nan

/-- R80, R87: the logical weight is poisoned: its bytes are, or its containers disagree. -/
def Plane.weightPoison (p : Plane) (row j : Nat) : Bool :=
  let l := limbs p.wfmt
  ((List.range l).any fun i => p.cellPoison row (j * l + i)) ||
    (decide (1 < l) &&
      let cs := p.containers row j
      let c := cs.headD 0
      !(cs.all fun x => bits x 27 16 == bits c 27 16 && bits x 31 30 == bits c 31 30) ||
        !((List.range l).all fun i => bits (cs.getD i 0) 29 28 == i))

/-- R113: the plane holds no infinite, NaN or poisoned weight in the given physical rows. -/
def Plane.soundRows (p : Plane) (rows : List Nat) : Bool :=
  rows.all fun q => (List.range (32 / limbs p.wfmt)).all fun j => (p.weight q j).isFinite && !p.weightPoison q j

/-! ### Inputs (R66, R107) -/

/-- R66: the first element of the line that array Aa receives. -/
def MqCmd.firstElem (m : MqCmd) (g : Geo) (a : Nat) : Nat :=
  if m.shape = 1 then (if a < 2 then 0 else g.k / 2) else if m.shape = 2 then a * (g.k / 4) else 0

/-- R107: the array input that a cell selects. -/
def Plane.selects (p : Plane) (row col : Nat) : Nat :=
  if p.sparse = 1 then 4 * (row / 2) + p.code row col
  else if p.sparse = 2 then 4 * row + p.code row col
  else row

/-- R66, R94: the cell of a block shape holds a weight of the shape. -/
def MqCmd.cellUsed (m : MqCmd) (row j : Nat) : Bool :=
  if m.shape = 3 then row / 16 == j / 16 else if m.shape = 4 then row / 8 == j / 8 else true

/-- R66: an element lies below KLEN, within its block. -/
def MqCmd.unmasked (m : MqCmd) (g : Geo) (k : Nat) : Bool := decide (k % m.block g < m.klen)

/-- R65: the byte address of element `k` of activation row `i`. -/
def MqCmd.elemAddr (m : MqCmd) (g : Geo) (i k : Nat) : Nat :=
  m.aline * 32 + (i + m.sigma k) * m.stride g + k * m.abytes

/-! ### One pass (R71, R88 to R94) -/

/-- R89: one addition of a mode. -/
def MMode.add (md : MMode) (x y : Num) : Num × BitVec 4 :=
  match md with
  | .int => (Num.ofInt (x.toInt + y.toInt), 0)
  | .fp64 => fFp64x.add x y
  | _ => fFp32e.add x y

/-- R88: one product of a mode. -/
def MMode.mul (md : MMode) (x y : Num) : Num × BitVec 4 :=
  match md with
  | .int => (Num.ofInt (x.toInt * y.toInt), 0)
  | .fp64 => fFp64x.mul x y
  | _ => fFp32e.mul x y

/-- A sum that carries the flags of its parts. -/
def MMode.plus (md : MMode) (x y : Num × BitVec 4) : Num × BitVec 4 :=
  let r := md.add x.1 y.1
  (r.1, x.2 ||| y.2 ||| r.2)

/-- R71 items 1 and 2: the column sum of 32 products. -/
def MMode.column (md : MMode) (p : Nat → Num × BitVec 4) : Num × BitVec 4 :=
  let t := fun s => md.plus (md.plus (p (4 * s)) (p (4 * s + 1))) (md.plus (p (4 * s + 2)) (p (4 * s + 3)))
  [1, 2, 3, 4, 5, 6, 7].foldl (fun c s => md.plus c (t s)) (t 0)

/-- The value of a mode's accumulator format that the bits `k` spell: every value of the format is one. -/
def MMode.spell (md : MMode) (k : Nat) : Num :=
  match md with
  | .int => Num.ofInt (sext 56 k)
  | .fp64 => (fFp64x.hold (fFp64x.decode (k % 2 ^ 79))).1
  | _ => (fFp32e.hold (fFp32e.decode (k % 2 ^ 34))).1

/-- A value of a mode that the spec does not state: any value its accumulator format holds. -/
def MMode.freeVal (md : MMode) (k : Nat) : Num := md.spell (Config.freeNat k)

/-- R82: one bit of a product flipped. An integer product flips in two's complement; the bits of a float product are
not stated, so its disturbed value is free. -/
def MMode.flip (md : MMode) (free : Nat) (b : Nat) (x : Num × BitVec 4) : Num × BitVec 4 :=
  match md with
  | .int =>
    let v := x.1.toInt
    (Num.ofInt (if bit (wrap 34 v) b then v - 2 ^ b else v + 2 ^ b), x.2)
  | _ => (md.freeVal free, x.2)

/-- What a pass reads: the raw line elements of activation row `i`. -/
def State.elem (s : State) (t c : Nat) (m : MqCmd) (g : Geo) (i k : Nat) : Nat :=
  leNat (s.bytesAt .core (coreKey t c) (m.elemAddr g i k) m.abytes)

/-- The product of one cell (R88, R94), disturbed where an injection names it. -/
def State.product (s : State) (t c : Nat) (m : MqCmd) (md : MMode) (g : Geo) (pl : Plane) (a i row j : Nat)
    (inj : List Inject) : Num × BitVec 4 :=
  let k := m.firstElem g a + pl.selects row (j * limbs m.wfmt)
  let x := if m.cellUsed row j && m.unmasked g k then
      match fmtOf m.afmt with
      | some f => md.mul (f.decode (s.elem t c m g i k)) (pl.weight row j)
      | none => (Num.zero, 0)
    else (Num.zero, 0)
  inj.foldl (fun x z =>
    if z.array = a ∧ z.row = row ∧ z.col / limbs m.wfmt = j ∧ z.m = i ∧ z.col < 32 then md.flip s.free z.bit x else x) x

/-- The column sum of array Aa, logical column `j`, activation row `i`. -/
def State.colOut (s : State) (t c : Nat) (m : MqCmd) (md : MMode) (g : Geo) (q : Quad) (inj : List Inject)
    (a i j : Nat) : Num × BitVec 4 :=
  md.column fun row => s.product t c m md g (q.planeFor m.swap a) a i row j inj

/-- The arrays and logical column that output `n` sums (R66). -/
def MqCmd.sources (m : MqCmd) (g : Geo) (n : Nat) : List Nat × Nat :=
  if m.shape = 1 then
    let a := n / (g.n / 2)
    ([a, a + 2], n % (g.n / 2))
  else if m.shape = 2 then ([0, 1, 2, 3], n)
  else ([n / (g.n / 4)], n % (g.n / 4))

/-- The pass result of output `n` of row `i` (R71 item 3). -/
def State.passOut (s : State) (t c : Nat) (m : MqCmd) (md : MMode) (g : Geo) (q : Quad) (inj : List Inject)
    (i n : Nat) : Num × BitVec 4 :=
  let col := fun a j => s.colOut t c m md g q inj a i j
  match m.sources g n with
  | ([a], j) => col a j
  | ([a, b], j) => md.plus (col a j) (col b j)
  | (_, j) => md.plus (md.plus (col 0 j) (col 1 j)) (md.plus (col 2 j) (col 3 j))

/-- R80: an element that the multiply uses in row `i` carries poison. -/
def State.rowPoison (s : State) (t c : Nat) (m : MqCmd) (g : Geo) (i : Nat) : Bool :=
  (List.range g.k).any fun k =>
    m.unmasked g k && s.psnAny .core (coreKey t c) (m.elemAddr g i k) m.abytes

/-- R80: a cell that output `n` uses is poisoned. -/
def MqCmd.outPoison (m : MqCmd) (g : Geo) (q : Quad) (n : Nat) : Bool :=
  let (as, j) := m.sources g n
  as.any fun a => (List.range 32).any fun row => m.cellUsed row j && (q.planeFor m.swap a).weightPoison row j

/-- R90, R91: the accumulator update of one entry, with its flags. -/
def MMode.accumulate (md : MMode) (old pass : Num) : Num × BitVec 4 :=
  match md with
  | .int =>
    let r := addSat56 old.toInt pass.toInt
    (Num.ofInt r.1, r.2)
  | _ => md.add old pass

/-- The words of a command, for the values that depend on it alone. -/
def MqCmd.words (m : MqCmd) : List Nat := [m.w0.toNat, m.w1.toNat, m.w2.toNat, m.w3.toNat]

/-- A value as numbers. -/
def Num.code : Num → List Nat
  | .fin neg m e => [0, boolNat neg, m, e.natAbs, boolNat (decide (e < 0))]
  | .inf neg => [1, boolNat neg]
  | .nan => [2]

/-- The entries at or above N of a row that a multiply with ACC = 0 writes: they keep their values under an unchanged tag;
under another mode's tag, what they hold is not stated, and any value of the format that depends on the command, the row and
the entry's old value (R96, notes/assumptions/36.md); whether their failed and poison marks survive then is not stated either:
the model clears them (DESIGN CHOICE, notes/assumptions/212.md). -/
def MqCmd.restRow (m : MqCmd) (md : MMode) (g : Geo) (old : AccRow) (i : Nat) : Table AccEnt :=
  if old.tag = md.tag then old.ent.filter (fun x => decide (g.n ≤ x.1))
  else (List.range (128 - g.n)).map fun n =>
    let o : AccEnt := tget old.ent (g.n + n) {}
    (g.n + n, ({ val := md.spell (Config.openNat (m.words ++ [i, n] ++ o.val.code)) } : AccEnt))

/-- The new entries of accumulator row `i` of a pass, and the flags raised. -/
def State.accRow (s : State) (t c : Nat) (m : MqCmd) (md : MMode) (g : Geo) (q : Quad) (inj : List Inject)
    (wp : List Bool) (i : Nat) : AccRow × BitVec 4 :=
  let old := q.row (m.accrow + i)
  let rp := s.rowPoison t c m g i
  let new := (List.range g.n).map fun n =>
    let p := s.passOut t c m md g q inj i n
    let o : AccEnt := tget old.ent n {}
    let v := if m.acc then md.accumulate o.val p.1 else (p.1, 0)
    (n, ({ val := v.1, failed := m.acc && o.failed,
           poison := rp || wp.getD n false || (m.acc && o.poison) } : AccEnt), p.2 ||| v.2)
  ({ tag := md.tag, ent := (new.map fun x => (x.1, x.2.1)) ++ m.restRow md g old i }, new.foldl (fun f x => f ||| x.2.2) 0)

/-! ### Checks (R76 to R78) -/

/-- R78: the arithmetic of the checks: exact in integer mode, fp32e in all others. -/
def MMode.chk : MMode → MMode
  | .int => .int
  | _ => .fp32

/-- A sum formed in the order of the list from +0, each addition rounded as the mode says: so a sum of one term is held in the
format of the mode too (R76, R77; notes/assumptions/226.md). -/
def MMode.sum (md : MMode) (l : List Num) : Num := l.foldl (fun a y => (md.add a y).1) Num.zero

def Num.abs : Num → Num
  | .fin _ m e => .fin false m e
  | .inf _ => .inf false
  | .nan => .nan

/-- R80: a logical column of array Aa that uses a poisoned cell. -/
def MqCmd.colPoison (m : MqCmd) (pl : Plane) (j : Nat) : Bool :=
  (List.range 32).any fun row => m.cellUsed row j && pl.weightPoison row j

/-- The logical columns of an array that the checks take in: those without poison. -/
def MqCmd.chkCols (m : MqCmd) (pl : Plane) : List Nat :=
  (List.range (32 / limbs m.wfmt)).filter fun j => !m.colPoison pl j

/-- The activation rows that the checks take in: those without poison. -/
def State.chkRows (s : State) (t c : Nat) (m : MqCmd) (g : Geo) : List Nat :=
  (List.range m.m).filter fun i => !s.rowPoison t c m g i

/-- R76, R109: the checksum weight of array input `i`. -/
def MqCmd.chkWeight (m : MqCmd) (md : MMode) (pl : Plane) (i : Nat) : Num :=
  md.chk.sum <| (m.chkCols pl).flatMap fun j =>
    ((List.range 32).filter fun row => m.cellUsed row j && pl.selects row (j * limbs m.wfmt) == i).map fun row => pl.weight row j

/-- The value of array input `i` of array Aa in activation row `r`; none where it is masked (R66). -/
def State.input (s : State) (t c : Nat) (m : MqCmd) (g : Geo) (a r i : Nat) : Option Num :=
  let k := m.firstElem g a + i
  match fmtOf m.afmt with
  | some f => if m.unmasked g k then some (f.decode (s.elem t c m g r k)) else none
  | none => none

/-- R76: C_m, the output of the checksum column for activation row `r`. -/
def State.chkCol (s : State) (t c : Nat) (m : MqCmd) (md : MMode) (g : Geo) (pl : Plane) (inj : List Inject)
    (a r : Nat) : Num :=
  let n := sparseS m.sparse
  (md.chk.column fun q =>
    let x := md.chk.sum <| (List.range n).map fun d =>
      match s.input t c m g a r (n * q + d) with
      | some v => (md.chk.mul (m.chkWeight md pl (n * q + d)) v).1
      | none => Num.zero
    inj.foldl (fun x z => if z.array = a ∧ z.row = q ∧ z.col = 32 ∧ z.m = r then md.flip s.free z.bit x else x) (x, 0)).1

/-- R77: element `i` of the checksum row. -/
def State.chkElem (s : State) (t c : Nat) (m : MqCmd) (md : MMode) (g : Geo) (a i : Nat) : Num :=
  let v := md.chk.sum ((s.chkRows t c m g).filterMap fun r => s.input t c m g a r i)
  match md with
  | .int => Num.ofInt (v.toInt % 2 ^ 16)
  | _ => v

/-- R77: R_j, the checksum-row output of logical column `j`. -/
def State.chkRow (s : State) (t c : Nat) (m : MqCmd) (md : MMode) (g : Geo) (pl : Plane) (inj : List Inject)
    (a j : Nat) : Num :=
  (md.chk.column fun row =>
    let i := pl.selects row (j * limbs m.wfmt)
    let x := if m.cellUsed row j && m.unmasked g (m.firstElem g a + i)
      then md.chk.mul (s.chkElem t c m md g a i) (pl.weight row j) else (Num.zero, 0)
    inj.foldl (fun x z =>
      if z.array = a ∧ z.row = row ∧ z.col / limbs m.wfmt = j ∧ z.m = m.m ∧ z.col < 32 then md.flip s.free z.bit x else x) x).1

/-- R78: the sum of the magnitudes of the products of one activation row and logical column. -/
def State.chkMag (s : State) (t c : Nat) (m : MqCmd) (md : MMode) (g : Geo) (pl : Plane) (inj : List Inject)
    (a r j : Nat) : Num :=
  (md.chk.column fun row => ((s.product t c m md g pl a r row j inj).1.abs, 0)).1

/-- What a check compares: the checksum's value, the sum of the outputs, and A, the sum of the magnitudes of the products. -/
structure Compared where
  chk : Num
  sum : Num
  mag : Num
deriving DecidableEq, Repr

/-- R78: two compared sums differ: by more than 2^-14 of A outside integer mode, where only finite values are compared; in
integer mode modulo `mod`, where that is not 0. -/
def MMode.differ (md : MMode) (x : Compared) (mod : Int) : Bool :=
  match md with
  | .int => decide ((x.chk.toInt - x.sum.toInt) % mod ≠ 0)
  | _ => x.chk.isFinite && x.sum.isFinite && x.mag.isFinite &&
      (x.chk.addX x.sum.neg).abs.cmpX (x.mag.mulX (.fin false 1 (-14))) == 1

/-- R78: the flags that report values which are not finite and so not compared: NVI for a NaN, OVF for an infinity
(notes/assumptions/227.md). -/
def Compared.flags (x : Compared) : BitVec 4 :=
  let l := [x.chk, x.sum, x.mag]
  (if l.any (·.isNan) then flNVI else 0) ||| if l.any fun y => !y.isFinite && !y.isNan then flOVF else 0

/-- R78: what the column check of array Aa compares for activation row `r`. -/
def State.colSums (s : State) (t c : Nat) (m : MqCmd) (md : MMode) (g : Geo) (q : Quad) (inj : List Inject) (a r : Nat) :
    Compared :=
  let pl := q.planeFor m.swap a
  let cols := m.chkCols pl
  { chk := s.chkCol t c m md g pl inj a r
    sum := md.chk.sum (cols.map fun j => (s.colOut t c m md g q inj a r j).1)
    mag := md.chk.sum (cols.map fun j => s.chkMag t c m md g pl inj a r j) }

/-- R78: what the row check of array Aa compares for logical column `j`. -/
def State.rowSums (s : State) (t c : Nat) (m : MqCmd) (md : MMode) (g : Geo) (q : Quad) (inj : List Inject) (a j : Nat) :
    Compared :=
  let pl := q.planeFor m.swap a
  let rows := s.chkRows t c m g
  { chk := s.chkRow t c m md g pl inj a j
    sum := md.chk.sum (rows.map fun r => (s.colOut t c m md g q inj a r j).1)
    mag := md.chk.sum (rows.map fun r => s.chkMag t c m md g pl inj a r j) }

/-- R78: the arrays that fail a check of a pass with an injection. A pass without a fault never fails one. -/
def State.checks (s : State) (t c : Nat) (m : MqCmd) (md : MMode) (g : Geo) (q : Quad) (inj : List Inject) :
    List CheckFail :=
  if inj.isEmpty then []
  else (List.range 4).filterMap fun a =>
    let f : CheckFail := ⟨a, (s.chkRows t c m g).filter fun r => md.differ (s.colSums t c m md g q inj a r) 0,
      (m.chkCols (q.planeFor m.swap a)).filter fun j => md.differ (s.rowSums t c m md g q inj a j) (2 ^ 16)⟩
    if f.rows.isEmpty && f.cols.isEmpty then none else some f

/-- R78: the flags of the values that the checks of a pass do not compare. A pass without a row that is checked, or an array
without a column that is, compares nothing. -/
def State.chkFlags (s : State) (t c : Nat) (m : MqCmd) (md : MMode) (g : Geo) (q : Quad) (inj : List Inject) : BitVec 4 :=
  let rows := s.chkRows t c m g
  if md = .int ∨ rows.isEmpty then 0
  else (List.range 4).foldl (fun f a =>
    let cols := m.chkCols (q.planeFor m.swap a)
    if cols.isEmpty then f
    else cols.foldl (fun f j => f ||| (s.rowSums t c m md g q inj a j).flags)
      (rows.foldl (fun f r => f ||| (s.colSums t c m md g q inj a r).flags) f)) 0

/-! ### Output stage (R73, R97, R98) -/

/-- The bias container of output `n`. -/
def biasOf (md : MMode) (w : Nat) : Num :=
  match md with
  | .int => Num.ofInt (sext 56 w)
  | .fp64 => fFp64.decode w
  | _ => fFp32e.decode (w % 2 ^ 34)

def rndOf (code : Nat) : Rnd := if code = 1 then .zero else if code = 2 then .stoch else .near

/-- One output element: its encoding and flags; `u` is the draw of R99. -/
def MqCmd.outElem (m : MqCmd) (acc scale bias : Num) (u : Nat) : Nat × BitVec 4 :=
  match fmtOf m.ofmt with
  | some f => f.encode (rndOf m.rnd) m.ovm u ((acc.mulX scale).addX bias)
  | none => (0, 0)

/-- The elements of output row `i` from output `n` on: bytes, poison, flags, and the generator after them (R101). Whether a
poisoned scale or bias granule poisons an output is not stated, and open for each output (notes/assumptions/37.md). -/
def State.outRow (s : State) (t c : Nat) (m : MqCmd) (md : MMode) (g : Geo) (i : Nat) (row : AccRow) :
    Nat → Nat → Word → List (List Byte × Bool) × BitVec 4 × Word
  | 0, _, l => ([], 0, l)
  | k + 1, n, l =>
    let l := if m.rnd = 2 then lfsrNext l else l
    let u := coreKey t c
    let e : AccEnt := tget row.ent n {}
    let sa := m.paddr * 32 + 4 * n
    let ba := m.paddr * 32 + 4 * g.n + 8 * n
    let scale := fFp32.decode (s.word .core u sa)
    let bias := biasOf md (leNat (s.bytesAt .core u ba 8))
    let v := m.outElem e.val scale bias (l.toNat % 2 ^ 16)
    let pp := s.psn .core u sa || s.psn .core u ba
    let r := s.outRow t c m md g i row k (n + 1) l
    ((leBytes (fmtBits m.ofmt / 8) v.1, e.poison || e.failed || (pp && Config.openBool (m.words ++ [i, n]))) :: r.1,
      v.2 ||| r.2.1, r.2.2)

/-- The elements of one row cut into writes of one granule each, poisoned where an element is (R80, R477). -/
def granWrites (per : Nat) : Nat → Nat → List (List Byte × Bool) → List OutWrite
  | 0, _, _ => []
  | fuel + 1, addr, l =>
    if l.isEmpty then []
    else
      let x := l.take per
      { addr := addr, bytes := (x.map (·.1)).flatten, poison := x.any (·.2) } :: granWrites per fuel (addr + 32) (l.drop per)

/-- The output writes of rows `i` on, their flags, and the generator after them. -/
def State.outRows (s : State) (t c : Nat) (m : MqCmd) (md : MMode) (g : Geo) (q : Quad) :
    Nat → Nat → Word → List OutWrite × BitVec 4 × Word
  | 0, _, l => ([], 0, l)
  | k + 1, i, l =>
    let w := fmtBits m.ofmt / 8
    let r := s.outRow t c m md g i (q.row (m.accrow + i)) m.nlen 0 l
    let rest := s.outRows t c m md g q k (i + 1) r.2.2
    (granWrites (32 / w) (m.nlen + 1) (m.oaddr * 32 + i * m.orow) r.1 ++ rest.1, r.2.1 ||| rest.2.1, rest.2.2)

/-! ### Zero slots and zero blocks (R111 to R115) -/

/-- R111: the element counts as zero. -/
def MqCmd.elemZero (m : MqCmd) (raw : Nat) : Bool :=
  let w := fmtBits m.afmt
  if m.afmt ≤ 3 then raw == 0 else raw % 2 ^ (w - 1) == 0

/-- The zero slots of one activation row in one stage of one array: 0, or one per limb cycle. -/
def State.zeroSlot (s : State) (t c : Nat) (m : MqCmd) (g : Geo) (q : Quad) (i a st : Nat) : Nat :=
  let n := 4 * sparseS m.sparse
  let ks := (List.range n).map fun x => m.firstElem g a + n * st + x
  let rows := (List.range 4).map fun x => 4 * st + x
  if (ks.all fun k => !m.unmasked g k ||
        (m.elemZero (s.elem t c m g i k) && !s.psnAny .core (coreKey t c) (m.elemAddr g i k) m.abytes)) &&
      (q.planeFor m.swap a).soundRows rows
  then limbs m.wfmt else 0

/-- The zero slots of a multiply that runs. With KLEN = 0 every element is forced to zero, and the slots of rows 0 to M − 1 are
counted although no line is read: R64 changes no timing, so their line cycles pass (notes/assumptions/192.md). -/
def State.zeroSlots (s : State) (t c : Nat) (m : MqCmd) (g : Geo) (q : Quad) : Nat :=
  ((List.range m.m).map fun i => ((List.range 4).map fun a =>
    ((List.range 8).map fun st => s.zeroSlot t c m g q i a st).sum).sum).sum

/-- R114, R115 item 5: every granule of the test region has its zero tag at 1. -/
def State.zeroRegion (s : State) (t c : Nat) (m : MqCmd) (g : Geo) : Bool :=
  (List.range m.m).all fun i => (List.range g.k).all fun k =>
    !m.unmasked g k || s.zeroTags.contains (gGran .core (coreKey t c) (m.elemAddr g i k))

/-- R115 but for item 6: the multiply may be skipped. With KLEN = 0 the test region is empty, and the multiply may be skipped
(notes/assumptions/192.md). -/
def State.skippable (s : State) (t c : Nat) (m : MqCmd) (g : Geo) (q : Quad) : Bool :=
  m.skip && !m.noSkip && decide (8 ≤ m.m) &&
    ((List.range 4).all fun a => (q.planeFor m.swap a).clean) && s.zeroRegion t c m g

/-- R69: the command may continue the chain of the one before it. -/
def MqCmd.chains (m prev : MqCmd) (g : Geo) : Bool :=
  m.shape == prev.shape && m.sparse == prev.sparse && m.afmt == prev.afmt && m.wfmt == prev.wfmt &&
    m.aline * 32 == prev.aline * 32 + (prev.m + 1) * m.stride g

end Sys2Proof.Machine
end

