-- ==== Sys2Proof/Machine/Quad.lean ====
section
/-! DEFINITION. The commands of the matrix quad: MATRIX_MULTIPLY, WEIGHT_LOAD, MATRIX_NOP, MULTIPLY_COMPLETE,
WEIGHT_LOAD_COMPLETE and MATRIX_CHECK (R63 to R82, R111 to R118, R381). -/

namespace Sys2Proof.Machine

def State.quad (s : State) (t c : Nat) : Quad := (s.core t c).quad
def State.setQuad (s : State) (t c : Nat) (q : Quad) : State := s.updCore t c fun k => { k with quad := q }

/-- R147, R149: a refused command raises a matrix fault event of its class. -/
def State.refuseCmd (s : State) (t c : Nat) (m : MqCmd) : State :=
  let s := s.flag (tileDA t) (pgMq c) 2
  let s := s.updBank t c m.cls fun b => { b with outM := b.outM - 1 }
  s.faultProgram t c m.cls sfMQ (s.bank t c m.cls).pc.toNat

/-- R80: a poisoned operand sets POISON_IN. -/
def State.poisonIn (s : State) (t c : Nat) (b : Bool) : State := if b then s.flag (tileDA t) (pgMq c) 3 else s

/-- The command at the front of the queue may leave it: it has entered it (R150), or no class issues any more. -/
def State.queueHead (s : State) (t c : Nat) : Option (MqCmd × List MqCmd) :=
  let k := s.core t c
  match k.quad.queue with
  | m :: r => if k.reached m.due then some (m, r) else none
  | [] => none

/-- R67: the activation lines of `m` overlap the output rows of an earlier multiply. -/
def MqCmd.overlaps (m : MqCmd) (g : Geo) (e : MqCmd) : Bool :=
  e.out && decide (e.oaddr * 32 < m.aline * 32 + (m.m + 8) * m.stride g) &&
    decide (m.aline * 32 < e.oaddr * 32 + e.m * e.orow)

/-- R67: a multiply may read its line 0. -/
def Quad.mulReady (q : Quad) (m : MqCmd) (g : Geo) : Bool :=
  (!m.swap || q.load.isNone) && q.muls.all fun e => !m.overlaps g e.cmd

/-- R75: a SWAP exchanges the planes of all four arrays. -/
def Quad.swapped (q : Quad) (swap : Bool) : Quad := if swap then { q with active := ~~~q.active } else q

/-- The accumulator rows of a pass put in place. -/
def Quad.putRows (q : Quad) : Nat → List AccRow → Quad
  | _, [] => q
  | r, x :: rest => { q with acc := tput q.acc r x }.putRows (r + 1) rest

/-- The flags raised by rows of a pass. -/
def rowFlags (l : List (AccRow × BitVec 4)) : BitVec 4 := l.foldl (fun f x => f ||| x.2) 0

/-- R116: accumulator row `i` of a skipped multiply: entries +0 with ACC = 0; unchanged with ACC = 1, with the flags that the
addition of +0 to its entries raises in a multiply that runs (R93, R95; notes/assumptions/190.md). -/
def MqCmd.zeroRow (m : MqCmd) (md : MMode) (g : Geo) (old : AccRow) (i : Nat) : AccRow × BitVec 4 :=
  if m.acc then
    (old, (List.range g.n).foldl (fun f n =>
      let o : AccEnt := tget old.ent n {}
      f ||| (md.accumulate o.val Num.zero).2) 0)
  else ({ tag := md.tag, ent := m.restRow md g old i }, 0)

/-- A multiply that runs from accumulator rows and planes as `q` holds them, with the products `inj` disturbed: the quad with
its rows, its plane swaps, the multiply with its outputs, flags and checks, and the generator after it (R71, R73, R78, R101). -/
def State.formMul (s : State) (t c : Nat) (m : MqCmd) (md : MMode) (g : Geo) (q : Quad) (inj : List Inject) (skip : Bool)
    (lfsr : Word) : Quad × MulExec × Word :=
  let wp := (List.range g.n).map fun n => m.outPoison g q n
  let rows := (List.range m.m).map fun i =>
    if skip then m.zeroRow md g (q.row (m.accrow + i)) i
    else s.accRow t c m md g q inj wp i
  let q1 := (q.putRows m.accrow (rows.map (·.1))).swapped m.swap
  let o := if m.out then s.outRows t c m md g q1 m.m 0 lfsr else ([], 0, lfsr)
  (q1, { cmd := m, outs := o.1, refund := 0, lfsr0 := lfsr, skipped := skip, rows := m.m, injs := inj
         flags := rowFlags rows ||| o.2.1 ||| if skip then 0 else s.chkFlags t c m md g q inj
         fails := s.checks t c m md g q inj, before := (List.range m.m).map fun i => q.row (m.accrow + i) }, o.2.2)

/-- FAULT_INJECT as it is armed in a lifecycle that permits injection, 0 otherwise (R82). A write of this core cycle
arms from the next on (R31). -/
def State.armed (s : State) (t c : Nat) : Nat :=
  let w := s.reg (tileDA t) (pgMq c) 0x01C
  if s.injectable && bit w 18 && !s.hostHolds (regKey (tileDA t) (pgMq c) 0x01C 0) then w else 0

/-- The cell and the bit that FAULT_INJECT names, in activation row `i`. A COLUMN of 33 to 63 names no column: its injection
disturbs nothing (DESIGN CHOICE, notes/assumptions/214.md). -/
def injectAt (w i : Nat) : Inject := { array := bits w 1 0, row := bits w 12 8, col := bits w 7 2, bit := bits w 17 13, m := i }

/-- R82: a product of activation row `i` of the multiply that left the queue last is disturbed: the multiply is formed again
from the rows that it found (notes/assumptions/38.md). -/
def State.disturb (s : State) (t c w i : Nat) : State :=
  let q := s.quad t c
  match q.muls.getLast? with
  | none => s
  | some e =>
    match e.cmd.geo with
    | none => s
    | some (md, g) =>
      if e.skipped ∨ e.cmd.m < i then s
      else
        let q0 := (q.putRows e.cmd.accrow e.before).swapped e.cmd.swap
        let r := s.formMul t c e.cmd md g q0 (injectAt w i :: e.injs) false e.lfsr0
        s.setQuad t c { q with acc := r.1.acc, muls := q.muls.dropLast ++ [{ r.2.1 with refund := e.refund, lines := e.lines }] }

/-- R82: what an armed FAULT_INJECT does to the next line, `l` of the multiply that left the queue last: stage s of the arrays
works on activation row l − s in it (R65); a stage with no row of the multiply disturbs nothing. -/
def State.hitLine (s : State) (t c l : Nat) : State :=
  let w := s.armed t c
  let st := bits w 12 10
  let s := s.setReg (tileDA t) (pgMq c) 0x01C (clrBit (s.reg (tileDA t) (pgMq c) 0x01C) 18)
  if st ≤ l then s.disturb t c w (l - st) else s

/-- R82: FAULT_INJECT is armed while a multiply executes: it still reads lines or no longer does, and which line it reads next is
free. -/
def State.armNow (s : State) (t c : Nat) : State :=
  match (s.quad t c).muls.getLast? with
  | some e =>
    if s.armed t c = 0 ∨ e.lines = 0 ∨ !Config.freeBool s.free then s.draw
    else
      let n := Config.freeNat (s.free + 1) % (e.cmd.m + 8)
      (s.hitLine t c n).draw.draw
  | none => s

/-- R127: a write to SEQ_SKIP_CTRL governs the commands that enter the queue after it: those issued that have not entered it yet
(R150) take the new setting. -/
def State.latchSkip (s : State) (t c : Nat) : State :=
  let w := s.reg (tileDA t) (pgSeq c) 0x06C
  s.updCore t c fun k =>
    let late := fun (m : MqCmd) => if k.reached (m.due - 1) then m else { m with noSkip := bit w 0, noGate := bit w 1 }
    { k with quad := { k.quad with queue := k.quad.queue.map late } }

/-- R69: the multiply continues the chain of the one before it: where its lines and times allow it, which is free. -/
def State.chained (s : State) (t c : Nat) (m : MqCmd) (g : Geo) : Bool :=
  match (s.quad t c).lastMul with
  | some p => m.chains p g && Config.freeBool (s.free + 1)
  | none => false

/-- R82: the armed injection as a multiply `m` reads its line 0, the next line. In a chain the later stages still work on rows
of the multiply before it in that line (R69). -/
def State.chainHit (s : State) (t c : Nat) (m : MqCmd) (g : Geo) : State :=
  let w := s.armed t c
  if w = 0 ∨ bits w 12 10 = 0 ∨ m.klen = 0 ∨ !s.chained t c m g then s
  else match (s.quad t c).muls.getLast? with
    | some e => s.hitLine t c (e.cmd.m + 1)
    | none => s

/-- The injection that a multiply takes up at its line 0 (R82): stage 0 works on its row 0. -/
def State.injection (s : State) (t c : Nat) (m : MqCmd) : List Inject :=
  let w := s.armed t c
  if w ≠ 0 ∧ bits w 12 10 = 0 ∧ m.klen ≠ 0 then [injectAt w 0] else []

/-- A multiply that has passed its checks leaves the queue: skipped (R116) or run (R71), with its outputs formed. -/
def State.runMul (s : State) (t c : Nat) (m : MqCmd) (md : MMode) (g : Geo) : State :=
  let da := tileDA t
  let skip := s.skippable t c m g (s.quad t c) && ((s.quad t c).load.isNone || Config.freeBool s.free)
  let s := if skip then s else s.chainHit t c m g
  let q := s.quad t c
  let inj := if skip then [] else s.injection t c m
  let r := s.formMul t c m md g q inj skip (s.bank t c m.cls).lfsr
  let pin := !skip && ((decide (0 < m.m) && (List.range g.n).any fun n => m.outPoison g q n) ||
    (List.range m.m).any fun i => s.rowPoison t c m g i)
  let slots := if skip ∨ m.noGate then 0 else s.zeroSlots t c m g q
  let lines := if skip ∨ m.klen = 0 then 0 else g.r * if s.chained t c m g then m.m + 1 else m.m + 8
  let ex := { r.2.1 with lines := lines, refund := if skip then m.arrayCharge else slots * slotCharge (fmtBits m.afmt) }
  let s := s.setQuad t c { r.1 with muls := r.1.muls ++ [ex], lastMul := if skip then none else some m }
  let s := s.updBank t c m.cls fun b => { b with lfsr := r.2.2 }
  let s := s.poisonIn t c pin
  let s := if skip then s.incReg da (pgSeq c) 0x070 else s
  let s := if slots = 0 then s else s.incReg64 da (pgSeq c) 0x074 slots
  let s := if lines = 0 ∨ s.armed t c = 0 then s
    else s.setReg da (pgMq c) 0x01C (clrBit (s.reg da (pgMq c) 0x01C) 18)
  { s with free := s.free + 2 }

/-- MATRIX_MULTIPLY (R69): the multiply at the front of the queue leaves it; R63 refuses one that does not fit. A SWAP waits
for the weight load that still fills the planes it will use (R67), and only then is held against them (R63, R75). -/
def execMatrixMultiply (t c : Nat) (s : State) : Out :=
  .next <| match s.queueHead t c with
    | none => s
    | some (m, r) =>
      if m.kind ≠ 2 then s
      else
        let q := s.quad t c
        let s1 := s.setQuad t c { q with queue := r }
        match m.geo with
        | some (md, g) =>
          if !m.mulLegal then s1.refuseCmd t c m
          else if m.swap && q.load.isSome then s
          else if !q.fits m then s1.refuseCmd t c m
          else if q.mulReady m g then s1.runMul t c m md g else s
        | none => s1.refuseCmd t c m

/-- WEIGHT_LOAD (R67, R74): the load at the front of the queue starts when the loader is free. -/
def execWeightLoad (t c : Nat) (s : State) : Out :=
  .next <| match s.queueHead t c with
    | none => s
    | some (m, r) =>
      if m.kind ≠ 1 then s
      else
        let q := s.quad t c
        let u := if m.fromDie then t else coreKey t c
        let sp := if m.fromDie then Sp.die else Sp.core
        let s1 := s.setQuad t c { q with queue := r }
        if !m.loadLegal then s1.refuseCmd t c m
        else
          let img := s.bytesAt sp u (m.saddr * 32) m.loadBytes
          if m.wide && anyBadCls (img.length / 4) img then s1.refuseCmd t c m
          else if q.load.isSome then s
          else
            let psn := (List.range m.loadBytes).map fun i => s.psn sp u (m.saddr * 32 + i)
            (if m.fromDie then s1.arbWait t m.cls else s1).setQuad t c
              { q with queue := r, load := some m, loadImg := img, loadPsn := psn }

/-- MATRIX_NOP (R61): a NOP completes at once; a reserved KIND or a NOP with another bit set is refused (R63). -/
def execMatrixNop (t c : Nat) (s : State) : Out :=
  .next <| match s.queueHead t c with
    | none => s
    | some (m, r) =>
      if m.kind = 1 ∨ m.kind = 2 then s
      else
        let s1 := s.setQuad t c { s.quad t c with queue := r }
        if m.kind = 0 ∧ m.w0 = 0 ∧ m.w1 = 0 ∧ m.w2 = 0 ∧ m.w3 = 0 then
          (s1.updBank t c m.cls fun b => { b with outM := b.outM - 1 }).incReg (tileDA t) (pgMq c) 0x044
        else s1.refuseCmd t c m

/-- R69, R117: a multiply `x` may complete before the older multiply `e`. A skipped one with OUT = 0 completes at T + 1, one with
OUT = 1 at T + M + 28, and T rises in queue order; one that runs completes r × (M + 8) + 58 cycles after it left the queue.
Failed checks of `e` are reported before (R79). -/
def MulExec.passes (x e : MulExec) : Bool :=
  e.fails.isEmpty &&
    if x.skipped && !x.cmd.out then !e.skipped || e.cmd.out
    else if x.skipped then e.skipped && e.cmd.out && decide (x.rows + 1 < e.rows)
    else e.skipped && e.cmd.out && (match x.cmd.geo with | some (_, g) => decide (g.r * (x.rows + 8) < e.rows) | none => false)

/-- The places of the multiplies that may complete next: each may do so before all older ones. -/
def Quad.mayComplete (q : Quad) : List Nat :=
  q.muls.zipIdx.filterMap fun x => if (q.muls.take x.2).all fun e => x.1.passes e then some x.2 else none

/-- The multiply that completes next, and the others: which of those that may is free (notes/assumptions/189.md). -/
def State.nextDone (s : State) (q : Quad) : Option (MulExec × List MulExec) :=
  let l := q.mayComplete
  let i := if l.length ≤ 1 then 0 else l.getD (Config.freeNat s.free % l.length) 0
  (q.muls[i]?).map fun e => (e, q.muls.eraseIdx i)

/-- MULTIPLY_COMPLETE (R69, R73, R104, R117, R125): a multiply writes its outputs, merges its flags, reports its refund and
posts its completion. A failed check is reported before (R79). -/
def execMultiplyComplete (t c : Nat) (s : State) : Out :=
  .next <|
    let q := s.quad t c
    match s.nextDone q with
    | none => s
    | some (e, r) =>
      if !e.fails.isEmpty then s else
      let s := s.setQuad t c { q with muls := r }
      let s := s.draw
      let s := s.writeOuts t c e.cmd.cls e.outs
      let s := (s.mergeFlags t c e.cmd.cls e.flags).updBank t c e.cmd.cls fun b => { b with outM := b.outM - 1 }
      ((s.countLines t c e.lines).incReg (tileDA t) (pgMq c) 0x044).reportRefund t e.refund

/-- R74, R75, R113: the shadow planes of a completed load. -/
def Quad.fillPlanes (q : Quad) (m : MqCmd) : List Nat → List Byte → List Bool → Quad
  | [], _, _ => q
  | a :: r, img, psn =>
    let n := arrayBytes m.lwfmt m.lsparse
    let p : Plane := { img := img.take n, psn := psn.take n, wfmt := m.lwfmt, sparse := m.lsparse, valid := true }
    let p := { p with clean := p.soundRows (List.range 32) }
    { q with planes := tput q.planes (2 * a + (1 - q.activeIx a)) p }.fillPlanes m r (img.drop n) (psn.drop n)

/-- WEIGHT_LOAD_COMPLETE (R74, R75, R113): the loaded planes become valid with their record and clean flags. -/
def execWeightLoadComplete (t c : Nat) (s : State) : Out :=
  .next <|
    let q := s.quad t c
    match q.load with
    | none => s
    | some m =>
      let q' := q.fillPlanes m ((List.range 4).filter fun a => bit m.amask a) q.loadImg q.loadPsn
      let s := s.setQuad t c { q' with load := none, loadImg := [], loadPsn := [] }
      (s.updBank t c m.cls fun b => { b with outM := b.outM - 1 }).incReg (tileDA t) (pgMq c) 0x044

/-! ### Checks (R79, R381) -/

/-- The column that a failing array reports: the first failing one, 32 for the checksum column, none otherwise. -/
def failColumn (f : CheckFail) (m : Nat) : Option Nat :=
  match f.cols.min? with
  | some j => some j
  | none => if f.rows.length = m then some 32 else none

/-- MQ_CHK_INFO of a failing command (R81): ARRAY is the lowest failing array; ROW the first row that any array's column check
failed; COLUMN the first column of the lowest array whose row check failed one, before 32 for a checksum column
(notes/assumptions/193.md). -/
def chkInfo (fails : List CheckFail) (m : Nat) : Nat :=
  let f := fails.headD ⟨0, [], []⟩
  let rows := fails.flatMap (·.rows)
  let cols := fails.flatMap (·.cols)
  let col := (fails.findSome? fun x => x.cols.min?).getD (if fails.any fun x => failColumn x m == some 32 then 32 else 0)
  f.array % 4 + 4 * boolNat (!rows.isEmpty) + 8 * boolNat (!cols.isEmpty) +
    16 * boolNat (decide (1 < rows.eraseDups.length)) + 32 * boolNat (decide (1 < cols.length)) +
    64 * boolNat (decide (1 < fails.length)) +
    2 ^ 8 * col + 2 ^ 16 * (rows.min?.getD 0 % 256)

/-- R79: the accumulator entries, as row and output, that hold outputs of the failing arrays of a command. -/
def MqCmd.failEnts (m : MqCmd) (g : Geo) (fails : List CheckFail) : List (Nat × Nat) :=
  let ns := (List.range g.n).filter fun n => (m.sources g n).1.any fun a => fails.any fun f => f.array == a
  (List.range m.m).flatMap fun i => ns.map fun n => (m.accrow + i, n)

/-- R79: the accumulator entries `live` marked failed. -/
def Quad.markFailed (q : Quad) (live : List (Nat × Nat)) : Quad :=
  live.foldl (fun q x =>
    let r := q.row x.1
    { q with acc := tput q.acc x.1 { r with ent := tput r.ent x.2 { tget r.ent x.2 {} with failed := true } } }) q

/-- R79: the output writes of a command that hold one of the accumulator entries `live` are written poisoned. -/
def MqCmd.failOuts (m : MqCmd) (live : List (Nat × Nat)) (outs : List OutWrite) : List OutWrite :=
  let w := fmtBits m.ofmt / 8
  outs.map fun o =>
    let off := o.addr - m.oaddr * 32
    let bad := (List.range (o.bytes.length / w)).any fun i => live.contains (m.accrow + off / m.orow, off % m.orow / w + i)
    { o with poison := o.poison || bad }

/-- R72, R79: the marks that a command leaves of those it finds: one with ACC = 0 clears the marks of the entries that it writes,
and of the others of its rows where it changes their tag (notes/assumptions/212.md). -/
def MqCmd.keepMarks (m : MqCmd) (tag : AccTag) (live : List (Nat × Nat)) : List (Nat × Nat) :=
  match m.geo with
  | some (md, g) => if m.acc then live
      else live.filter fun x => decide (x.1 < m.accrow ∨ m.accrow + m.m ≤ x.1 ∨ (g.n ≤ x.2 ∧ md.tag = tag))
  | none => live

/-- R79: later commands of the chain write failed outputs poisoned until one with ACC = 0 clears the mark; the entries of
rows with the given tag that are still marked after them. -/
def failLater (tag : AccTag) : List (Nat × Nat) → List MulExec → List MulExec × List (Nat × Nat)
  | live, [] => ([], live)
  | live, e :: r =>
    let live := e.cmd.keepMarks tag live
    let rest := failLater tag live r
    ({ e with outs := e.cmd.failOuts live e.outs } :: rest.1, rest.2)

/-- R381: a confirmed charge for each failing array. -/
def State.chargeArrays (s : State) (t c m : Nat) : List CheckFail → State
  | [] => s
  | f :: r =>
    (s.charge (tileDA t) (ledgerRef (tileDA t) 0x01 (4 * c + f.array)) ckConfirmed 0x02
      ((failColumn f m).getD noRef)).chargeArrays t c m r

/-- The failures of two lists by array, in increasing order, those of the arrays, rows and columns that exist. -/
def mergeFails (x y : List CheckFail) (m : Nat) : List CheckFail :=
  (List.range 4).filterMap fun a =>
    let z := (x ++ y).filter fun f => f.array == a
    let rows := (List.range m).filter fun i => z.any fun f => f.rows.contains i
    let cols := (List.range 32).filter fun j => z.any fun f => f.cols.contains j
    if rows.isEmpty && cols.isEmpty then none else some ⟨a, rows, cols⟩

/-- MATRIX_CHECK (R79, R381): the checks of the oldest executing multiply are reported: those that its injection failed
(R82), and those that a hardware fault failed as `fails` says. -/
def execMatrixCheck (t c : Nat) (fails : List CheckFail) (s : State) : Out :=
  .next <|
    let q := s.quad t c
    match q.muls with
    | [] => s
    | e :: r =>
      let m := e.cmd
      let fails := mergeFails e.fails fails m.m
      match m.geo with
      | none => s
      | some (md, g) =>
        if e.skipped || fails.isEmpty then s
        else
          let da := tileDA t
          let info := chkInfo fails m.m
          let live := m.failEnts g fails
          let later := failLater md.tag live r
          let q' := ({ q with muls := { e with outs := m.failOuts live e.outs, fails := [] } :: later.1 }).markFailed later.2
          let s := s.setQuad t c q'
          let fresh := bits (s.reg da (pgMq c) 0x014) 1 0 == 0
          let s := if bit info 2 then s.flag da (pgMq c) 0 else s
          let s := if bit info 3 then s.flag da (pgMq c) 1 else s
          let s := if fresh then (s.setReg da (pgMq c) 0x04C info).setReg da (pgMq c) 0x050 m.seq else s
          let s := s.raiseCk t c m.cls
          let s := s.chargeArrays t c m.m fails
          if m.cls < 2 then s.report da m.cls 0x02 (ledgerRef da 0x01 (4 * c + (fails.headD ⟨0, [], []⟩).array)) info else s

end Sys2Proof.Machine
end

