-- ==== Sys2Proof/Machine/Flags.lean ====
section
/-! DEFINITION. The flag computations of the sequencer: compares (R154), conditions (R155), and the integer and fp32
operations with the ASTAT flags that each merges (R105, R154). -/

namespace Sys2Proof.Machine

/-- R154 CMP and CMPI: flags of `a − b`. -/
def cmpFlags (a b : Word) (poison : Bool) : Flags where
  z := a == b
  n := a.slt b
  lo := a.ult b
  uo := false
  poison := poison

/-- R154 FCMP: flags of an fp32 compare, and NVI where an operand is NaN. -/
def fcmpFlags (a b : Word) (poison : Bool) : Flags × BitVec 4 :=
  let x := fFp32.decode a.toNat
  let y := fFp32.decode b.toNat
  if x.isNan || y.isNan then ({ z := false, n := false, lo := false, uo := true, poison := poison }, flNVI)
  else ({ z := x.cmpX y == 0, n := x.cmpX y == -1, lo := false, uo := false, poison := poison }, 0)

/-- R155: a condition code holds in a bank; none where the code is reserved. -/
def Bank.cond (b : Bank) (code : Nat) : Option Bool :=
  let f := b.flags
  match code with
  | 0 => some true
  | 1 => some f.z
  | 2 => some !f.z
  | 3 => some f.n
  | 4 => some (!f.n && !f.uo)
  | 5 => some (f.z || f.n)
  | 6 => some (!f.z && !f.n && !f.uo)
  | 7 => some f.lo
  | 8 => some !f.lo
  | 9 => some f.uo
  | 10 => some b.ab
  | 11 => some b.ck
  | 12 => some b.ps
  | _ => none

/-- R148: the condition reads the compare flags, which may be poisoned. -/
def condReadsFlags (code : Nat) : Bool := decide (1 ≤ code) && decide (code ≤ 9)

/-- R154: the integer operations of Format A, OP 1 to 11, modulo 2^32. -/
def aluOp (op : Nat) (a b : Word) : Word :=
  match op with
  | 1 => a + b
  | 2 => a - b
  | 3 => a &&& b
  | 4 => a ||| b
  | 5 => a ^^^ b
  | 6 => a <<< (b.toNat % 32)
  | 7 => a >>> (b.toNat % 32)
  | 8 => a.sshiftRight (b.toNat % 32)
  | 9 => a * b
  | 10 => if a.slt b then a else b
  | _ => if a.slt b then b else a

/-- R154, R105: the fp32 operations of Format A with their flags: OP 13 to 16, 18 and 19; `d` is the old gd. -/
def fpOp (op : Nat) (d a b : Word) : Word × BitVec 4 :=
  let r := match op with
    | 13 => fFp32.addR .near a.toNat b.toNat
    | 14 => fFp32.subR .near a.toNat b.toNat
    | 15 => fFp32.mulR .near a.toNat b.toNat
    | 16 => fFp32.fmaR .near a.toNat b.toNat d.toNat
    | 18 => fFp32.result .near (Num.ofInt a.toInt)
    | _ => encodeInt 32 true .zero 0 (fFp32.decode a.toNat)
  (BitVec.ofNat 32 r.1, r.2)

end Sys2Proof.Machine
end

