-- ==== Sys2Proof/Machine/Operands.lean ====
section
/-! DEFINITION. The operand forms of the sequencer: the fields of R157, the registers as stages IS and OP see them (R131,
R132), the addressing of X, Y and C (R137 to R139), and the legality of an instruction word (R157). -/

namespace Sys2Proof.Machine

/-! ### Fields of an instruction word (R157) -/

def iFmt (w : Nat) : Nat := bits w 63 62
def iOp (w : Nat) : Nat := bits w 61 56
/-- GD of formats A, B and D; GS1 and GS2 of A and D; GS of B lies where GS1 does. -/
def iGd (w : Nat) : Nat := bits w 55 51
def iGs1 (w : Nat) : Nat := bits w 50 46
def iGs2 (w : Nat) : Nat := bits w 45 41
/-- Format A moves. -/
def iXop (w : Nat) : Nat := bits w 40 39
def iXg (w : Nat) : Nat := bits w 38 34
def iXa (w : Nat) : Nat := bits w 33 30
def iXm (w : Nat) : Nat := bits w 29 26
def iYop (w : Nat) : Nat := bits w 25 24
def iYg (w : Nat) : Nat := bits w 23 19
def iYa (w : Nat) : Nat := bits w 18 15
def iYm (w : Nat) : Nat := bits w 14 11
def iCen (w : Nat) : Bool := bit w 10
def iCg (w : Nat) : Nat := bits w 9 5
def iCa (w : Nat) : Nat := bits w 4 3
def iCm (w : Nat) : Nat := bits w 2 1
/-- Format B. -/
def iAi (w : Nat) : Nat := bits w 45 42
def iBus (w : Nat) : Nat := bits w 41 40
def iMi (w : Nat) : Nat := bits w 39 36
def iImm (w : Nat) : Nat := bits w 31 0
/-- Format C. -/
def iCond (w : Nat) : Nat := bits w 55 52
def iCgs (w : Nat) : Nat := bits w 51 47
def iFence (w : Nat) : Bool := bit w 46
def iLen (w : Nat) : Nat := bits w 45 39
def iCsrc (w : Nat) : Bool := bit w 38
def iUnit (w : Nat) : Nat := bits w 37 35
def iTarget (w : Nat) : Nat := bits w 32 16
def iCount (w : Nat) : Nat := bits w 15 0
/-- Format D. -/
def iDai (w : Nat) : Nat := bits w 40 37
def iDmi (w : Nat) : Nat := bits w 36 33
def iE (w : Nat) : Nat := bits w 32 27
def iKmax (w : Nat) : Nat := bits w 26 24
def iDie (w : Nat) : Nat := bits w 23 16
def iImm16 (w : Nat) : Nat := bits w 15 0

/-! ### Legality (R157) -/

/-- The bits [hi:lo] are 0: an unused field. -/
def unused (w hi lo : Nat) : Bool := bits w hi lo == 0

/-- The g registers that a Format A word writes: its compute destination and its loads (R133). -/
def destsA (w : Nat) : List Nat :=
  let op := iOp w
  (if op = 0 ∨ op = 12 ∨ op = 17 then [] else [iGd w]) ++
  (if iXop w = 1 then [iXg w] else []) ++ (if iYop w = 1 then [iYg w] else []) ++ (if iCen w then [iCg w] else [])

def legalA (w : Nat) : Bool :=
  let op := iOp w
  decide (op ≤ 19) && unused w 0 0 &&
  (decide (op ≠ 0) || unused w 55 41) &&
  (!(op == 12 || op == 17) || unused w 55 51) &&
  (!(op == 18 || op == 19) || unused w 45 41) &&
  iXop w != 3 && iYop w != 3 &&
  (iXop w != 0 || unused w 38 26) && (iYop w != 0 || unused w 23 11) && (iCen w || unused w 9 1) &&
  decide (destsA w).Nodup

def legalB (w : Nat) : Bool :=
  let noGd := unused w 55 51
  let noGs := unused w 50 46
  let noAi := unused w 45 42
  let noBm := unused w 41 36
  let noImm := unused w 31 0
  unused w 35 32 && match iOp w with
    | 0 => noGs && noAi && noBm
    | 1 => noAi && noBm
    | 2 => noGd && noAi && noBm
    | 3 => noGs && noImm && iBus w != 3
    | 4 => noGd && noImm && iBus w != 3
    | 5 => noGd && noGs && noBm && unused w 31 20
    | 6 => noGd && noGs && noBm && unused w 31 20
    | 7 => noGd && noGs && noBm && decide (iImm w ≤ 0x100000)
    | 8 => noGd && noBm && noImm
    | 9 => noGd && noBm && noImm
    | 10 => noGd && noBm && noImm
    | 11 => noGs && noBm && noImm
    | 12 => noGs && noAi && noBm && decide (iImm w ≤ 6)
    | 13 => noGd && noGs && noAi && noBm && decide (iImm w < 16)
    | 14 => noGd && noGs && noAi && noBm && decide (iImm w < 8)
    | _ => false

def legalC (w : Nat) : Bool :=
  let noCond := unused w 55 52
  let noGs := unused w 51 47
  let noLen := unused w 45 39
  let noUnit := unused w 37 35
  let noTarget := unused w 32 16
  let noCount := unused w 15 0
  let repeats := noCond && noUnit && noTarget && (if iCsrc w then noCount else noGs)
  unused w 34 33 && match iOp w with
    | 0 => decide (iCond w ≤ 12) && noGs && unused w 46 35 && noCount
    | 1 => decide (iCond w ≤ 12) && noGs && unused w 46 35 && noCount
    | 2 => decide (iCond w ≤ 12) && noGs && unused w 46 35 && noTarget && noCount
    | 3 => repeats && noLen
    | 4 => repeats && decide (iLen w ≤ 64)
    | 5 => noCond && noGs && unused w 46 38 && decide (iUnit w ≤ 3) && noTarget
    | 6 => unused w 55 0
    | _ => false

def legalD (w : Nat) : Bool :=
  match iOp w with
  | 0 => unused w 55 51 && iGs1 w % 4 == 0 && unused w 45 0
  | 1 => unused w 55 41 && unused w 32 0
  | 2 => unused w 55 51 && unused w 40 0
  | 3 => unused w 55 16
  | 4 => unused w 55 24 && (decide (iDie w ≤ 55) || iDie w == 255)
  | 5 => iGd w % 2 == 0 && unused w 45 41 && decide (iE w ≤ 32) && decide (iKmax w ≤ 4) && unused w 23 0
  | _ => false

/-- R157: the word carries no reserved code, no nonzero unused field and no value outside a field's range. -/
def seqLegal (w : Nat) : Bool :=
  match iFmt w with
  | 0 => legalA w
  | 1 => legalB w
  | 2 => legalC w
  | _ => legalD w

/-! ### Registers as the stages see them (R131, R132) -/

/-- The bank as stage OP of an instruction issued in cycle `n` reads it: writes due by cycle n + 1 have taken effect. -/
def Bank.opView (b : Bank) (n : Nat) : Bank :=
  ((inCycle n b.pipe) ++ (inCycle (n + 1) b.pipe)).foldl (fun b w => b.applyReg w.dst w.val) b

def Bank.gOf (b : Bank) (i : Nat) : PWord := tget b.g i {}
def Bank.aOf (b : Bank) (i : Nat) : Nat := (tget b.a i 0).toNat
def Bank.mOf (b : Bank) (i : Nat) : Int := (tget b.m i 0).toInt
def Bank.lOf (b : Bank) (i : Nat) : Nat := (tget b.l i 0).toNat

/-- R132, R133: the writes that an issued instruction leaves in the pipeline. -/
def Bank.push (b : Bank) (ws : List PendWrite) : Bank := { b with pipe := b.pipe ++ ws }

/-! ### Addressing (R138, R139) -/

/-- The least b with L ≤ 2^b. -/
def ceilLog2 (l : Nat) : Nat := if l ≤ 1 then 0 else Nat.log2 (l - 1) + 1

/-- R138: the address register after the access. -/
def postMod (a : Nat) (m : Int) (l : Nat) : Nat :=
  if l = 0 then (((a : Int) + m) % (2 ^ 20 : Int)).toNat
  else
    let off := a % 2 ^ ceilLog2 l
    (a - off) + (((off : Int) + m) % (l : Int)).toNat

/-- A post-modification of a_i by m_j, due in the issue cycle. -/
def Bank.postMod (b : Bank) (n i j : Nat) : PendWrite :=
  { due := n, dst := .a i,
    val := { val := BitVec.ofNat 32 (Machine.postMod (b.aOf i) (b.mOf j) (b.lOf i)), poison := false } }

/-- One move of an instruction: the bus (0 X, 1 Y, 2 C), whether it loads, the g, a and m registers. -/
structure Move where
  bus : Nat
  load : Bool
  g : Nat
  a : Nat
  m : Nat
deriving DecidableEq, Repr

/-- The moves of a Format A word, in the order X, Y, C. -/
def movesA (w : Nat) : List Move :=
  (if iXop w = 0 then [] else [⟨0, iXop w == 1, iXg w, iXa w, iXm w⟩]) ++
  (if iYop w = 0 then [] else [⟨1, iYop w == 1, iYg w, iYa w, iYm w⟩]) ++
  (if iCen w then [⟨2, true, iCg w, 12 + iCa w, 12 + iCm w⟩] else [])

/-- R139: the move's access is an address fault. -/
def State.moveFaults (s : State) (t c cls : Nat) (b : Bank) (v : Move) : Bool :=
  let a := b.aOf v.a
  a % 4 != 0 || (if v.bus = 2 then decide (0x10000 ≤ a) else !s.inWindow t c cls a 4)

/-- R133: the stores due by cycle `d` reach their store before a load reads it. -/
def State.commitStores (s : State) (t c cls d : Nat) : State :=
  let b := s.bank t c cls
  let now := fun (w : PendWrite) => decide (w.due ≤ d) && (match w.dst with | .core _ => true | .coef _ => true | _ => false)
  let s' := s.setBank t c cls { b with pipe := b.pipe.filter fun w => !now w }
  ((b.pipe.filter now)).foldl (fun s w => s.applyWrite t c cls w) s'

/-- R148: the word that a move loads, with the poison of its granule. -/
def State.moveLoad (s : State) (t c : Nat) (bus a : Nat) : PWord :=
  let sp := if bus = 2 then Sp.coef else Sp.core
  { val := BitVec.ofNat 32 (s.word sp (coreKey t c) a), poison := s.psn sp (coreKey t c) a }

/-- The pipeline writes of a move issued in cycle `n`: its load or store and its post-modification. -/
def State.moveWrites (s : State) (t c n : Nat) (b op : Bank) (v : Move) : List PendWrite :=
  let a := b.aOf v.a
  (if v.load then [{ due := n + 4, dst := .g v.g, val := s.moveLoad t c v.bus a }]
   else [{ due := n + 3, dst := if v.bus = 2 then .coef a else .core a, val := op.gOf v.g }]) ++
  [b.postMod n v.a v.m]

end Sys2Proof.Machine
end

