-- ==== Sys2Proof/Machine/Transc.lean ====
section
/-! DEFINITION. The transcendental unit (R173): each function's exact value rounded once. Quotients and roots are taken
with an exact remainder. The other four are irrational except at the arguments handled apart; they are taken from fixed
point with 400 fraction bits, far below the spacing at which an fp32 result could change. -/

namespace Sys2Proof.Machine

/-- Fraction bits of the fixed-point work. -/
def txP : Nat := 400
def txOne : Int := 2 ^ txP

/-- Product and quotient of fixed-point numbers. -/
def txMul (a b : Int) : Int := a * b / txOne

/-- Integer square root by bits: the largest n below 2^k with n² · d ≤ x. -/
def rootBits (x d : Nat) : Nat → Nat → Nat
  | 0, n => n
  | k + 1, n =>
    let m := n + 2 ^ k
    rootBits x d k (if m * m * d ≤ x then m else n)

/-- A sum of a series: `step i term` is the next term, until the fuel ends or the term is 0. -/
def txSeries (step : Nat → Int → Int) : Nat → Nat → Int → Int → Int
  | 0, _, _, acc => acc
  | fuel + 1, i, term, acc =>
    if term = 0 then acc else txSeries step fuel (i + 1) (step i term) (acc + term)

/-- atanh of 1/n: the sum of 1 / ((2k+1) n^(2k+1)). -/
def txAtanhInv (n : Nat) : Nat → Nat → Int → Int → Int
  | 0, _, _, acc => acc
  | fuel + 1, k, pw, acc =>
    if pw = 0 then acc else txAtanhInv n fuel (k + 1) (pw / ((n * n : Nat) : Int)) (acc + pw / ((2 * k + 1 : Nat) : Int))

/-- atan of 1/n. -/
def txAtanInv (n : Nat) : Nat → Nat → Int → Int → Int
  | 0, _, _, acc => acc
  | fuel + 1, k, pw, acc =>
    if pw = 0 then acc
    else
      let d := pw / ((2 * k + 1 : Nat) : Int)
      txAtanInv n fuel (k + 1) (pw / ((n * n : Nat) : Int)) (if k % 2 = 0 then acc + d else acc - d)

/-- ln 2 = 2 atanh(1/3). -/
def txLn2 : Int := 2 * txAtanhInv 3 400 0 (txOne / 3) 0
/-- 2π = 8 (4 atan(1/5) − atan(1/239)). -/
def txTwoPi : Int := 8 * (4 * txAtanInv 5 400 0 (txOne / 5) 0 - txAtanInv 239 400 0 (txOne / 239) 0)

/-- e^x for 0 ≤ x < 1. -/
def txExp (x : Int) : Int := txSeries (fun i t => txMul t x / ((i + 1 : Nat) : Int)) 200 0 txOne 0

/-- ln x for 1 ≤ x < 2, as 2 atanh((x − 1)/(x + 1)). -/
def txLnLoop (z2 : Int) : Nat → Nat → Int → Int → Int
  | 0, _, _, acc => acc
  | fuel + 1, k, pw, acc =>
    if pw = 0 then acc else txLnLoop z2 fuel (k + 1) (txMul pw z2) (acc + pw / ((2 * k + 1 : Nat) : Int))

def txLn (x : Int) : Int :=
  let z := (x - txOne) * txOne / (x + txOne)
  2 * txLnLoop (txMul z z) 400 0 z 0

/-- sin x and cos x for 0 ≤ x < 2. -/
def txSin (x : Int) : Int :=
  let x2 := txMul x x
  txSeries (fun i t => -(txMul t x2 / (((2 * i + 2) * (2 * i + 3) : Nat) : Int))) 200 0 x 0
def txCos (x : Int) : Int :=
  let x2 := txMul x x
  txSeries (fun i t => -(txMul t x2 / (((2 * i + 1) * (2 * i + 2) : Nat) : Int))) 200 0 txOne 0

/-- A fixed-point magnitude as an fp32 result; the true value lies just above it. -/
def txResult (rm : Rnd) (neg : Bool) (v : Int) : Nat × BitVec 4 :=
  fFp32.result rm (.fin neg v.toNat (-(txP : Int))) true

def txNan : Nat × BitVec 4 := (fFp32.nanCode, flNVI)

/-- The quotient of two finite nonzero magnitudes. -/
def divMag (rm : Rnd) (neg : Bool) (m : Nat) (e : Int) (n : Nat) (f : Int) : Nat × BitVec 4 :=
  let k := 64 + Nat.log2 n
  let q := m * 2 ^ k / n
  fFp32.result rm (.fin neg q (e - f - k)) (m * 2 ^ k % n != 0)

/-- R173 DIV; RCP is DIV of 1. -/
def tuDiv (rm : Rnd) (x y : Num) : Nat × BitVec 4 :=
  let neg := x.negative != y.negative
  match x, y with
  | .nan, _ => txNan
  | _, .nan => txNan
  | .inf _, .inf _ => txNan
  | .inf _, .fin _ _ _ => (fFp32.signed neg fFp32.infCode, 0)
  | .fin _ _ _, .inf _ => (fFp32.signed neg 0, 0)
  | .fin _ m e, .fin _ n f =>
    if n = 0 then (if m = 0 then txNan else (fFp32.signed neg fFp32.infCode, flDZ))
    else if m = 0 then (fFp32.signed neg 0, 0) else divMag rm neg m e n f

/-- R173 SQRT. -/
def tuSqrt (rm : Rnd) (x : Num) : Nat × BitVec 4 :=
  match x with
  | .nan => txNan
  | .inf true => txNan
  | .inf false => (fFp32.infCode, 0)
  | .fin neg m e =>
    if m = 0 then (fFp32.signed neg 0, 0)
    else if neg then txNan
    else
      let odd := e % 2 != 0
      let n := (if odd then 2 * m else m) * 2 ^ 80
      let e' := (if odd then e - 1 else e) - 80
      let r := rootBits n 1 80 0
      fFp32.result rm (.fin false r (e' / 2)) (r * r != n)

/-- R173 RSQRT. -/
def tuRsqrt (rm : Rnd) (x : Num) : Nat × BitVec 4 :=
  match x with
  | .nan => txNan
  | .inf true => txNan
  | .inf false => (0, 0)
  | .fin neg m e =>
    if m = 0 then (fFp32.signed neg fFp32.infCode, flDZ)
    else if neg then txNan
    else
      let odd := e % 2 != 0
      let d := if odd then 2 * m else m
      let e' := if odd then e - 1 else e
      let n := 2 ^ 160
      let r := rootBits n d 81 0
      fFp32.result rm (.fin false r (-80 - e' / 2)) (r * r * d != n)

/-- Integer part (toward minus infinity) and fraction in fixed point of a finite number of moderate size. -/
def splitFix (neg : Bool) (m : Nat) (e : Int) : Int × Int :=
  let v : Int := if neg then -(m : Int) else m
  let k := (-e).toNat
  if 0 ≤ e then (v * 2 ^ e.toNat, 0)
  else (v / 2 ^ k, v % 2 ^ k * txOne / 2 ^ k)

/-- R173 EXP2. -/
def tuExp2 (rm : Rnd) (x : Num) : Nat × BitVec 4 :=
  match x with
  | .nan => txNan
  | .inf true => (0, 0)
  | .inf false => (fFp32.infCode, 0)
  | .fin neg m e =>
    if m = 0 then fFp32.result rm (.fin false 1 0)
    else if 9 ≤ (Nat.log2 m : Int) + e then fFp32.result rm (.fin false 1 (if neg then -400 else 400))
    else
      let (i, f) := splitFix neg m e
      if f = 0 then fFp32.result rm (.fin false 1 i)
      else fFp32.result rm (.fin false (txExp (txMul f txLn2)).toNat (i - txP)) true

/-- R173 LOG2. -/
def tuLog2 (rm : Rnd) (x : Num) : Nat × BitVec 4 :=
  match x with
  | .nan => txNan
  | .inf true => txNan
  | .inf false => (fFp32.infCode, 0)
  | .fin neg m e =>
    if m = 0 then (fFp32.signed true fFp32.infCode, 0)
    else if neg then txNan
    else
      let k := Nat.log2 m
      let i : Int := k + e
      if m = 2 ^ k then
        (if i = 0 then (0, 0) else fFp32.result rm (Num.ofInt i))
      else
        let l := txLn ((m : Int) * txOne / 2 ^ k) * txOne / txLn2
        let v := i * txOne + l
        if v < 0 then txResult rm true (-v - 1) else txResult rm false v

/-- The turn x − ⌊x⌋ of a finite number, as quadrant and the exact rest in quarter turns over 2^k. -/
def turnOf (neg : Bool) (m : Nat) (e : Int) : Nat × Nat × Nat :=
  if 0 ≤ e then (0, 0, 0)
  else
    let k := (-e).toNat
    let v : Int := if neg then -(m : Int) else m
    let f := (4 * (v % 2 ^ k)).toNat
    (f / 2 ^ k, f % 2 ^ k, k)

/-- sin of a positive angle below a quarter turn given as rest / 2^k quarter turns, in fixed point. -/
def quarterSin (rest k : Nat) : Int := txSin (txTwoPi * rest / 2 ^ (k + 2))
def quarterCos (rest k : Nat) : Int := txCos (txTwoPi * rest / 2 ^ (k + 2))

/-- R173 SINR. -/
def tuSin (rm : Rnd) (x : Num) : Nat × BitVec 4 :=
  match x with
  | .nan => txNan
  | .inf _ => txNan
  | .fin neg m e =>
    let (qd, rest, k) := turnOf false m e
    if rest = 0 then
      match qd % 4 with
      | 0 => (fFp32.signed neg 0, 0)
      | 2 => (fFp32.signed neg 0, 0)
      | 1 => fFp32.result rm (.fin neg 1 0)
      | _ => fFp32.result rm (.fin (!neg) 1 0)
    else
      let v := if qd % 2 = 0 then quarterSin rest k else quarterCos rest k
      txResult rm (neg != decide (2 ≤ qd)) (v - 2 ^ 40)

/-- R173 COSR. -/
def tuCos (rm : Rnd) (x : Num) : Nat × BitVec 4 :=
  match x with
  | .nan => txNan
  | .inf _ => txNan
  | .fin _ m e =>
    let (qd, rest, k) := turnOf false m e
    if rest = 0 then
      match qd % 4 with
      | 0 => fFp32.result rm (.fin false 1 0)
      | 2 => fFp32.result rm (.fin true 1 0)
      | _ => (0, 0)
    else
      let v := if qd % 2 = 0 then quarterCos rest k else quarterSin rest k
      txResult rm (decide (qd = 1 ∨ qd = 2)) (v - 2 ^ 40)

/-- R173: the function of a code on fp32 encodings. -/
def tuOp (code : Nat) (rm : Rnd) (a b : Nat) : Nat × BitVec 4 :=
  let x := fFp32.decode a
  match code with
  | 0 => tuDiv rm (.fin false 1 0) x
  | 1 => tuSqrt rm x
  | 2 => tuRsqrt rm x
  | 3 => tuExp2 rm x
  | 4 => tuLog2 rm x
  | 5 => tuSin rm x
  | 6 => tuCos rm x
  | _ => tuDiv rm x (fFp32.decode b)

end Sys2Proof.Machine
end

