-- ==== Sys2Proof/Machine/Vector.lean ====
section
/-! DEFINITION. The vector engine: launches (R162 to R164), the roll scheduler (R165 to R167) and the vector instructions (R169 to
R175). -/

namespace Sys2Proof.Machine

/-! ### Fields and legality (R169) -/

def vOp (w : Nat) : Nat := bits w 63 56
def vVd (w : Nat) : Nat := bits w 55 51
def vVa (w : Nat) : Nat := bits w 50 46
def vVb (w : Nat) : Nat := bits w 45 41
def vVc (w : Nat) : Nat := bits w 40 36
def vPsel (w : Nat) : Nat := bits w 35 34
def vPneg (w : Nat) : Bool := bit w 33
def vPen (w : Nat) : Bool := bit w 32
def vRm (w : Nat) : Nat := bits w 31 30
def vTyp (w : Nat) : Nat := bits w 29 27
def vHi (w : Nat) : Bool := bit w 16
def vImm (w : Nat) : Nat := bits w 15 0

/-- Which fields an operation uses: VD, VA, VB, VC, RM, and the bits of IMM16 below `imm`; the highest TYP code of the
range that starts at `lo`. -/
structure VForm where
  vd : Bool
  va : Bool
  vb : Bool
  vc : Bool
  rm : Bool
  imm : Nat
  lo : Nat
  hi : Nat

def vForm (op : Nat) : Option VForm :=
  match op with
  | 0x00 => some ⟨false, false, false, false, false, 0, 0, 0⟩
  | 0x01 => some ⟨true, true, true, false, true, 0, 0, 4⟩
  | 0x02 => some ⟨true, true, true, false, true, 0, 0, 4⟩
  | 0x03 => some ⟨true, true, true, false, true, 0, 0, 4⟩
  | 0x04 => some ⟨true, true, true, true, true, 0, 0, 4⟩
  | 0x05 => some ⟨true, true, true, false, false, 0, 0, 4⟩
  | 0x06 => some ⟨true, true, true, false, false, 0, 0, 4⟩
  | 0x07 => some ⟨true, true, true, false, false, 0, 1, 1⟩
  | 0x08 => some ⟨true, true, true, false, false, 0, 1, 1⟩
  | 0x09 => some ⟨true, true, true, false, false, 0, 1, 1⟩
  | 0x0A => some ⟨true, true, true, false, false, 0, 1, 1⟩
  | 0x0B => some ⟨true, true, true, false, false, 0, 1, 1⟩
  | 0x0C => some ⟨true, true, true, false, false, 0, 1, 1⟩
  | 0x0D => some ⟨true, true, false, false, true, 5, 0, 4⟩
  | 0x0E => some ⟨true, false, false, false, false, 16, 0, 0⟩
  | 0x0F => some ⟨true, true, true, false, false, 3, 0, 1⟩
  | 0x10 => some ⟨true, true, true, false, false, 0, 0, 0⟩
  | 0x11 => some ⟨true, true, true, false, false, 0, 0, 0⟩
  | 0x12 => some ⟨true, true, false, false, true, 2, 0, 1⟩
  | 0x13 => some ⟨true, true, false, false, false, 16, 0, 0⟩
  | 0x14 => some ⟨false, true, true, false, false, 16, 0, 0⟩
  | 0x15 => some ⟨true, true, true, false, true, 3, 0, 0⟩
  | 0x16 => some ⟨false, false, false, false, false, 14, 0, 0⟩
  | 0x17 => some ⟨false, false, false, false, false, 0, 0, 0⟩
  | 0x18 => some ⟨false, false, false, false, false, 0, 0, 0⟩
  | 0x19 => some ⟨true, false, false, false, false, 0, 0, 0⟩
  | _ => none

/-- R169: no reserved code, no nonzero unused field, a TYP that the operation allows. Which fields an operation uses is taken by
operation, not by its TYP or IMM16 (notes/assumptions/197.md). -/
def vecLegal (w : Nat) : Bool :=
  match vForm (vOp w) with
  | none => false
  | some f =>
    let op := vOp w
    let noPred := op == 0x00 || op == 0x17 || op == 0x18
    (f.vd || vVd w == 0) && (f.va || vVa w == 0) && (f.vb || vVb w == 0) && (f.vc || vVc w == 0) &&
    (if f.rm then decide (vRm w ≤ 1) else vRm w == 0) && decide (vImm w < 2 ^ f.imm) &&
    decide (f.lo ≤ vTyp w) && decide (vTyp w ≤ f.hi) && bits w 26 17 == 0 && (op == 0x0E || !vHi w) &&
    (if noPred then bits w 35 32 == 0 else vPen w || op == 0x10 || bits w 35 33 == 0) &&
    (op != 0x0D || decide (vImm w % 8 ≤ 4)) && (op != 0x0F || (decide (vVd w < 4) && vImm w != 7)) &&
    (op != 0x12 || vImm w != 3) && (op != 0x15 || vImm w == 7 || vVb w == 0) &&
    (op != 0x16 || (vPen w && decide (bits w 13 12 ≤ 2)))

/-! ### Launches (R162 to R164) -/

/-- R161: first roll and number of rolls of a class. -/
def State.partition (s : State) (t c cls : Nat) : Nat × Nat :=
  let r := s.reg (tileDA t) (pgVec c) 0x040
  let qg := bits r 7 0
  let ql := bits r 15 8
  if cls = 0 then (0, qg) else if cls = 1 then (qg, ql) else (qg + ql, 128 - (qg + ql))

/-- The free rolls of a class, lowest index first. -/
def State.freeRolls (s : State) (t c cls : Nat) : List Nat :=
  let (lo, n) := s.partition t c cls
  ((List.range n).map (lo + ·)).filter fun r => (tget? (s.core t c).vec.rolls r).isNone

/-- R163: the registers of the i-th roll of a launch. -/
def rollStart (cls launch pc due i : Nat) (arg : Word) : Roll where
  cls := cls
  launch := launch
  pc := pc
  start := due
  due := due
  v := ((List.range 32).map fun l => (l, { val := BitVec.ofNat 32 (32 * i + l), poison := false })) ++
    ((List.range 32).map fun l => (32 + l, { val := arg, poison := false }))
  p := (List.range 32).map fun l => (l, (true, false))

/-- The rolls of a launch put in place, `i` counting from the first. -/
def putRolls (cls launch pc due : Nat) (arg : Word) : Nat → List Nat → Table Roll → Table Roll
  | _, [], t => t
  | i, r :: rest, t => putRolls cls launch pc due arg (i + 1) rest (tput t r (rollStart cls launch pc due i arg))

def launchEntry (w : Word) : Nat := bits w.toNat 11 0
def launchRolls (w : Word) : Nat := bits w.toNat 19 12

/-- R164: the launch word is refused. -/
def State.launchRefused (s : State) (t c cls : Nat) (w : Word) : Bool :=
  decide ((s.partition t c cls).2 < launchRolls w) || bits w.toNat 31 20 != 0

/-- R163: an accepted launch. -/
def State.launch (s : State) (t c cls due : Nat) (w arg : Word) : State :=
  let n := launchRolls w
  if n = 0 then s
  else
    let rs := (s.freeRolls t c cls).take n
    let s := s.updCore t c fun k =>
      { k with vec := { k.vec with nextLaunch := k.vec.nextLaunch + 1,
                                   rolls := putRolls cls k.vec.nextLaunch (launchEntry w) due arg 0 rs k.vec.rolls } }
    s.updBank t c cls fun b => { b with outV := b.outV + 1 }

/-! ### One slot -/

def State.setRoll (s : State) (t c r : Nat) (x : Roll) : State :=
  s.updCore t c fun k => { k with vec := { k.vec with rolls := tput k.vec.rolls r x } }

/-- The registers that a word reads: v registers, and 32 + p for predicates. -/
def vSources (w : Nat) : List Nat :=
  match vForm (vOp w) with
  | none => []
  | some f =>
    let op := vOp w
    (if f.va then [vVa w] else []) ++ (if f.vb && (op != 0x15 || vImm w == 7) then [vVb w] else []) ++
    (if f.vc then [vVc w] else []) ++ (if vPen w || op == 0x10 then [32 + vPsel w] else []) ++
    (if op == 0x19 || (op == 0x0E && vHi w) || (op == 0x0D && decide (2 ≤ vImm w % 8)) then [vVd w] else [])

/-- R170: the latency of a word whose active lanes address `b` blocks. -/
def vLatency (w b : Nat) : Nat :=
  match vOp w with
  | 0x01 | 0x02 | 0x03 | 0x04 | 0x05 | 0x06 => if vTyp w = 1 ∨ vTyp w = 4 then 2 else 4
  | 0x07 | 0x08 | 0x09 | 0x0A | 0x0B | 0x0C | 0x0E | 0x0F | 0x10 | 0x19 => 2
  | 0x0D => 4
  | 0x11 => 3
  | 0x12 => 10
  | 0x13 => 10 + (b - 1)
  | 0x15 => 18
  | _ => 1

/-- VLD and VST, which use the load path. -/
def vMem (w : Nat) : Bool := vOp w == 0x13 || vOp w == 0x14

/-- R165, R167: the first cycle in which the engine can grant a slot to a roll that stands at word `w`: its sources are written, a
slot is left, the load path and the transcendental unit can take it. -/
def Vec.cycleOf (v : Vec) (x : Roll) (w : Nat) : Nat :=
  let n := (vSources w).foldl (fun n i => max n (tget x.ready i 0)) (max x.due (if v.slots = 2 then v.now + 1 else v.now))
  let n := if vMem w then max n (max v.path (if v.mem then v.now + 1 else 0)) else n
  if vOp w = 0x15 then max n v.vtu else n

/-- R160: the word at which a roll stands. -/
def State.rollWord (s : State) (t c : Nat) (x : Roll) : Nat := leNat (s.bytesAt .vis (coreKey t c) (8 * x.pc) 8)

/-- A roll competes for slots: its launch has begun (R163), it does not wait at a VSYNC, and a class 2 roll finds the allowance
above zero (R421). -/
def State.competes (s : State) (t c : Nat) (x : Roll) : Bool :=
  !x.atSync && (s.core t c).reached x.start && vecLegal (s.rollWord t c x) &&
    (x.cls != 2 || decide (0 < (s.tile t).allowance))

/-- R165, R166: the rank of a candidate: by cycle, then by class, then by roll index from one past the roll of its class granted
last, with wrap-around. -/
def Vec.rank (v : Vec) (r : Nat) (x : Roll) (w : Nat) : Nat :=
  (4 * v.cycleOf x w + x.cls) * 128 + (r + 127 - tget v.last x.cls 127) % 128

/-- R165: the roll that the scheduler grants next. -/
def State.nextGrant (s : State) (t c : Nat) : Option Nat :=
  let v := (s.core t c).vec
  let l := (v.rolls.filter fun y => s.competes t c y.2).map fun y => (v.rank y.1 y.2 (s.rollWord t c y.2), y.1)
  match l with
  | [] => none
  | a :: r => some (r.foldl (fun a b => if b.1 < a.1 then b else a) a).2

/-- The roll may issue the word `w` of operation `op`: it stands at it (R160) and the scheduler grants it the next slot (R165). The
roll is given with the cycle of the slot as its due cycle. -/
def State.slot (s : State) (t c r : Nat) (w : Word64) (op : Nat) : Option Roll :=
  match tget? (s.core t c).vec.rolls r with
  | none => none
  | some x =>
    if s.nextGrant t c = some r ∧ s.rollWord t c x = w.toNat ∧ vOp w.toNat = op
    then some { x with due := (s.core t c).vec.cycleOf x w.toNat } else none

/-- R416: charges of a vector slot. -/
def chArith : Nat := 260
def chLogic : Nat := 130
def chVtu : Nat := 600
def chBlock : Nat := 180

/-- Arithmetic of an integer type costs as integer, of any other as arithmetic. -/
def chTyp (w : Nat) : Nat := if vTyp w = 1 then chLogic else chArith

def Roll.reg (x : Roll) (v lane : Nat) : PWord := tget x.v (32 * v + lane) {}
def Roll.pred (x : Roll) (p lane : Nat) : Bool × Bool := tget x.p (32 * p + lane) (false, false)

/-- The predicate that a word names, in one lane, with its poison. -/
def Roll.psel (x : Roll) (w lane : Nat) : Bool × Bool :=
  let p := x.pred (vPsel w) lane
  (p.1 != vPneg w, p.2)

/-- R170: the lane acts. -/
def Roll.active (x : Roll) (w lane : Nat) : Bool := !vPen w || (x.psel w lane).1
def Roll.guardPoison (x : Roll) (w lane : Nat) : Bool := vPen w && (x.psel w lane).2

def Roll.step (x : Roll) : Roll := { x with pc := (x.pc + 1) % 4096 }

/-- The active lanes of a word. -/
def Roll.lanes (x : Roll) (w : Nat) : List Nat := (List.range 32).filter fun l => x.active w l

/-- The byte address of a lane's access. -/
def Roll.addr (x : Roll) (w l : Nat) : Nat :=
  wrap 32 (((x.reg (vVa w) l).val.toNat : Int) + sext 16 (vImm w))

/-- R170: the number of distinct 128-byte blocks that the active lanes address. -/
def Roll.blocks (x : Roll) (w : Nat) : Nat := (((x.lanes w).map fun l => x.addr w l / 128).eraseDups).length

/-- The scheduler after a slot granted to roll `r` in cycle `x.due` (R165, R170): a VLD or VST of several blocks holds the load path,
and the transcendental unit is busy for 2 cycles; a roll that waits for one of them issues two cycles after it is free. -/
def Vec.grant (v : Vec) (r : Nat) (x : Roll) (w : Nat) : Vec :=
  let b := x.blocks w
  { v with
    now := x.due
    slots := if v.now = x.due then v.slots + 1 else 1
    mem := vMem w || (decide (v.now = x.due) && v.mem)
    last := tput v.last x.cls r
    path := if vMem w ∧ 1 < b then x.due + b + 2 else v.path
    vtu := if vOp w = 0x15 then x.due + 4 else v.vtu }

/-- The roll after its slot in cycle `x.due`: when its next instruction, and one that reads its result, may issue (R167, R170). -/
def Roll.issued (x : Roll) (w : Nat) : Roll :=
  { x with
    due := x.due + (if vOp w = 0x16 then 3 else if vOp w = 0x17 then 2 else 1)
    ready := match vForm (vOp w) with
      | some f => if f.vd then tput x.ready (if vOp w = 0x0F then 32 + vVd w else vVd w) (x.due + vLatency w (x.blocks w)) else x.ready
      | none => x.ready }

/-- One slot: where the roll may issue the word, the scheduler moves on, and `f` gives what the instruction does. -/
def State.inSlot (s : State) (t c r : Nat) (w : Word64) (op : Nat) (f : State → Roll → State) : Out :=
  .next <| match s.slot t c r w op with
    | none => s
    | some x => f (s.updCore t c fun k => { k with vec := k.vec.grant r x w.toNat }) (x.issued w.toNat)

/-- A lane-wise instruction: `f` gives each active lane's result, its poison and its flags, from the roll as it stood. -/
def State.lanewise (s : State) (t c r : Nat) (w charge : Nat) (x : Roll) (f : Nat → PWord × BitVec 4) : State :=
  let s := s.spend t c x.cls charge
  let x' := (x.lanes w).foldl (fun (y : Roll) l =>
    let v := (f l).1
    { y with v := tput y.v (32 * vVd w + l) { v with poison := v.poison || x.guardPoison w l } }) x
  let fl := (x.lanes w).foldl (fun a l => a ||| (f l).2) 0
  (s.setRoll t c r x'.step).mergeFlags t c x.cls fl

/-- The word issues as a lane-wise instruction, where the roll may issue it. -/
def State.vecLanes (s : State) (t c r : Nat) (w : Word64) (op charge : Nat) (f : Roll → Nat → PWord × BitVec 4) : Out :=
  s.inSlot t c r w op fun s x => s.lanewise t c r w.toNat charge x (f x)

/-! ### Element operations (R105, R171) -/

def vRnd (w : Nat) : Rnd := if vRm w = 1 then .zero else .near

/-- A float type's format. -/
def typFmt (typ : Nat) : FFmt := if typ = 0 then fFp32 else if typ = 2 then fFp16 else fBf16

/-- R171: minimum or maximum of two encodings of a float format. -/
def fltMinMax (f : FFmt) (isMin : Bool) (a b : Nat) : Nat × BitVec 4 :=
  let x := f.decode a
  let y := f.decode b
  if x.isNan || y.isNan then (f.nanCode, flNVI)
  else
    let less := x.cmpX y == -1 || (x.cmpX y == 0 && x.negative && !y.negative)
    (if less == isMin then a else b, 0)

def intMinMax (n : Nat) (isMin : Bool) (a b : Nat) : Nat :=
  let less := decide (sext n a < sext n b)
  if less == isMin then a else b

/-- R170, R171: one element of an arithmetic operation: 1 add, 2 sub, 3 mul, 4 fma, 5 min, 6 max. -/
def elemOp (op : Nat) (rm : Rnd) (flt : Option FFmt) (n a b c : Nat) : Nat × BitVec 4 :=
  match flt with
  | some f =>
    match op with
    | 1 => f.addR rm a b
    | 2 => f.subR rm a b
    | 3 => f.mulR rm a b
    | 4 => f.fmaR rm a b c
    | 5 => fltMinMax f true a b
    | _ => fltMinMax f false a b
  | none =>
    let r := match op with
      | 1 => a + b
      | 2 => a + 2 ^ n - b
      | 3 => a * b
      | 4 => a * b + c
      | 5 => intMinMax n true a b
      | _ => intMinMax n false a b
    (r % 2 ^ n, 0)

/-- An arithmetic operation on one lane of a type; packed types compute each half alone. -/
def laneOp (op typ : Nat) (rm : Rnd) (a b c : Word) : Word × BitVec 4 :=
  if typ ≤ 1 then
    let r := elemOp op rm (if typ = 0 then some fFp32 else none) 32 a.toNat b.toNat c.toNat
    (BitVec.ofNat 32 r.1, r.2)
  else
    let f := if typ = 4 then none else some (typFmt typ)
    let lo := elemOp op rm f 16 (a.toNat % 2 ^ 16) (b.toNat % 2 ^ 16) (c.toNat % 2 ^ 16)
    let hi := elemOp op rm f 16 (a.toNat / 2 ^ 16) (b.toNat / 2 ^ 16) (c.toNat / 2 ^ 16)
    (BitVec.ofNat 32 (lo.1 + 2 ^ 16 * hi.1), lo.2 ||| hi.2)

/-- VADD, VSUB, VMUL, VFMA, VMIN and VMAX on one lane, with the operands' poison. -/
def arithLane (op w : Nat) (x : Roll) (l : Nat) : PWord × BitVec 4 :=
  let a := x.reg (vVa w) l
  let b := x.reg (vVb w) l
  let c : PWord := if op = 4 then x.reg (vVc w) l else {}
  let r := laneOp op (vTyp w) (vRnd w) a.val b.val c.val
  ({ val := r.1, poison := a.poison || b.poison || c.poison }, r.2)

/-- A two-operand integer operation on one lane. -/
def intLane (w : Nat) (f : Word → Word → Word) (x : Roll) (l : Nat) : PWord × BitVec 4 :=
  let a := x.reg (vVa w) l
  let b := x.reg (vVb w) l
  ({ val := f a.val b.val, poison := a.poison || b.poison }, 0)

/-- The element formats of VCVT: the codes are the TYP codes (R170). -/
def cvtFmt (typ : Nat) : Fmt :=
  match typ with
  | 0 => .flt fFp32
  | 1 => .int 32 true
  | 2 => .flt fFp16
  | 3 => .flt fBf16
  | _ => .int 16 true

/-- VCVT on one lane (R102, R170): the half that IMM16[3] names is read or written for a packed type. -/
def cvtLane (w : Nat) (x : Roll) (l : Nat) : PWord × BitVec 4 :=
  let src := vTyp w
  let dst := vImm w % 8
  let hi := bit (vImm w) 3
  let a := x.reg (vVa w) l
  let old := x.reg (vVd w) l
  let raw := if src ≤ 1 then a.val.toNat else if hi then a.val.toNat / 2 ^ 16 else a.val.toNat % 2 ^ 16
  let r := (cvtFmt dst).encode (vRnd w) (bit (vImm w) 4) 0 ((cvtFmt src).decode raw)
  if dst ≤ 1 then ({ val := BitVec.ofNat 32 r.1, poison := a.poison }, r.2)
  else
    let o := old.val.toNat
    let v := if hi then o % 2 ^ 16 + 2 ^ 16 * r.1 else o / 2 ^ 16 * 2 ^ 16 + r.1
    ({ val := BitVec.ofNat 32 v, poison := a.poison || old.poison }, r.2)

/-- R171: a VCMP condition on two lanes of fp32 or int32, with its flag. -/
def cmpLane (typ cond : Nat) (a b : Word) : Bool × BitVec 4 :=
  if typ = 1 then
    let x := a.toInt
    let y := b.toInt
    (match cond with
      | 0 => decide (x = y) | 1 => decide (x ≠ y) | 2 => decide (x < y) | 3 => decide (x ≤ y)
      | 4 => decide (y < x) | 5 => decide (y ≤ x) | _ => false, 0)
  else
    let x := fFp32.decode a.toNat
    let y := fFp32.decode b.toNat
    if x.isNan || y.isNan then (cond == 1 || cond == 6, if 2 ≤ cond ∧ cond ≤ 5 then flNVI else 0)
    else
      let d := x.cmpX y
      (match cond with
        | 0 => d == 0 | 1 => d != 0 | 2 => d == -1 | 3 => d != 1 | 4 => d == 1 | 5 => d != -1 | _ => false, 0)

/-! ### The instructions -/

def execVnop (t c r : Nat) (w : Word64) (s : State) : Out :=
  s.inSlot t c r w 0x00 fun s x => (s.spend t c x.cls chLogic).setRoll t c r x.step

def execVadd (t c r : Nat) (w : Word64) (s : State) : Out :=
  s.vecLanes t c r w 0x01 (chTyp w.toNat) (arithLane 1 w.toNat)
def execVsub (t c r : Nat) (w : Word64) (s : State) : Out :=
  s.vecLanes t c r w 0x02 (chTyp w.toNat) (arithLane 2 w.toNat)
def execVmul (t c r : Nat) (w : Word64) (s : State) : Out :=
  s.vecLanes t c r w 0x03 (chTyp w.toNat) (arithLane 3 w.toNat)
def execVfma (t c r : Nat) (w : Word64) (s : State) : Out :=
  s.vecLanes t c r w 0x04 (chTyp w.toNat) (arithLane 4 w.toNat)
def execVmin (t c r : Nat) (w : Word64) (s : State) : Out :=
  s.vecLanes t c r w 0x05 (chTyp w.toNat) (arithLane 5 w.toNat)
def execVmax (t c r : Nat) (w : Word64) (s : State) : Out :=
  s.vecLanes t c r w 0x06 (chTyp w.toNat) (arithLane 6 w.toNat)
def execVand (t c r : Nat) (w : Word64) (s : State) : Out :=
  s.vecLanes t c r w 0x07 chLogic (intLane w.toNat (· &&& ·))
def execVor (t c r : Nat) (w : Word64) (s : State) : Out :=
  s.vecLanes t c r w 0x08 chLogic (intLane w.toNat (· ||| ·))
def execVxor (t c r : Nat) (w : Word64) (s : State) : Out :=
  s.vecLanes t c r w 0x09 chLogic (intLane w.toNat (· ^^^ ·))
def execVshl (t c r : Nat) (w : Word64) (s : State) : Out :=
  s.vecLanes t c r w 0x0A chLogic (intLane w.toNat fun a b => a <<< (b.toNat % 32))
def execVshr (t c r : Nat) (w : Word64) (s : State) : Out :=
  s.vecLanes t c r w 0x0B chLogic (intLane w.toNat fun a b => a >>> (b.toNat % 32))
def execVsar (t c r : Nat) (w : Word64) (s : State) : Out :=
  s.vecLanes t c r w 0x0C chLogic (intLane w.toNat fun a b => a.sshiftRight (b.toNat % 32))

def execVcvt (t c r : Nat) (w : Word64) (s : State) : Out :=
  s.vecLanes t c r w 0x0D chArith (cvtLane w.toNat)

/-- VMOVI: the sign-extended immediate, or the upper half with HI. -/
def execVmovi (t c r : Nat) (w : Word64) (s : State) : Out :=
  s.vecLanes t c r w 0x0E chLogic fun x l =>
    let n := w.toNat
    if vHi n then
      let o := x.reg (vVd n) l
      ({ val := BitVec.ofNat 32 (o.val.toNat % 2 ^ 16 + 2 ^ 16 * vImm n), poison := o.poison }, 0)
    else ({ val := BitVec.ofInt 32 (sext 16 (vImm n)), poison := false }, 0)

/-- VCMP: the destination predicate of each active lane, poisoned where an operand is (R172). -/
def execVcmp (t c r : Nat) (w : Word64) (s : State) : Out :=
  s.inSlot t c r w 0x0F fun s x =>
    let n := w.toNat
    let f := fun l => cmpLane (vTyp n) (vImm n) (x.reg (vVa n) l).val (x.reg (vVb n) l).val
    let x' := (x.lanes n).foldl (fun (y : Roll) l =>
      let q := (x.reg (vVa n) l).poison || (x.reg (vVb n) l).poison || x.guardPoison n l
      { y with p := tput y.p (32 * vVd n + l) ((f l).1, q) }) x
    let fl := (x.lanes n).foldl (fun a l => a ||| (f l).2) 0
    ((s.spend t c x.cls chLogic).setRoll t c r x'.step).mergeFlags t c x.cls fl

def execVsel (t c r : Nat) (w : Word64) (s : State) : Out :=
  s.vecLanes t c r w 0x10 chLogic fun x l =>
    let n := w.toNat
    let p := x.psel n l
    let a := x.reg (vVa n) l
    let b := x.reg (vVb n) l
    ({ val := if p.1 then a.val else b.val, poison := p.2 || a.poison || b.poison }, 0)

def execVshfl (t c r : Nat) (w : Word64) (s : State) : Out :=
  s.vecLanes t c r w 0x11 chLogic fun x l =>
    let n := w.toNat
    let b := x.reg (vVb n) l
    let a := x.reg (vVa n) (b.val.toNat % 32)
    ({ val := a.val, poison := a.poison || b.poison }, 0)

/-- R175: the identity of a reduction. -/
def redIdentity (typ op : Nat) : Nat :=
  if typ = 0 then (match op with | 0 => 0x80000000 | 1 => 0x7F800000 | _ => 0xFF800000)
  else (match op with | 0 => 0 | 1 => 0x7FFFFFFF | _ => 0x80000000)

/-- R175: one level of the tree: adjacent pairs, left operand first. -/
def redLevel (f : Nat → Nat → Nat × BitVec 4) : List Nat → List Nat × BitVec 4
  | a :: b :: r =>
    let v := f a b
    let rest := redLevel f r
    (v.1 :: rest.1, v.2 ||| rest.2)
  | l => (l, 0)

/-- R175: `n` levels of the tree. -/
def redTree (f : Nat → Nat → Nat × BitVec 4) : Nat → List Nat → Nat × BitVec 4
  | 0, l => (l.headD 0, 0)
  | n + 1, l =>
    let x := redLevel f l
    let r := redTree f n x.1
    (r.1, x.2 ||| r.2)

/-- VRED (R175): the predicate of every lane decides what enters the tree, so its poison reaches the result
(notes/assumptions/63.md). -/
def execVred (t c r : Nat) (w : Word64) (s : State) : Out :=
  s.inSlot t c r w 0x12 fun s x =>
    let n := w.toNat
    let typ := vTyp n
    let op := vImm n
    let vals := (List.range 32).map fun l =>
      if x.active n l then (x.reg (vVa n) l).val.toNat else redIdentity typ op
    let f := elemOp (match op with | 0 => 1 | 1 => 5 | _ => 6) (vRnd n) (if typ = 0 then some fFp32 else none) 32
    let v := redTree (fun a b => f a b 0) 5 vals
    let ps := (List.range 32).any fun l => (x.active n l && (x.reg (vVa n) l).poison) || x.guardPoison n l
    (s.lanewise t c r n chArith x fun _ => ({ val := BitVec.ofNat 32 v.1, poison := ps }, 0)).mergeFlags t c x.cls v.2

/-! ### Core-store access -/

/-- R164: a lane's access is an address fault: not aligned to 4 bytes, or outside the class's window. -/
def State.laneFaults (s : State) (t c cls a : Nat) : Bool := a % 4 != 0 || !s.inWindow t c cls a 4

/-- R164: a roll of a launch made an address fault. -/
def State.rollFault (s : State) (t c : Nat) (x : Roll) : State :=
  let s := (s.flag (tileDA t) (pgVec c) 1).stopLaunch t c x.launch
  s.faultProgram t c x.cls sfUNIT (s.bank t c x.cls).pc.toNat

def execVld (t c r : Nat) (w : Word64) (s : State) : Out :=
  s.inSlot t c r w 0x13 fun s x =>
    let n := w.toNat
    if (x.lanes n).any fun l => s.laneFaults t c x.cls (x.addr n l) then s.rollFault t c x
    else
      s.lanewise t c r n (chBlock * x.blocks n) x fun l =>
        let a := x.addr n l
        ({ val := BitVec.ofNat 32 (s.word .core (coreKey t c) a),
           poison := s.psn .core (coreKey t c) a || (x.reg (vVa n) l).poison }, 0)

/-- The lanes of a store in the order in which their writes land: which of two lanes that store to one byte remains is
not stated, and depends on the store's word, addresses and values alone (R96, notes/assumptions/65.md). -/
def storeOrder (l : List Nat) (k : Nat) : List Nat := l.rotateLeft (k % 32)

def execVst (t c r : Nat) (w : Word64) (s : State) : Out :=
  s.inSlot t c r w 0x14 fun s x =>
    let n := w.toNat
    if (x.lanes n).any fun l => s.laneFaults t c x.cls (x.addr n l) then s.rollFault t c x
    else
      let s' := (s.spend t c x.cls (chBlock * x.blocks n)).setRoll t c r x.step
      let k := Config.openNat ([n] ++ (x.lanes n).flatMap fun l => [l, x.addr n l, (x.reg (vVb n) l).val.toNat])
      (storeOrder (x.lanes n) k).foldl (fun s l =>
        let v := x.reg (vVb n) l
        (s.writeRun t c x.cls (x.addr n l) (leBytes 4 v.val.toNat)
          (v.poison || (x.reg (vVa n) l).poison || x.guardPoison n l)).sawStore t c (x.addr n l) 4) s'

def execVtu (t c r : Nat) (w : Word64) (s : State) : Out :=
  s.vecLanes t c r w 0x15 chVtu fun x l =>
    let n := w.toNat
    let a := x.reg (vVa n) l
    let b : PWord := if vImm n = 7 then x.reg (vVb n) l else {}
    let v := tuOp (vImm n) (vRnd n) a.val.toNat b.val.toNat
    ({ val := BitVec.ofNat 32 v.1, poison := a.poison || b.poison }, v.2)

/-! ### Control -/

/-- VBR (R170, R172): the predicate in all 32 lanes decides; a poisoned one is poison consumed in control. -/
def execVbr (t c r : Nat) (w : Word64) (s : State) : Out :=
  s.inSlot t c r w 0x16 fun s x =>
    let n := w.toNat
    let ps := (List.range 32).map fun l => x.psel n l
    if ps.any (·.2) then
      let s := s.stopLaunch t c x.launch
      s.poisonCtl t c x.cls (s.bank t c x.cls).pc.toNat
    else
      let hit := match bits n 13 12 with
        | 0 => ps.any (·.1)
        | 1 => ps.all (·.1)
        | _ => ps.all fun p => !p.1
      (s.spend t c x.cls chLogic).setRoll t c r (if hit then { x with pc := bits n 11 0 } else x.step)

def execVsync (t c r : Nat) (w : Word64) (s : State) : Out :=
  s.inSlot t c r w 0x17 fun s x => (s.spend t c x.cls chLogic).setRoll t c r { x.step with atSync := true }

/-- VEND: the roll becomes free; the launch ends with its last roll (R163). -/
def execVend (t c r : Nat) (w : Word64) (s : State) : Out :=
  s.inSlot t c r w 0x18 fun s x =>
    let s := (s.spend t c x.cls chLogic).updCore t c fun k =>
      { k with vec := { k.vec with rolls := tdel k.vec.rolls r } }
    if (s.core t c).vec.rolls.any fun y => y.2.launch == x.launch then s
    else s.updBank t c x.cls fun b => { b with outV := b.outV - 1 }

/-- VCLR: the poison bit of the active lanes is cleared, whatever the predicate's own poison (notes/assumptions/63.md). -/
def execVclr (t c r : Nat) (w : Word64) (s : State) : Out :=
  s.inSlot t c r w 0x19 fun s x =>
    let n := w.toNat
    let x' := (x.lanes n).foldl (fun (y : Roll) l =>
      { y with v := tput y.v (32 * vVd n + l) { x.reg (vVd n) l with poison := false } }) x
    (s.spend t c x.cls chLogic).setRoll t c r x'.step

/-- VSYNC_RELEASE (R168, R170): every roll of the launch has reached its VSYNC, and all go on 2 cycles after the last. Rolls of
the launch that have ended at VEND are not waited for (DESIGN CHOICE, notes/assumptions/221.md). -/
def execVsyncRelease (t c r : Nat) (s : State) : Out :=
  .next <|
    let k := s.core t c
    match tget? k.vec.rolls r with
    | none => s
    | some x =>
      if k.vec.rolls.all fun y => y.2.launch != x.launch || y.2.atSync then
        let due := (k.vec.rolls.map fun y => if y.2.launch = x.launch then y.2.due else 0).foldl max 0
        let go := fun (y : Nat × Roll) =>
          (y.1, if y.2.launch = x.launch then { y.2 with atSync := false, due := due } else y.2)
        s.updCore t c fun k => { k with vec := { k.vec with rolls := k.vec.rolls.map go } }
      else s

end Sys2Proof.Machine
end

