-- ==== Sys2Proof/Machine/Sequencer.lean ====
section
/-! DEFINITION. The core sequencer: issue, hold and freeze (R131 to R135), branches and repeats (R140 to R143), preemption
(R144 to R146), and every instruction of R154. -/

namespace Sys2Proof.Machine

/-! ### Issue -/

/-- R144: an interruptible boundary lies before the bank's next issue. -/
def Bank.boundary (b : Bank) : Bool := b.delay.isNone && (b.loops.isEmpty || b.atFence)

/-- R141 to R143: the repeats, the PC and the fence mark after the word at `p` has issued. -/
def loopEnd : List Loop → BitVec 17 → List Loop × BitVec 17 × Bool
  | [], p => ([], p + 1, false)
  | l :: r, p =>
    if l.last = p then
      if l.left = 0 then loopEnd r p else ({ l with left := l.left - 1 } :: r, l.first, l.fence)
    else (l :: r, p + 1, false)

/-- The repeats step on from the word at `p`. -/
def Bank.loopStep (b : Bank) (p : BitVec 17) : Bank :=
  let r := loopEnd b.loops p
  { b with loops := r.1, pc := r.2.1, atFence := r.2.2 }

/-- R140: the bank after an ordinary issue: the delay slots count down, and the target follows the second. -/
def Bank.next (b : Bank) : Bank :=
  match b.delay with
  | some (n + 2, tgt) => { b with pc := b.pc + 1, delay := some (n + 1, tgt) }
  | some (_, some tgt) => { b with pc := tgt, delay := none, loops := [], atFence := false }
  | some (_, none) => { b with delay := none }.loopStep b.pc
  | none => b.loopStep b.pc

/-- `k` cycles pass on a core: the issuing bank's writes due in them take effect. -/
def State.passCycles (s : State) (t c cls k : Nat) : State :=
  let n := (s.core t c).time
  (s.retireFrom t c cls n k).updCore t c fun x => { x with time := n + k }

/-- R144: the span that an issue belongs to, and SEQ_SPAN_MAX. -/
def State.countSpan (s : State) (t c cls : Nat) : State :=
  let k := s.core t c
  let b := k.bank cls
  let taken := match b.delay with | some (_, some _) => true | _ => false
  let n := if b.boundary then 1 else if taken then k.spanLen else k.spanLen + b.idle + 1
  let s := s.setCore t c { k with spanLen := n }
  s.setReg (tileDA t) (pgSeq c) 0x084 (max (s.reg (tileDA t) (pgSeq c) 0x084) (min n 0xFFFF))

/-- The charge of an issued instruction (R416). -/
def chIssue : Nat := 6

/-- An instruction issues: its charge and its span are counted, its writes enter the pipeline, the bank goes on as `next`
says, and `cycles` cycles pass. -/
def State.issue (s : State) (t c cls : Nat) (ws : List PendWrite) (next : Bank → Bank) (cycles : Nat := 1) : State :=
  let s := (s.spend t c cls chIssue).countSpan t c cls
  let s := s.updBank t c cls fun b =>
    { next (b.push ws) with holding := false, idle := cycles - 1 }
  (s.updCore t c fun k => { k with frozen := false }).passCycles t c cls cycles

/-- R135: an instruction that cannot issue holds at an interruptible boundary, and freezes the pipeline inside a span; the units
go on. Frozen cycles count in the length of the span, in the delay slots of a taken transfer too, which R144 leaves open
(DESIGN CHOICE, notes/assumptions/218.md). -/
def State.stall (s : State) (t c cls : Nat) : State :=
  if (s.bank t c cls).boundary then
    (s.updBank t c cls fun b => { b with holding := true }).passCycles t c cls 1
  else s.updCore t c fun k => { k with frozen := true, lag := k.lag + 1, spanLen := k.spanLen + 1 }

/-- R157: the class whose bank issues the word `w` of format `fmt` and operation `op` on a core: the word lies at the
bank's PC. `none` where the sequencer does not stand at such a word. A fetch outside the class's window (R139) and a
refused encoding (R157) stop the program, whatever the command names. -/
inductive Fetched where
  | no | stop (cls pc : Nat) | ok (cls : Nat)
deriving DecidableEq, Repr

/-- R141: the word that a class fetches at word index `pc`: in a repeat body that has been captured the captured one, and the
core store's otherwise. -/
def State.wordAt (s : State) (t c cls pc : Nat) : Nat :=
  let inStore := leNat (s.bytesAt .core (coreKey t c) (8 * pc) 8)
  if (s.bank t c cls).loops.isEmpty then inStore
  else match tget? (tget (s.core t c).cache cls []) pc with | some w => w.toNat | none => inStore

/-- R141: a body word of an active repeat enters the loop cache when it is first fetched. -/
def State.capture (s : State) (t c cls : Nat) (w : Word64) : State :=
  let b := s.bank t c cls
  if b.loops.isEmpty then s
  else s.updCore t c fun k => { k with cache := tput k.cache cls (tput (tget k.cache cls []) b.pc.toNat w) }

def State.fetch (s : State) (t c : Nat) (w : Word64) (fmt op : Nat) : Fetched :=
  match (s.core t c).issuing with
  | none => .no
  | some cls =>
    let b := s.bank t c cls
    if !b.active then .no
    else if !s.inWindow t c cls (8 * b.pc.toNat) 8 then .stop cls b.pc.toNat
    else if s.wordAt t c cls b.pc.toNat ≠ w.toNat then .no
    else if !seqLegal w.toNat then .stop cls b.pc.toNat
    else if iFmt w.toNat = fmt ∧ iOp w.toNat = op then .ok cls else .no

/-- An instruction of the sequencer: `body` runs where the word is fetched. -/
def State.seq (s : State) (t c : Nat) (w : Word64) (fmt op : Nat) (body : Nat → State → State) : Out :=
  .next <| match s.fetch t c w fmt op with
    | .no => s
    | .stop cls pc => s.faultProgram t c cls sfADDR pc
    | .ok cls => body cls (s.capture t c cls w)

/-- The PC of a class as a number. -/
def State.pcOf (s : State) (t c cls : Nat) : Nat := (s.bank t c cls).pc.toNat

def State.addrFault (s : State) (t c cls : Nat) : State := s.faultProgram t c cls sfADDR (s.pcOf t c cls)
def State.poisonFault (s : State) (t c cls : Nat) : State := s.poisonCtl t c cls (s.pcOf t c cls)

/-! ### Format A: compute with parallel moves -/

/-- The writes of the compute operation of a Format A word issued in cycle `n`, from the registers that stage OP sees. -/
def computeWrites (w n : Nat) (o : Bank) : List PendWrite :=
  let op := iOp w
  let a := o.gOf (iGs1 w)
  let b := o.gOf (iGs2 w)
  let d := o.gOf (iGd w)
  let ps := a.poison || b.poison
  if op = 0 then []
  else if op ≤ 11 then [{ due := n + 2, dst := .g (iGd w), val := { val := aluOp op a.val b.val, poison := ps } }]
  else if op = 12 then [{ due := n + 2, dst := .flags (cmpFlags a.val b.val ps), val := {} }]
  else if op = 17 then
    let f := fcmpFlags a.val b.val ps
    [{ due := n + 2, dst := .flags f.1, val := {} },
     { due := n + 4, dst := .astatSet, val := { val := f.2.setWidth 32, poison := false } }]
  else
    let r := fpOp op d.val a.val b.val
    let ps := a.poison || (op != 18 && op != 19 && b.poison) || (op == 16 && d.poison)
    [{ due := n + 4, dst := .g (iGd w), val := { val := r.1, poison := ps } },
     { due := n + 4, dst := .astatSet, val := { val := r.2.setWidth 32, poison := false } }]

/-- R133, R139: the loads, stores and post-modifications of a word; none where an access is an address fault. -/
def State.moveAll (s : State) (t c cls n : Nat) (b o : Bank) (ms : List Move) : Option (List PendWrite) :=
  if ms.any fun v => s.moveFaults t c cls b v then none
  else some (ms.flatMap fun v => s.moveWrites t c n b o v)

/-- The post-modifications alone, which a faulting instruction keeps (R139). -/
def postMods (n : Nat) (b : Bank) (ms : List Move) : List PendWrite := ms.map fun v => b.postMod n v.a v.m

/-- A Format A instruction: its compute operation beside its moves. -/
def State.formatA (s : State) (t c : Nat) (w : Word64) (op : Nat) : Out :=
  s.seq t c w 0 op fun cls s =>
    let n := (s.core t c).time
    let s := s.commitStores t c cls n
    let b := s.bank t c cls
    let o := b.opView n
    let ms := movesA w.toNat
    match s.moveAll t c cls n b o ms with
    | none => (s.updBank t c cls fun b => b.push (postMods n b ms)).addrFault t c cls
    | some ws => s.issue t c cls (computeWrites w.toNat n o ++ ws) Bank.next

def execMov (t c : Nat) (w : Word64) (s : State) : Out := s.formatA t c w 0
def execAddG (t c : Nat) (w : Word64) (s : State) : Out := s.formatA t c w 1
def execSubG (t c : Nat) (w : Word64) (s : State) : Out := s.formatA t c w 2
def execAndG (t c : Nat) (w : Word64) (s : State) : Out := s.formatA t c w 3
def execOrG (t c : Nat) (w : Word64) (s : State) : Out := s.formatA t c w 4
def execXorG (t c : Nat) (w : Word64) (s : State) : Out := s.formatA t c w 5
def execShl (t c : Nat) (w : Word64) (s : State) : Out := s.formatA t c w 6
def execShr (t c : Nat) (w : Word64) (s : State) : Out := s.formatA t c w 7
def execSar (t c : Nat) (w : Word64) (s : State) : Out := s.formatA t c w 8
def execMulG (t c : Nat) (w : Word64) (s : State) : Out := s.formatA t c w 9
def execMinG (t c : Nat) (w : Word64) (s : State) : Out := s.formatA t c w 10
def execMaxG (t c : Nat) (w : Word64) (s : State) : Out := s.formatA t c w 11
def execCmp (t c : Nat) (w : Word64) (s : State) : Out := s.formatA t c w 12
def execFadd (t c : Nat) (w : Word64) (s : State) : Out := s.formatA t c w 13
def execFsub (t c : Nat) (w : Word64) (s : State) : Out := s.formatA t c w 14
def execFmul (t c : Nat) (w : Word64) (s : State) : Out := s.formatA t c w 15
def execFma (t c : Nat) (w : Word64) (s : State) : Out := s.formatA t c w 16
def execFcmp (t c : Nat) (w : Word64) (s : State) : Out := s.formatA t c w 17
def execFcvti (t c : Nat) (w : Word64) (s : State) : Out := s.formatA t c w 18
def execFcvtz (t c : Nat) (w : Word64) (s : State) : Out := s.formatA t c w 19

/-! ### Format B: immediate and single access -/

/-- A Format B instruction without a bus access: the writes that `f` gives from the IS view and the OP view. -/
def State.formatB (s : State) (t c : Nat) (w : Word64) (op : Nat) (f : Nat → Bank → Bank → List PendWrite) : Out :=
  s.seq t c w 1 op fun cls s =>
    let n := (s.core t c).time
    let b := s.bank t c cls
    s.issue t c cls (f n b (b.opView n)) Bank.next

/-- A write of a g register. -/
def wrG (due i : Nat) (v : Word) (poison : Bool) : PendWrite :=
  { due := due, dst := .g i, val := { val := v, poison := poison } }

def immOf (w : Word64) : Word := BitVec.ofNat 32 (iImm w.toNat)

def execLdi (t c : Nat) (w : Word64) (s : State) : Out :=
  s.formatB t c w 0 fun n _ _ => [wrG (n + 2) (iGd w.toNat) (immOf w) false]

def execAddi (t c : Nat) (w : Word64) (s : State) : Out :=
  s.formatB t c w 1 fun n _ o =>
    let g := o.gOf (iGs1 w.toNat)
    [wrG (n + 2) (iGd w.toNat) (g.val + immOf w) g.poison]

def execCmpi (t c : Nat) (w : Word64) (s : State) : Out :=
  s.formatB t c w 2 fun n _ o =>
    let g := o.gOf (iGs1 w.toNat)
    [{ due := n + 2, dst := .flags (cmpFlags g.val (immOf w) g.poison), val := {} }]

/-- LD and ST: one move on the bus that the word names. -/
def State.access (s : State) (t c : Nat) (w : Word64) (op : Nat) (v : Move) : Out :=
  s.seq t c w 1 op fun cls s =>
    let n := (s.core t c).time
    let s := s.commitStores t c cls n
    let b := s.bank t c cls
    match s.moveAll t c cls n b (b.opView n) [v] with
    | none => (s.updBank t c cls fun b => b.push (postMods n b [v])).addrFault t c cls
    | some ws => s.issue t c cls ws Bank.next

def execLd (t c : Nat) (w : Word64) (s : State) : Out :=
  s.access t c w 3 ⟨iBus w.toNat, true, iGd w.toNat, iAi w.toNat, iMi w.toNat⟩

def execSt (t c : Nat) (w : Word64) (s : State) : Out :=
  s.access t c w 4 ⟨iBus w.toNat, false, iGs1 w.toNat, iAi w.toNat, iMi w.toNat⟩

/-- A write of an a, m or l register without poison. -/
def wrReg (due : Nat) (dst : WDst) (v : Word) : PendWrite := { due := due, dst := dst, val := { val := v, poison := false } }

def execSeta (t c : Nat) (w : Word64) (s : State) : Out :=
  s.formatB t c w 5 fun n _ _ => [wrReg n (.a (iAi w.toNat)) (immOf w)]
def execSetm (t c : Nat) (w : Word64) (s : State) : Out :=
  s.formatB t c w 6 fun n _ _ => [wrReg n (.m (iAi w.toNat)) (immOf w)]
def execSetl (t c : Nat) (w : Word64) (s : State) : Out :=
  s.formatB t c w 7 fun n _ _ => [wrReg n (.l (iAi w.toNat)) (immOf w)]

/-- MOVA, MOVM and MOVL: a poisoned source is consumed in control (R148); MOVL faults above 0x10_0000 (R139). A poisoned source
decides first (notes/assumptions/219.md). A value wider than the 20 bits of an address or modify register is not stated to
fault: its low 20 bits are kept (DESIGN CHOICE, notes/assumptions/217.md). -/
def State.moveReg (s : State) (t c : Nat) (w : Word64) (op : Nat) (dst : WDst) (limit : Nat) : Out :=
  s.seq t c w 1 op fun cls s =>
    let n := (s.core t c).time
    let g := ((s.bank t c cls).opView n).gOf (iGs1 w.toNat)
    if g.poison then s.poisonFault t c cls
    else if limit < g.val.toNat then s.addrFault t c cls
    else s.issue t c cls [wrReg (n + 2) dst g.val] Bank.next

def execMova (t c : Nat) (w : Word64) (s : State) : Out := s.moveReg t c w 8 (.a (iAi w.toNat)) (2 ^ 32)
def execMovm (t c : Nat) (w : Word64) (s : State) : Out := s.moveReg t c w 9 (.m (iAi w.toNat)) (2 ^ 32)
def execMovl (t c : Nat) (w : Word64) (s : State) : Out := s.moveReg t c w 10 (.l (iAi w.toNat)) 0x100000

def execMovg (t c : Nat) (w : Word64) (s : State) : Out :=
  s.formatB t c w 11 fun n b _ => [wrG (n + 2) (iGd w.toNat) (BitVec.ofNat 32 (b.aOf (iAi w.toNat))) false]

/-- R156: the logical die and core of a physical core; a core that carries no logical index reads what the map holds. -/
def State.logicalId (s : State) (t c : Nat) : Nat :=
  ((s.place.logical t).getD 0xFF) + 256 * (s.place.roleOf t c)

/-- R156: the special registers. -/
def State.special (s : State) (t c sel : Nat) (o : Bank) : Word :=
  match sel with
  | 0 => o.astat.setWidth 32
  | 1 => BitVec.ofNat 32 (boolNat o.ck + 2 * boolNat o.ps + 4 * boolNat o.ab)
  | 2 => BitVec.ofNat 32 s.pacer.cycle
  | 3 => BitVec.ofNat 32 s.tick
  | 4 => BitVec.ofNat 32 (s.tick / 2 ^ 32)
  | 5 => BitVec.ofNat 32 (s.logicalId t c)
  | _ => BitVec.ofNat 32 (o.outM % 256 + 256 * (o.outV % 256) + 65536 * (o.outS % 256))

def execRds (t c : Nat) (w : Word64) (s : State) : Out :=
  s.formatB t c w 12 fun n _ o => [wrG (n + 2) (iGd w.toNat) (s.special t c (iImm w.toNat) o) false]
def execClst (t c : Nat) (w : Word64) (s : State) : Out :=
  s.formatB t c w 13 fun n _ _ => [wrReg (n + 2) .astatClr (immOf w)]
def execClev (t c : Nat) (w : Word64) (s : State) : Out :=
  s.formatB t c w 14 fun n _ _ => [wrReg (n + 2) .evClr (immOf w)]

/-! ### Format C: control -/

/-- R140, R155: a conditional control transfer. `target` gives the target and the return stack, or none for a return-stack
fault. -/
def State.branch (s : State) (t c : Nat) (w : Word64) (op : Nat)
    (target : Bank → Option (BitVec 17 × List (BitVec 17))) : Out :=
  s.seq t c w 2 op fun cls s =>
    let b := s.bank t c cls
    let code := iCond w.toNat
    if condReadsFlags code && b.flags.poison then s.poisonFault t c cls
    else
      let go := fun (tgt : Option (BitVec 17)) (rs : List (BitVec 17)) =>
        s.issue t c cls [] fun b =>
          { b with pc := b.pc + 1, delay := some (2, tgt), rstack := rs, atFence := false }
      match b.cond code with
      | some true =>
        match target b with
        | some (tgt, rs) => go (some tgt) rs
        | none => s.faultProgram t c cls sfRSTACK b.pc.toNat
      | _ => go none b.rstack

def tgtOf (w : Word64) : BitVec 17 := BitVec.ofNat 17 (iTarget w.toNat)

def execBr (t c : Nat) (w : Word64) (s : State) : Out :=
  s.branch t c w 0 fun b => some (tgtOf w, b.rstack)
def execCall (t c : Nat) (w : Word64) (s : State) : Out :=
  s.branch t c w 1 fun b => if b.rstack.length < 4 then some (tgtOf w, (b.pc + 3) :: b.rstack) else none
def execRet (t c : Nat) (w : Word64) (s : State) : Out :=
  s.branch t c w 2 fun b => match b.rstack with | p :: r => some (p, r) | [] => none

/-- R141: the first iteration of an outermost repeat begins with an empty loop cache. -/
def State.openCache (s : State) (t c cls : Nat) : State :=
  if (s.bank t c cls).loops.isEmpty then s.updCore t c fun k => { k with cache := tput k.cache cls [] } else s

/-- R141: a repeat of the next `len` words. -/
def State.repeat_ (s : State) (t c : Nat) (w : Word64) (op len : Nat) : Out :=
  s.seq t c w 2 op fun cls s =>
    let b := s.bank t c cls
    let g := b.gOf (iCgs w.toNat)
    let n := if iCsrc w.toNat then g.val.toNat % 2 ^ 16 else iCount w.toNat
    if iCsrc w.toNat && g.poison then s.poisonFault t c cls
    else if len = 0 then s.issue t c cls [] fun b => b.loopStep b.pc
    else if n = 0 then s.issue t c cls [] (fun b => b.loopStep (b.pc + BitVec.ofNat 17 len)) 3
    else (s.openCache t c cls).issue t c cls [] fun b =>
      let l : Loop := { first := b.pc + 1, last := b.pc + BitVec.ofNat 17 len, left := n - 1, fence := iFence w.toNat }
      { b with pc := b.pc + 1, loops := l :: b.loops, atFence := false }

def execRpt (t c : Nat) (w : Word64) (s : State) : Out := s.repeat_ t c w 3 1
def execRpb (t c : Nat) (w : Word64) (s : State) : Out := s.repeat_ t c w 4 (iLen w.toNat)

/-- R152: outstanding work of a unit code: the greatest of the three for code 011b. -/
def Bank.outstanding (b : Bank) (unit : Nat) : Nat :=
  match unit with
  | 0 => b.outM
  | 1 => b.outV
  | 2 => b.outS
  | _ => max b.outM (max b.outV b.outS)

def execWait (t c : Nat) (w : Word64) (s : State) : Out :=
  s.seq t c w 2 5 fun cls s =>
    if (s.bank t c cls).outstanding (iUnit w.toNat) ≤ iCount w.toNat then s.issue t c cls [] Bank.next
    else s.stall t c cls

/-! ### END (R153) -/

/-- The bytes of the class 2 window from `off` on. -/
def State.windowBytes (s : State) (t c off n : Nat) : List Byte :=
  s.bytesAt .core (coreKey t c) ((s.window t c 2).1 + off) n

/-- R189: the proposal of an ADAPT task that ends is handed to audit; it is discarded where the run's capture has overflowed (R403). -/
def State.handProposal (s : State) (t c : Nat) (k : Task) : State :=
  let doomed := (s.tile t).doomed.any fun x => x.1 == c
  match s.keeper.layers.find? fun l => l.index == k.layer with
  | none => s
  | some l =>
    if doomed then
      (s.setTile t { s.tile t with doomed := (s.tile t).doomed.filter fun x => x.1 != c }).countAdapt t c 3
    else
    let bs := s.windowBytes t c l.prop l.size
    s.setKeeper { s.keeper with proposals := s.keeper.proposals ++
      [{ t := t, c := c, layer := l.index, tick := s.tick, bytes := bs, crc := BitVec.ofNat 64 (crc64 bs) }] }

/-- R399: the sampled run of a core has ended. -/
def State.endSample (s : State) (t c : Nat) : State :=
  let u := s.tile t
  let mine := fun (x : Sample) => x.core == c && !x.ended && !x.stopped
  let u := if u.held.any fun h => mine h.x then
      { u with held := u.held.map fun h => if mine h.x then { h with x := { h.x with ended := true } } else h }
    else u
  match u.sample with
  | some x => s.setTile t (if mine x then { u with sample := some { x with ended := true } } else u)
  | none => if u.held.isEmpty then s else s.setTile t u

/-- R125, R422: the unspent coins of a class 0 or class 1 program, or COIN_OVER where it spent more. -/
def State.settleCoins (s : State) (t prog coins spent : Nat) : State :=
  let have_ := coins * 2 ^ 20
  if spent ≤ have_ then s.reportRefund t (have_ - spent)
  else
    let first := !bit (s.reg pacerDA pgMnt 0x014) 0
    let s := s.flag pacerDA pgMnt 0
    if first then s.setReg pacerDA pgMnt 0x070 (prog % 256 + 256 * ((s.place.logical t).getD 0xFF)) else s

/-- R146: the class that issues next does so 4 cycles later: 2 of switch and 2 of fetch. -/
def State.switchDelay (s : State) (t c : Nat) : State :=
  s.updCore t c fun k => if k.issuing.isSome then { k with time := k.time + 4 } else k

/-- R153, R181: the program or task of a class ends at its END. -/
def State.endProgram (s : State) (t c cls : Nat) : State :=
  let b := s.bank t c cls
  let s := (s.spend t c cls chIssue).deactivate t c cls
  let s := if b.isTask then
      let s := match (s.disp t c).running with
        | some k => if k.adapt then s.handProposal t c k else s
        | none => s
      (s.endTask t c).endSample t c
    else
      let s := s.completeEntry b.entry b.startTick
      if cls = 2 then s.endSample t c
      else
        let coins := (tget (s.core t c).programs b.prog
          ⟨cls, false, false, 0, 0, 0, 0, 0, 0, 0, 0, 0⟩).coins
        s.settleCoins t b.prog coins (b.spent + chIssue)
  s.switchDelay t c

def execEndP (t c : Nat) (w : Word64) (s : State) : Out :=
  s.seq t c w 2 6 fun cls s =>
    if (s.bank t c cls).outstanding 3 = 0 then s.endProgram t c cls else s.stall t c cls

/-! ### Format D: unit issue -/

/-- R421: a class 2 unit issue that may be held is not accepted while the allowance does not cover its charge. -/
def State.coinHold (s : State) (t c cls charge : Nat) : Bool :=
  (s.bank t c cls).boundary && !s.covers t cls charge

/-- R150: a matrix command is issued to the quad queue, which accepts it with its charge (R417). -/
def State.issueMatrix (s : State) (t c cls : Nat) (ws : List PendWrite) (w0 w1 w2 w3 : Word) : State :=
  let da := tileDA t
  let seq := s.reg da (pgMq c) 0x048
  let m : MqCmd := { w0 := w0, w1 := w1, w2 := w2, w3 := w3, cls := cls, seq := seq,
                     skip := (s.bank t c cls).skip, due := (s.core t c).clock + 5,
                     noSkip := bit (s.reg da (pgSeq c) 0x06C) 0, noGate := bit (s.reg da (pgSeq c) 0x06C) 1 }
  let q := (s.core t c).quad
  let mine := if cls < 2 then q.queue.filter fun x => x.cls != 2 else q.queue
  if 4 ≤ mine.length || s.coinHold t c cls m.charge || !s.pageEn da (pgMq c) then s.stall t c cls
  else
    let s := if cls < 2 then s.abandon t c else s
    let s := (s.incReg da (pgMq c) 0x048).spend t c cls m.charge
    let s := s.updCore t c fun k => { k with quad := { k.quad with queue := k.quad.queue ++ [m] } }
    let s := s.updBank t c cls fun b => { b with outM := b.outM + 1 }
    s.issue t c cls ws Bank.next

def execMqi (t c : Nat) (w : Word64) (s : State) : Out :=
  s.seq t c w 3 0 fun cls s =>
    let o := (s.bank t c cls).opView (s.core t c).time
    let i := iGs1 w.toNat
    let g := fun k => o.gOf (i + k)
    if (g 0).poison || (g 1).poison || (g 2).poison || (g 3).poison then s.poisonFault t c cls
    else s.issueMatrix t c cls [] (g 0).val (g 1).val (g 2).val (g 3).val

/-- MQIM: a 16-byte read on X that is misaligned or leaves the window is an address fault (R139); a poisoned granule is
consumed in control (R148). -/
def execMqim (t c : Nat) (w : Word64) (s : State) : Out :=
  s.seq t c w 3 1 fun cls s =>
    let n := (s.core t c).time
    let s' := s.commitStores t c cls n
    let b := s'.bank t c cls
    let a := b.aOf (iDai w.toNat)
    let pm := [b.postMod n (iDai w.toNat) (iDmi w.toNat)]
    if a % 16 ≠ 0 ∨ !s'.inWindow t c cls a 16 then
      (s'.updBank t c cls fun b => b.push pm).addrFault t c cls
    else if s'.psn .core (coreKey t c) a then s'.poisonFault t c cls
    else
      let v := fun k => BitVec.ofNat 32 (s'.word .core (coreKey t c) (a + 4 * k))
      s'.issueMatrix t c cls pm (v 0) (v 1) (v 2) (v 3)

/-- R164, R200: a refused unit issue stops the program. -/
def State.unitRefused (s : State) (t c cls : Nat) : State := s.faultProgram t c cls sfUNIT (s.pcOf t c cls)

def execVla (t c : Nat) (w : Word64) (s : State) : Out :=
  s.seq t c w 3 2 fun cls s =>
    let n := (s.core t c).time
    let o := (s.bank t c cls).opView n
    let lw := o.gOf (iGs1 w.toNat)
    let arg := o.gOf (iGs2 w.toNat)
    if lw.poison || arg.poison then s.poisonFault t c cls
    else if s.launchRefused t c cls lw.val then (s.flag (tileDA t) (pgVec c) 0).unitRefused t c cls
    else if (s.freeRolls t c cls).length < launchRolls lw.val || !s.pageEn (tileDA t) (pgVec c) then s.stall t c cls
    else (s.launch t c cls ((s.core t c).clock + 4) lw.val arg.val).issue t c cls [] Bank.next

/-- SIS (R151, R194): the stream enters its class's queue of four, behind those that wait for an entry; a refused one stops the
program (R200). A descriptor in the core store is read three cycles later, with the stores of the program written until then. -/
def execSis (t c : Nat) (w : Word64) (s : State) : Out :=
  s.seq t c w 3 3 fun cls s =>
    let u := (s.core t c).str
    if 4 ≤ u.count cls || (u.waiting.any fun x => x.cls == cls) || s.coinHold t c cls 0 then s.stall t c cls
    else
      let s1 := s.updBank t c cls fun b => { b with outS := b.outS + 1 }
      match s1.acceptStream t c cls .sis (iImm16 w.toNat) ((s.core t c).clock + 6)
          (s1.commitStores t c cls ((s.core t c).time + 3)) with
      | some s2 => s2.issue t c cls [] Bank.next
      | none => (s.refuseStream t c).unitRefused t c cls

/-- R416: the NI charge of a header-only packet: 40 for its flit on each hop. -/
def State.headerCharge (s : State) (da sport dst : Nat) : Nat :=
  match s.routeTo da sport dst with
  | some r => 40 * r.1
  | none => 0

def execArrive (t c : Nat) (w : Word64) (s : State) : Out :=
  s.seq t c w 3 4 fun cls s =>
    let die := iDie w.toNat
    let dst := if die = 0xFF then some t else s.physDie die
    let s := match dst with
      | some d => s.spend t c cls (s.headerCharge (tileDA t) c (tileDA d))
      | none => s
    (s.sendArrival t c cls die (iImm16 w.toNat)).issue t c cls [] Bank.next

/-! ### GATE (R119 to R121) -/

/-- R119: expert `i` precedes expert `j` among the eligible: a higher score, or an equal one and a lower index. -/
def gateBefore (x : Nat × Num) (y : Nat × Num) : Bool :=
  let c := x.2.cmpX y.2
  c == 1 || (c == 0 && decide (x.1 < y.1))

/-- The selected experts in order: the best of those left, at most `n`. -/
def gatePick : Nat → List (Nat × Num) → List Nat
  | 0, _ => []
  | n + 1, l =>
    match l.find? fun x => l.all fun y => y.1 == x.1 || gateBefore x y with
    | some x => x.1 :: gatePick n (l.filter fun y => y.1 != x.1)
    | none => []

/-- R119: the experts selected by a threshold. -/
def gateSelect (theta : Num) (scores : List Num) (kmax : Nat) : List Nat :=
  if theta.isNan then []
  else
    let l := ((List.range scores.length).zip scores).filter fun x => !x.2.isNan && x.2.cmpX theta != -1
    gatePick kmax l

def gateMask (sel : List Nat) : Nat := sel.foldl (fun a i => a + 2 ^ i) 0
def gateOrder (sel : List Nat) : Nat := packFields 5 sel + 2 ^ 20 * sel.length

/-- The scores as GATE reads them: 8 per cycle from cycle n + 1 on (R121). -/
def State.gateScores (s : State) (t c cls n a e : Nat) : List PWord :=
  (List.range e).map fun i => (s.commitStores t c cls (n + i / 8)).moveLoad t c 0 (a + 4 * i)

/-- GATE (R119 to R121). Poison decides before KMAX = 0 and a NaN threshold: the result is ORDER with PSN = 1 then
(notes/assumptions/194.md). A poisoned threshold decides before an address fault (DESIGN CHOICE, notes/assumptions/219.md). -/
def execGate (t c : Nat) (w : Word64) (s : State) : Out :=
  s.seq t c w 3 5 fun cls s =>
    let n := (s.core t c).time
    let b := s.bank t c cls
    let e := iE w.toNat
    let kmax := iKmax w.toNat
    let a := b.aOf (iDai w.toNat)
    let th := (b.opView n).gOf (iGs1 w.toNat)
    let pm := b.postMod n (iDai w.toNat) (iDmi w.toNat)
    let due := n + 4 + (e + 7) / 8
    let d := iGd w.toNat
    if th.poison then s.poisonFault t c cls
    else if e ≠ 0 ∧ (a % 4 ≠ 0 ∨ !s.inWindow t c cls a (4 * e)) then
      (s.updBank t c cls fun b => b.push [pm]).addrFault t c cls
    else
      let sc := s.gateScores t c cls n a e
      let theta := fFp32.decode th.val.toNat
      let xs := sc.map fun x => fFp32.decode x.val.toNat
      let nan := theta.isNan || xs.any (·.isNan)
      let fl := if nan then [wrReg due .astatSet (flNVI.setWidth 32)] else []
      if sc.any (·.poison) then
        let s := s.incReg (tileDA t) (pgSeq c) 0x07C kmax
        (s.updBank t c cls fun b =>
          b.push ([wrG due d 0 false, wrG due (d + 1) 0x80000000 false, pm] ++ fl)).poisonFault t c cls
      else
        let sel := gateSelect theta xs kmax
        (s.incReg (tileDA t) (pgSeq c) 0x07C (kmax - sel.length)).issue t c cls
          ([wrG due d (BitVec.ofNat 32 (gateMask sel)) false, wrG due (d + 1) (BitVec.ofNat 32 (gateOrder sel)) false, pm] ++ fl)
          Bank.next

/-! ### PREEMPT (R144 to R146) -/

/-- The highest class with an active program. -/
def Core.highest (k : Core) : Option Nat :=
  if k.bG.active then some 0 else if k.bL.active then some 1 else if k.bE.active then some 2 else none

/-- PREEMPT: at an interruptible boundary the sequencer goes to the class that outranks the issuing one; the writes of the
instructions already issued land in their own bank, and the new class issues 4 cycles later. -/
def execPreempt (t c : Nat) (s : State) : Out :=
  .next <|
    let k := s.core t c
    match k.issuing, k.highest with
    | some cls, some h =>
      if h < cls ∧ (k.bank cls).boundary ∧ !k.frozen then
        let s := s.flushBank t c cls
        (s.updCore t c fun k => { k with issuing := some h, time := k.time + 4 }).incReg (tileDA t) (pgSeq c) 0x080
      else s
    | _, _ => s

end Sys2Proof.Machine
end

