-- ==== Sys2Proof/Machine/Rerun.lean ====
section
/-! DEFINITION. The re-execution of a run by an auditor core (R100, R189, R394, R399, R400): the audit view, and the run in it. A
re-execution works on a copy of the state; of what becomes of it only the digest is kept, and the counter of free values
(notes/assumptions/156.md). -/

namespace Sys2Proof.Machine

/-- A write of a re-execution to a die store, which is not made there (R394). -/
structure Kept where
  die : Nat
  addr : Nat
  bytes : List Byte
  marks : List Bool

/-- A re-execution: the state that it sees, and its die-store writes. -/
structure Rerun where
  s : State
  kept : List Kept := []

def stateOf (s : State) : Out → State
  | .next u => u
  | _ => s

/-! ### Streams in the audit view

A stream is run whole, element by element, as R201 to R206 and R221 give it: gates count as open, and neither the network nor
tokens delay it. -/

/-- An entry of a translation table, with its poison. -/
def State.viewEntry (s : State) (a : Nat) : Nat × Bool := (leNat (s.bytesAt .dram 0 a 8), s.psn .dram 0 a)

/-- R220: a virtual address through the die's cache, or by a walk; none where it cannot be translated. -/
def State.viewXlate (s : State) (t va : Nat) (write : Bool) : Option Nat :=
  if s.reg (tileDA t) pgStrDie 0x048 % 2 = 0 then none
  else match s.xlate t none va write with
    | some r => r
    | none =>
      let e := s.viewEntry (s.walkAddr t va [])
      let l := if badLevel1 e then [e] else [e, s.viewEntry (s.walkAddr t va [e])]
      match (s.walkResult va l false).1 with
      | some x => if write && !x.write then none else some (x.frame * 2 ^ 21 + va % 2 ^ 21)
      | none => none

/-- The byte at which the next run of a stream begins at its source or its destination. -/
def State.viewPlace (s : State) (t : Nat) (st : Stream) (read : Bool) : Option Nat :=
  let a := (if read then dSrc st.desc st.next else dDst st.desc st.next).toNat
  if dXlt st.desc && (match st.far with | some (_, r) => r == read | none => false) then s.viewXlate t a (!read) else some a

/-- The next `n` elements of a stream's source. What the logic behind a fabric port answers is open; an unbound die gives poison
(R479). -/
def State.viewElems (s : State) (t c : Nat) (st : Stream) (n a : Nat) : List (List Byte × Bool) :=
  let e := dEsz st.desc
  let from_ := fun (sp : Sp) (unit : Nat) => cutElems e n (s.bytesAt sp unit a (e * n)) fun i => s.psn sp unit (a + i)
  match st.far with
  | some (1, true) =>
    match s.physDie (dXdie st.desc) with
    | some r => from_ .die r
    | none => cutElems e n (freeBytes s.free (e * n)) fun _ => true
  | some (2, true) => from_ .dram 0
  | some (_, true) => cutElems e n (freeBytes s.free (e * n)) fun _ => false
  | _ => s.sourceElems t c st st.next n

/-- R394: elements written at their destination: in the core store; those that go to a die store are kept aside, and those that
go elsewhere are not made. All enter the run digest. -/
def Rerun.put (f : Rerun) (t c : Nat) (st : Stream) (first : Nat) (els : List (List Byte × Bool)) (a : Nat) : Rerun × Stream :=
  let d := st.desc
  match st.far with
  | some (sp, false) =>
    let data := (els.map (·.1)).flatten
    let psn := els.flatMap fun x => List.replicate (dEsz d) x.2
    let r := (f.s.noteFar t c st sp a data (pktMarks a psn)).countPsn t c st (granPsn (dDSP d) (dDst d first).toNat psn)
    let die := if sp = 1 then f.s.physDie (dXdie d) else none
    ({ s := r.1, kept := f.kept ++ die.toList.map fun y => ⟨y, a, data, granMarks a psn⟩ }, r.2)
  | _ =>
    if dDSP d = 1 then
      let segs := destSegs d first els
      let r := (segs.foldl (fun s g => s.noteSeg t c st g) f.s).countPsn t c st (segs.flatMap fun g => granPsn 1 g.addr g.psn)
      ({ s := r.1, kept := f.kept ++ segs.map fun g => ⟨t, g.addr, g.bytes, granMarks g.addr g.psn⟩ }, r.2)
    else
      let r := f.s.deliver t c st first els
      ({ f with s := r.1 }, r.2)

/-- The next run of elements of a stream (R201, R216, R221). -/
def Rerun.advance (f : Rerun) (t c : Nat) (st : Stream) : Rerun × Stream :=
  let d := st.desc
  let n := st.runLen
  let st' := { st with next := st.next + n }
  let f' := { f with s := { f.s with free := f.s.free + n * dEsz d } }
  let dst := f.s.viewPlace t st false
  if st.cursor.isSome then
    match dst with
    | some a => f'.put t c st' st.next ((List.range n).map fun i => (freeBytes (f.s.free + i * dEsz d) (dEsz d), true)) a
    | none => (f', st')
  else
    match f.s.viewPlace t st true, dst with
    | some a, some b =>
      let els := f.s.viewElems t c st n a
      if dPsn d = 1 ∧ els.any (·.2) then (f', st'.setCursor st.next false true)
      else
        let r := f'.put t c st' st.next els b
        (r.1, { r.2 with psnElems := r.2.psnElems ++ badElems st.next els })
    | _, _ => (f', st'.setCursor st.next true false)

/-- The elements of a stream that are left, in `fuel` runs at most. -/
def Rerun.elements (t c : Nat) : Nat → Rerun → Stream → Rerun × Stream
  | 0, f, st => (f, st)
  | n + 1, f, st =>
    if dTotal st.desc ≤ st.next then (f, st)
    else
      let r := f.advance t c st
      Rerun.elements t c n r.1 r.2

/-- The running stream of a class, where the sequencer has issued it (R151), runs to its completion (R205). -/
def Rerun.stream (f : Rerun) (t c cls : Nat) : Rerun :=
  match (f.s.core t c).str.running cls with
  | none => f
  | some st =>
    if (f.s.core t c).reached st.due then
      let r := Rerun.elements t c (2 * dTotal st.desc + 2) f st
      { r.1 with s := (r.1.s.setRunning t c cls none).finishStream t c r.2 }
    else f

/-! ### One round of a core's units -/

/-- The meaning of a sequencer word by its format and operation. An illegal word stops the program in every one of them. -/
def seqMeaning (w : Nat) : Nat → Nat → Word64 → State → Out :=
  let l := match iFmt w with
    | 0 => [execMov, execAddG, execSubG, execAndG, execOrG, execXorG, execShl, execShr, execSar, execMulG, execMinG, execMaxG,
        execCmp, execFadd, execFsub, execFmul, execFma, execFcmp, execFcvti, execFcvtz]
    | 1 => [execLdi, execAddi, execCmpi, execLd, execSt, execSeta, execSetm, execSetl, execMova, execMovm, execMovl, execMovg,
        execRds, execClst, execClev]
    | 2 => [execBr, execCall, execRet, execRpt, execRpb, execWait, execEndP]
    | _ => [execMqi, execMqim, execVla, execSis, execArrive, execGate]
  l.getD (iOp w) execMov

/-- The sequencer issues its next word, or waits a cycle. -/
def State.stepSeq (s : State) (t c : Nat) : State :=
  match (s.core t c).issuing with
  | none => s
  | some cls =>
    let w := s.wordAt t c cls (s.pcOf t c cls)
    stateOf s (seqMeaning w t c (BitVec.ofNat 64 w) s)

/-- The quad: the front of its queue leaves it, a load and a multiply complete. -/
def State.stepQuad (s : State) (t c : Nat) : State :=
  let s := match s.queueHead t c with
    | none => s
    | some (m, _) => stateOf s (match m.kind with
        | 1 => execWeightLoad t c s
        | 2 => execMatrixMultiply t c s
        | _ => execMatrixNop t c s)
  let s := stateOf s (execWeightLoadComplete t c s)
  stateOf s (execMultiplyComplete t c s)

/-- The meaning of a vector word by its operation. -/
def vecMeaning (w : Nat) : Nat → Nat → Nat → Word64 → State → Out :=
  [execVnop, execVadd, execVsub, execVmul, execVfma, execVmin, execVmax, execVand, execVor, execVxor, execVshl, execVshr, execVsar,
    execVcvt, execVmovi, execVcmp, execVsel, execVshfl, execVred, execVld, execVst, execVtu, execVbr, execVsync, execVend,
    execVclr].getD (vOp w) execVnop

/-- The vector engine: the next slot, or where no roll competes the release of the launches that wait at a VSYNC. -/
def State.stepVec (s : State) (t c : Nat) : State :=
  match s.nextGrant t c with
  | some r =>
    let w := s.rollWord t c (tget (s.core t c).vec.rolls r (rollStart 0 0 0 0 0 0))
    stateOf s (vecMeaning w t c r (BitVec.ofNat 64 w) s)
  | none => (s.core t c).vec.rolls.foldl (fun s x => stateOf s (execVsyncRelease t c x.1 s)) s

/-- R394: arrivals and signals are suppressed, and what the view's units send goes nowhere. -/
def State.hush (s : State) : State := s.setNet { s.net with queued := [], arrived := [] }

/-- One round: each unit of the core goes on by one step. By R96 their order does not matter. -/
def Rerun.round (f : Rerun) (t c cls : Nat) : Rerun :=
  ({ f with s := (((f.s.stepSeq t c).stepQuad t c).stepVec t c).hush }).stream t c cls

/-- The program or task of a class runs until it is no longer active; none where it does not end in `fuel` rounds. -/
def Rerun.run (t c cls : Nat) : Nat → Rerun → Option Rerun
  | 0, _ => none
  | n + 1, f => if (f.s.bank t c cls).active then Rerun.run t c cls n (f.round t c cls) else some f

/-- More rounds than a run can take in the ticks that an audit has. -/
def rerunFuel : Nat := 2 ^ 24

/-! ### The audit view (R394) -/

/-- The granules of a capture read as they were. -/
def State.withCapture (s : State) (l : List (Nat × List Byte × Bool)) : State :=
  l.foldl (fun s x =>
    { s with
      mem := memPutAll s.mem (x.1 * 32) (x.2.1.map some)
      poison := nset s.poison x.1 x.2.2
      zeroTags := if x.1 < gGran .coef 0 0 then nset s.zeroTags x.1 (x.2.1.all (· == 0) && !x.2.2) else s.zeroTags }) s

/-- The auditor core of a die: the spare of the die that audits it. -/
def State.auditorCore (s : State) (t : Nat) : Option (Nat × Nat) :=
  (s.place.auditorOf t).bind fun a => (s.place.spare a).map fun c => (a, c)

/-- The audit view of a run of core `c` of die `t` in tick `tick`: the captured granules, the programs of the core, the quad of the
auditor, the tick number of the run (R100), and an allowance that holds nothing back. The local cycle is not that of the run. -/
def State.auditView (s : State) (t c tick : Nat) (a : Nat × Nat) (cap : List (Nat × List Byte × Bool)) : State :=
  let s := s.withCapture cap
  let q := (s.core a.1 a.2).quad
  let s := s.setCore t c { programs := (s.core t c).programs, quad := { q with queue := [], muls := [], load := none } }
  let s := s.setReg (tileDA t) (pgMq c) 0x01C 0
  let s := s.setTile t { s.tile t with allowance := 2 ^ 64 }
  (s.setPacer { s.pacer with tick := tick, cycle := Config.freeNat s.free }).draw

/-! ### Samples (R399, R400, R403) -/

/-- The auditor runs a sample: from the bank that its dispatch left, with the seed of the original tick (R100). -/
def State.rerunSample (s : State) (t : Nat) (x : Sample) (cap : List (Nat × List Byte × Bool)) : Option State :=
  (s.auditorCore t).bind fun a =>
    let s := s.auditView t x.core x.tick a cap
    let s := s.setTile t { s.tile t with sample := some { x with digest := 0, ended := false, stopped := false, adapt := false } }
    let s := s.setBank t x.core 2 { x.bank with outM := 0, outV := 0, outS := 0 }
    let s := s.updCore t x.core fun k => { k with issuing := some 2 }
    (Rerun.run t x.core 2 rerunFuel { s := s }).map (·.s)

/-- What the auditor's run of a sample gives: its run digest (R399), or for an adaptation run the CRC-64 of its proposal (R189,
R403); and the counter of free values after it. None where it does not finish. -/
def State.audited (s : State) (t : Nat) (x : Sample) (cap : List (Nat × List Byte × Bool)) : Option (Nat × BitVec 64) :=
  (s.rerunSample t x cap).map fun u =>
    (u.free,
      if x.adapt then
        match u.keeper.layers.find? fun l => l.index == x.layer with
        | some l => BitVec.ofNat 64 (crc64 (u.windowBytes t x.core l.prop l.size))
        | none => 0
      else match (u.tile t).sample with | some y => y.digest | none => 0)

/-! ### Tie-breaks (R394) -/

/-- R394: the entry that a tie-break executes: the first, where an auditor of its die exists, and otherwise the second. -/
def State.tieEntry (s : State) (x : TieBreak) : Nat :=
  if (s.place.auditorOf (x.coreA / 16)).isSome then x.coreA else x.coreB

/-- R394: the START entries of a tick of the class 0 and class 1 programs of a core, in AT order, the order of the table (R45). -/
def State.tieStarts (s : State) (t c tick : Nat) : List TtEntry :=
  s.pacer.entries.filter fun e =>
    e.kind == 1 && decide (e.cls < 2) && e.fires tick && decide (s.entryCore e = some (t, c))

/-- A START entry runs its program to completion. -/
def Rerun.start (t c : Nat) (f : Rerun) (e : TtEntry) : Option Rerun :=
  let h := f.s.prog t c e.obj
  if h.codeLen = 0 ∨ h.cls ≠ e.cls then some f
  else Rerun.run t c h.cls rerunFuel { f with s := f.s.startBank t c h.cls false h.skip e.obj 0 h.entry h.seed }

/-- R394, R383: the die-store writes of a re-execution made, for its digest. -/
def Rerun.made (f : Rerun) : State :=
  f.kept.foldl (fun s w => s.write .die w.die w.addr (w.bytes.map some) w.marks) f.s

/-- R394: the auditor on die `a` executes an entry's tick again from its restore image and current generation; the digest with
the entry's addresses, none where a program faulted (R395) or did not end; and the counter of free values. -/
def State.rerunTie (s : State) (x : TieBreak) (a : Nat) : Option (BitVec 64) × Nat :=
  let key := s.tieEntry x
  let t := key / 16
  let c := key % 16
  let k := s.place.roleOf t c
  match s.place.spare a, s.place.logical t with
  | some ca, some n =>
    let s := s.auditView t c x.tick (a, ca) ((s.tile (x.coreA / 16)).tieCapture ++ (s.tile (x.coreB / 16)).tieCapture)
    let s := (s.spareImage t c k).restoreRange t c k false (s.esc t k false).cur
    let events := fun (s : State) => s.reg (tileDA t) (pgSeq c) 0x020
    match (s.tieStarts t c x.tick).foldl (fun f e => f.bind fun y => Rerun.start t c y e) (some { s := s }) with
    | none => (none, s.free)
    | some f =>
      (if events f.s = events s then some (BitVec.ofNat 64 (f.made.entryDigest t c n x.cgroup)) else none, f.s.free)
  | _, _ => (none, s.free)

end Sys2Proof.Machine
end

