-- ==== Sys2Proof/Machine/Tasks.lean ====
section
/-! DEFINITION. Estimate tasks: the ring (R176 to R178), staging and dispatch (R179, R180), overrun (R181), stealing (R183 to
R187), the expiry of proposals (R189). -/

namespace Sys2Proof.Machine

/-! ### The ring (R176, R178) -/

/-- R178: the number of tasks in the ring; a TAIL out of range empties it. -/
def State.ringCount (s : State) (t c : Nat) : Nat :=
  let n := s.ringDiff t c
  if s.ringSize t c = 0 ∨ s.ringSize t c < n then 0 else n

/-- The task `i` positions from the head. -/
def State.ringTask (s : State) (t c i : Nat) : Task :=
  let j := (s.ringHead t c + i) % 2 ^ 16 % s.ringSize t c
  taskOf (s.bytesAt .core (coreKey t c) (s.ringBase t c + 32 * (1 + j)) 32)

/-- HEAD is advanced; bits [31:16] of its word are written as 0. -/
def State.advanceHead (s : State) (t c n : Nat) : State :=
  s.writeAll .core (coreKey t c) (s.ringBase t c) (leBytes 4 ((s.ringHead t c + n) % 2 ^ 16)) false

/-! ### Staging (R179) -/

/-- R177, R179: the descriptor carries no reserved code, and its layer is declared. -/
def State.taskOk (s : State) (k : Task) : Bool :=
  let w0 := k.w0.toNat
  k.steal != 3 && bits w0 31 23 == 0 && bits k.w2.toNat 31 24 == 0 && bits k.w3.toNat 31 20 == 0 &&
  (if k.adapt then s.keeper.layers.any fun l => l.index == k.layer else k.layer == 0)

/-- The next task in the order of R179, taken from its place. -/
def State.nextTask (s : State) (t c : Nat) : Option (Task × State) :=
  let d := s.disp t c
  match d.ret, d.steal with
  | some k, _ => some (k, s.updDisp t c fun d => { d with ret := none })
  | none, k :: r => some (k, s.updDisp t c fun d => { d with steal := r })
  | none, [] => if s.ringCount t c = 0 then none else some (s.ringTask t c 0, s.advanceHead t c 1)

/-- A task is staged and its input stream released; none where the descriptor or its stream is refused. -/
def State.stageTask (s : State) (t c : Nat) (k : Task) : Option State :=
  if s.taskOk k then
    let s := s.updDisp t c fun d => { d with staged := some k, ready := decide (k.instr = 0xFFFF) }
    if k.instr = 0xFFFF then some s
    else s.enterStream t c 2 .taskIn k.instr (s.core t c).clock
  else none

/-- Descriptors are taken until one is staged or none is left. -/
def State.stageNext (s : State) (t c : Nat) : Nat → State
  | 0 => s
  | n + 1 =>
    match s.nextTask t c with
    | none => s
    | some (k, s) =>
      match s.stageTask t c k with
      | some s => s
      | none =>
        let s := if s.taskOk k then s.refuseStream t c else s
        (s.flag (tileDA t) (pgVec c) 2).stageNext t c n

/-- The dispatcher of a core that carries a logical core works. -/
def State.dispatches (s : State) (t c : Nat) : Bool :=
  decide (s.place.roleOf t c < 8) && (s.place.logical t).isSome && s.pageEn (tileDA t) (pgVec c) && s.pageEn (tileDA t) (pgSeq c)

/-- It takes tasks: VEC_RING_CTRL.EN. -/
def State.takesTasks (s : State) (t c : Nat) : Bool := bit (s.reg (tileDA t) (pgVec c) 0x04C) 0 && s.dispatches t c

/-- R389: from the restart strobe to the restart edge no task is dispatched, and none is staged, whose ring the restore takes back
(notes/assumptions/223.md). -/
def State.restoring (s : State) : Bool := decide (s.pacer.phase = .restarting)

/-- TASK_STAGE (R179). -/
def execTaskStage (t c : Nat) (s : State) : Out :=
  .next <|
    if s.takesTasks t c && !s.restoring && (s.disp t c).staged.isNone then (s.checkRing t c).stageNext t c (s.ringCount t c + 9) else s

/-! ### Dispatch (R180, R181) -/

/-- R396: a reserve die has entered service and is not loaded yet: no estimate task is dispatched. -/
def State.awaitsReserve (s : State) : Bool :=
  s.keeper.reserveLoads.any fun x => !(s.place.unjoined.contains (16 * x.1))

/-- TASK_DISPATCH (R180): the descriptor is copied to the class 2 window and the task starts. -/
def execTaskDispatch (t c : Nat) (s : State) : Out :=
  .next <|
    let d := s.disp t c
    let k := s.core t c
    match d.staged with
    | none => s
    | some task =>
      if d.ready && !k.bG.active && !k.bL.active && !k.bE.active && !s.awaitsReserve && !s.restoring && (s.place.dieState t == 1) then
        let s := s.writeAll .core (coreKey t c) (s.window t c 2).1 task.bytes false
        let s := s.updDisp t c fun d => { d with
          staged := none, ready := false, running := some task, dispTick := s.tick, xfaulted := false }
        let s := s.startBank t c 2 true task.skip 0 0 (BitVec.ofNat 17 task.entry) task.w1
        s.beginSample t c task.adapt task.latest
      else s

/-- A task with RETRY set. -/
def Task.retried (k : Task) : Task := { k with w0 := BitVec.ofNat 32 (setBit k.w0.toNat 22) }

/-- TASK_OVERRUN (R181): the edge that ends tick (dispatch + LATEST). A task with a stream that has faulted is parked (R222). -/
def execTaskOverrun (t c : Nat) (s : State) : Out :=
  .next <|
    let d := s.disp t c
    match d.running with
    | none => s
    | some k =>
      let last := d.dispTick + k.latest
      let due := decide (last < s.tick) || (decide (last = s.tick) && decide (s.period ≤ s.pacer.cycle))
      if s.running && due && (s.bank t c 2).isTask && (s.bank t c 2).active then
        let s := (s.flag pacerDA pgTkc 3).endUnits2 t c
        let s := (s.deactivate t c 2).updDisp t c fun d => { d with running := none, xfaulted := false }
        if d.xfaulted then s.parkTask t c k else if k.retry then s else s.returnTask t c k.retried
      else s

/-! ### Stealing (R183 to R187) -/

/-- R183: the victims of a round: logical die, logical core, SCOPE. -/
def State.victims (s : State) (t c n k : Nat) : List (Nat × Nat × Nat) :=
  let own := (List.range 7).map fun i => (n, (k + 1 + i) % 8, 0)
  let w := s.reg (tileDA t) (pgVec c) 0x050
  own ++ (List.range 4).flatMap fun p =>
    let d := bits w (8 * p + 7) (8 * p)
    if d = 0xFF then [] else (List.range 8).map fun j => (d, j, 1)

/-- A reply with nothing: the next victim, or the wait after a full round. -/
def State.nextVictim (s : State) (t c : Nat) : State :=
  let n := s.place.logical t |>.getD 0
  let len := (s.victims t c n (s.place.roleOf t c)).length
  let wait := bits (s.reg (tileDA t) (pgVec c) 0x04C) 15 8 != 0
  s.updDisp t c fun d =>
    let d := { d with request := none, victim := d.victim + 1 }
    if len ≤ d.victim then { d with victim := 0, backoff := wait } else d

/-- R184: the payload of a steal request. -/
def stealRequestData (n k count scope : Nat) (seq : Word) : List Byte :=
  leBytes 4 (n % 2 ^ 8 + 2 ^ 8 * k + 2 ^ 16 * (count % 8) + 2 ^ 24 * scope) ++ leBytes 4 seq.toNat

/-- R183: nothing to run and nothing to take. -/
def State.idleDisp (s : State) (t c : Nat) : Bool :=
  let d := s.disp t c
  d.ret.isNone && d.steal.isEmpty && d.staged.isNone && decide (s.ringCount t c = 0) && d.request.isNone && !d.backoff

/-- STEAL_SEND (R183), where STEAL_EN is set: a request to the next victim; one that cannot be routed counts as a reply with
nothing. -/
def execStealSend (t c : Nat) (s : State) : Out :=
  .next <|
    let ctrl := s.reg (tileDA t) (pgVec c) 0x04C
    match s.place.logical t with
    | none => s
    | some n =>
      let k := s.place.roleOf t c
      if s.dispatches t c && bit ctrl 1 && s.idleDisp t c then
        let d := s.disp t c
        match (s.victims t c n k)[d.victim]? with
        | none => s.nextVictim t c
        | some (vn, vk, scope) =>
          let s := s.updDisp t c fun d => { d with
            request := some d.reqSeq, reqSeq := d.reqSeq + 1, reqSince := s.boot.time }
          match s.physCore vn vk with
          | some (vt, vc) =>
            if (s.routeTo (tileDA t) c (tileDA vt)).isSome then
              s.post (msgPkt (tileDA t) c (tileDA vt) vc 2 0x01 (stealRequestData n k (bits ctrl 4 2) scope d.reqSeq))
            else ((s.flag (tileDA t) pgNi 1).flag (tileDA t) (pgVec c) 5).nextVictim t c
          | none => ((s.flag (tileDA t) pgNi 1).flag (tileDA t) (pgVec c) 5).nextVictim t c
      else s

/-- R186: the payload of a steal reply. -/
def stealReplyData (n k : Nat) (given : List Task) (seq : Nat) : List Byte :=
  leBytes 4 (n % 2 ^ 8 + 2 ^ 8 * (k % 16) + 2 ^ 16 * given.length) ++ leBytes 4 seq ++ List.replicate 24 0 ++
    given.flatMap Task.bytes

/-- R185: a task as its victim gives it. -/
def Task.stolenFrom (k : Task) (n c : Nat) : Task :=
  { k with w0 := BitVec.ofNat 32 (setBit k.w0.toNat 21),
           w3 := BitVec.ofNat 32 (putBits k.w3.toNat 19 8 (n % 2 ^ 8 + 2 ^ 8 * c)) }

/-- The run of tasks from the head that qualify, at most `n` (R185). -/
def State.givable (s : State) (t c scope : Nat) : Nat → Nat → List Task
  | _, 0 => []
  | i, n + 1 =>
    let k := s.ringTask t c i
    if k.steal = 2 ∨ (k.steal = 1 ∧ scope = 0) then k :: s.givable t c scope (i + 1) n else []

/-- STEAL_REQUEST (R185): the victim answers, and gives tasks from its ring head. -/
def execStealRequest (p : Packet) (s : State) : Out :=
  s.message p 0x01 (decide (dieKind p.dst.toNat = some .tile) && decide (p.dport.toNat < 9) && decide (p.len = 8)) fun s =>
    let t := tileOfDA p.dst.toNat
    let c := p.dport.toNat
    let w := pword p 0
    let n := s.place.logical t |>.getD 0xFF
    let k := s.place.roleOf t c
    let count := bits w 18 16
    let bad := bits w 15 12 != 0 || bits w 23 19 != 0 || bits w 31 25 != 0
    let have_ := s.ringCount t c
    let g := if bad then [] else (s.givable t c (bits w 24 24) 0 (min count ((have_ + 1) / 2))).map fun x => x.stolenFrom n k
    let s := if g.isEmpty then s else (s.advanceHead t c g.length).incReg (tileDA t) (pgVec c) 0x058 g.length
    s.post (msgPkt (tileDA t) c p.src.toNat p.sport.toNat 2 0x02 (stealReplyData n k g (pword p 1)))

/-- R186: the reply is as long as GIVEN says and carries no reserved bit. -/
def stealReplyOk (p : Packet) : Bool :=
  let w := pword p 0
  decide (dieKind p.dst.toNat = some .tile) && decide (p.dport.toNat < 9) &&
  decide (p.len.toNat = 32 * (1 + bits w 18 16)) && bits w 15 12 == 0 && bits w 31 19 == 0

/-- STEAL_REPLY (R187): the thief places the tasks in its steal buffer; poisoned descriptors are discarded. -/
def execStealReply (p : Packet) (s : State) : Out :=
  s.message p 0x02 (stealReplyOk p) fun s =>
    let t := tileOfDA p.dst.toNat
    let c := p.dport.toNat
    let da := tileDA t
    if (s.disp t c).request = some (BitVec.ofNat 32 (pword p 1)) then
      let g := bits (pword p 0) 18 16
      let all := (List.range g).map fun i => (taskOf ((p.data.drop (32 * (1 + i))).take 32), p.psn.getD (1 + i) false)
      let good := all.filter fun x => !x.2
      let s := if g = 0 then s.nextVictim t c
        else s.updDisp t c fun d => { d with request := none, victim := 0, steal := (d.steal ++ good.map (·.1)).take 8 }
      let s := if g = 0 then s else s.incReg da (pgVec c) 0x05C g
      if all.length = good.length then s else s.flag da (pgVec c) 4
    else s.flag da (pgVec c) 5

/-- The reply to a request has arrived. -/
def State.stealAnswered (s : State) (t c : Nat) (seq : Word) : Bool :=
  s.net.arrived.any fun p => p.dst.toNat == tileDA t && p.dport.toNat == c && p.opc == opMSG && decide (pword p 1 = seq.toNat)

/-- R183, R251: a steal request that no reply answers within NI_TIMEOUT ends with the error response TIMEOUT: a reply with nothing,
and STEAL_ERR (notes/assumptions/198.md). -/
def State.stealTimeout (s : State) (da c : Nat) : State :=
  let t := tileOfDA da
  match dieKind da, (s.disp t c).request with
  | some .tile, some seq =>
    if 9 ≤ c ∨ s.stealAnswered t c seq ∨ s.boot.time < (s.disp t c).reqSince + s.niTimeout da then s
    else (((s.flag da pgNi 0).incReg da pgNi 0x064).flag da (pgVec c) 5).nextVictim t c
  | _, _ => s

/-- BACKOFF (R183): the wait after an empty round is over. -/
def execBackoff (t c : Nat) (s : State) : Out := .next (s.updDisp t c fun d => { d with backoff := false })

/-! ### Proposals (R189) -/

/-- PROPOSAL_EXPIRY: the oldest proposal of a core, 64 ticks after it was handed to audit. -/
def execProposalExpiry (t c : Nat) (s : State) : Out :=
  .next <|
    match s.keeper.proposals.find? fun x => x.t == t && x.c == c && decide (x.tick + 64 ≤ s.tick) with
    | none => s
    | some x => (s.setKeeper { s.keeper with proposals := s.keeper.proposals.erase x }).countAdapt t c 3

end Sys2Proof.Machine
end

