-- ==== Sys2Proof/Machine/Audit.lean ====
section
/-! DEFINITION. The estimate audit (R398 to R400, R403) and the tie-break of a clearing mismatch (R394, R395). -/

namespace Sys2Proof.Machine

/-! ### Adaptation (R189, R190, R403) -/

/-- An approved proposal: its transfer begins, or it waits while the layer is ready or under transfer; one that waited
before it is discarded, and DISCARDED counts it at the core of the newer one (DESIGN CHOICE, notes/assumptions/220.md). -/
def State.approve (s : State) (x : Proposal) : State :=
  let s := s.countAdapt x.t x.c 0
  match s.keeper.layers.find? fun l => l.index == x.layer with
  | none => s
  | some l =>
    if l.ready || l.transfer.isSome then
      let s := s.setLayer { l with waiting := some x.bytes }
      if l.waiting.isSome then s.countAdapt x.t x.c 3 else s
    else s.setLayer { l with transfer := some x.bytes }

/-- A proposal leaves the audit. -/
def State.dropProposal (s : State) (x : Proposal) : State :=
  s.setKeeper { s.keeper with proposals := s.keeper.proposals.erase x }

/-! ### Samples -/

/-- A sample is over; the rotation advances with a sample that completes and that was taken in turn (R398). -/
def State.closeSample (s : State) (t : Nat) (advance : Bool) : State :=
  let u := s.tile t
  s.setTile t { u with
    sample := none, capture := [], captureOvf := false,
    nextSample := if advance then (u.nextSample + 1) % 8 else u.nextSample }

/-- R400: the run digests are unequal: the report, which charges no unit yet, the record, the rollback, and a second audit run,
for which the capture goes on. -/
def State.auditMismatch (s : State) (t : Nat) (x : Sample) (cap : List (Nat × List Byte × Bool)) (run audit : BitVec 64) : State :=
  let s := s.setTile t { s.tile t with sample := some { x with digests := some (run, audit), ended := true }, capture := cap }
  let s := s.report (tileDA t) 2 0x0D noRef (s.place.roleOf t x.core)
  let s := (s.flag (tileDA t) pgAud 0).incReg (tileDA t) pgAud 0x04C
  s.rollback t x.core 1

/-- R400: the second audit run decides whom the mismatch is charged to. -/
def State.auditDecide (s : State) (t : Nat) (x : Sample) (run first second : BitVec 64) : State :=
  let da := tileDA t
  let audited := coreRef t x.core
  let s := s.closeSample t (!x.adapt)
  if second = first then s.charge da audited ckConfirmed 0x0D noRef
  else
    match s.auditorCore t with
    | none => s.charge da audited ckSuspect 0x0D noRef
    | some (a, c) =>
      if second = run then s.charge da (coreRef a c) ckConfirmed 0x0D noRef
      else (s.charge da audited ckSuspect 0x0D noRef).charge da (coreRef a c) ckSuspect 0x0D noRef

/-- R403: the wait of an adaptation run is over. -/
def State.dropHeld (s : State) (t : Nat) (x : Sample) : State :=
  let u := s.tile t
  if u.held.isEmpty then s
  else s.setTile t { u with held := u.held.filter fun h => !(h.x.core == x.core && h.x.tick == x.tick) }

/-- The proposal that the adaptation run of a sample has handed to audit. -/
def State.proposalOf (s : State) (t : Nat) (x : Sample) : Option Proposal :=
  s.keeper.proposals.find? fun y => y.t == t && y.c == x.core && decide (x.tick ≤ y.tick)

/-- The capture of a sample: the die's, or that of an adaptation run that waits. -/
def State.captureOf (s : State) (t : Nat) (x : Sample) : List (Nat × List Byte × Bool) :=
  match (s.tile t).sample with
  | some _ => (s.tile t).capture
  | none => (((s.tile t).held.find? fun h => h.x == x).map (·.capture)).getD []

/-- R189, R403: the audit of an adaptation run; `audit` is the CRC-64 of the proposal in the audit's run. -/
def State.auditProposal (s : State) (t : Nat) (x : Sample) (y : Proposal) (audit : BitVec 64) : State :=
  let cap := s.captureOf t x
  let s := ((s.dropProposal y).dropHeld t x).incReg (tileDA t) pgAud 0x044
  if audit = y.crc then (s.approve y).closeSample t false
  else (s.countAdapt y.t y.c 1).auditMismatch t x cap y.crc audit

/-- The adaptation run that the auditor of a die is to audit: the sampled one that has ended, or, with no sample under way, the
oldest that waits for the auditor and whose capture has not overflowed; a proposal of 64 ticks or more is discarded and not audited
(R189, R403). -/
def State.dueProposal (s : State) (t : Nat) : Option (Sample × Proposal) :=
  let young := fun (y : Proposal) => decide (s.tick < y.tick + 64)
  match (s.tile t).sample with
  | some x =>
    if x.adapt && x.ended && x.digests.isNone && !(s.tile t).captureOvf then ((s.proposalOf t x).filter young).map fun y => (x, y)
    else none
  | none => (s.tile t).held.findSome? fun h =>
      if h.x.ended && !h.ovf then ((s.proposalOf t h.x).filter young).map fun y => (h.x, y) else none

/-- The tick of a sample, or of its second audit run, has come to its end. -/
def State.sampleLate (s : State) (x : Sample) : Bool :=
  let last := if x.digests.isSome then x.tick + 1 else x.tick
  decide (last < s.tick) || (decide (last = s.tick) && decide (s.period ≤ s.pacer.cycle)) || s.disarmed

/-- The counter of free values after a re-execution. -/
def State.afterRerun (s : State) (free : Nat) : State := { s with free := free }

/-- AUDIT_SAMPLE_DONE (R399, R400, R403): the auditor's run of a sample finishes, and the run digest of the original is compared with
its own, or for an adaptation run the proposal's CRC-64 with that of its own. After a mismatch it is the second audit run, in the
next tick. A sample that its tick, or a second run that the next tick, leaves unfinished does not complete (R399). `run` and `audit`
are what a hardware fault changes in the original's digest and in the auditor's, 0 for none (notes/assumptions/156.md). -/
def execAuditSampleDone (t : Nat) (run audit : BitVec 64) (s : State) : Out :=
  .next <|
    if (s.place.auditorOf t).isNone then s
    else
      match s.dueProposal t with
      | some (x, y) =>
        match s.audited t x (s.captureOf t x) with
        | some r => (s.afterRerun r.1).auditProposal t x y (r.2 ^^^ audit)
        | none => s
      | none =>
        match (s.tile t).sample with
        | none => s
        | some x =>
          let cap := (s.tile t).capture
          if (s.tile t).captureOvf || s.sampleLate x then s
          else match s.audited t x cap with
            | none => s
            | some d =>
              match x.digests with
              | some (r, a) => if x.tick < s.tick then (s.afterRerun d.1).auditDecide t x r a (d.2 ^^^ audit) else s
              | none =>
                if !x.ended || x.adapt then s
                else
                  let s := (s.afterRerun d.1).incReg (tileDA t) pgAud 0x044
                  if x.digest ^^^ run = d.2 ^^^ audit then s.closeSample t (!x.adapt)
                  else s.auditMismatch t x cap (x.digest ^^^ run) (d.2 ^^^ audit)

/-- R403: the capture of an adaptation run has overflowed: its proposal is discarded, now or at the END that is still to come. -/
def State.discardAdapt (s : State) (t : Nat) (x : Sample) : State :=
  let s := (s.flag (tileDA t) pgAud 3).dropHeld t x
  match s.proposalOf t x with
  | some y => (s.dropProposal y).countAdapt t x.core 3
  | none => if x.ended then s else s.setTile t { s.tile t with doomed := (s.tile t).doomed ++ [(x.core, x.tick)] }

/-- AUDIT_ABANDON (R399, R403): a sample that overflows its capture, or is not finished by the end of its tick. An adaptation
run waits for its audit, and is discarded where its capture overflows, one that waits for the auditor as well. -/
def execAuditAbandon (t : Nat) (overflow : Bool) (s : State) : Out :=
  .next <|
    let u := s.tile t
    let da := tileDA t
    match if overflow && !u.captureOvf then u.held.find? (·.ovf) else none with
    | some h => ((s.flag da pgAud 2).incReg da pgAud 0x048).discardAdapt t h.x
    | none =>
    match u.sample with
    | none => s
    | some x =>
      if overflow && u.captureOvf then
        let s := ((s.flag da pgAud 2).incReg da pgAud 0x048).closeSample t false
        if x.adapt then s.discardAdapt t x else s
      else if s.sampleLate x && (!x.adapt || x.digests.isSome || (x.ended && (s.proposalOf t x).isNone)) then
        (s.incReg da pgAud 0x048).closeSample t false
      else s

/-! ### Tie-breaks (R394, R395) -/

/-- AUD_TB and the three digests of the last tie-break. -/
def State.recordTie (s : State) (t : Nat) (x : TieBreak) (result : Nat) (dx : BitVec 64) : State :=
  let da := tileDA t
  let put := fun (s : State) (off : Nat) (d : BitVec 64) =>
    (s.setReg da pgAud off (d.toNat % 2 ^ 32)).setReg da pgAud (off + 4) (d.toNat / 2 ^ 32)
  put (put (put (s.setReg da pgAud 0x054 (x.cgroup % 256 + result * 256)) 0x058 x.digA) 0x060 x.digB) 0x068 dx

/-- A tie-break is over: its captures end, unless another one still needs them. -/
def State.endTie (s : State) (x : TieBreak) : State :=
  let p := s.pacer
  let s := s.setPacer { p with ties := p.ties.filter (· != x), mismatches := p.mismatches.filter (· != x) }
  let needed := fun t => (s.pacer.ties ++ s.pacer.mismatches).any fun y => y.coreA / 16 == t || y.coreB / 16 == t
  [x.coreA / 16, x.coreB / 16].foldl (fun s t =>
    if needed t then s else s.setTile t { s.tile t with tieCapture := [], tieCapturing := false, tieOvf := false }) s

def keyRef (key : Nat) : Nat := coreRef (key / 16) (key % 16)

/-- Both cores of a tie-break are charged suspect. -/
def State.suspectBoth (s : State) (da : Nat) (x : TieBreak) : State :=
  (s.charge da (keyRef x.coreA) ckSuspect 0x03 noRef).charge da (keyRef x.coreB) ckSuspect 0x03 noRef

/-- R395: an undecided tie-break. -/
def State.tieUndecided (s : State) (x : TieBreak) : State :=
  let t := x.auditor.getD (x.coreA / 16)
  let s := (s.recordTie t x 4 0).flag (tileDA t) pgAud 1
  (s.suspectBoth (tileDA t) x).endTie x

/-- R394: the auditor of a tie-break. -/
def State.tieAuditor (s : State) (x : TieBreak) : Option Nat :=
  match s.place.auditorOf (x.coreA / 16) with
  | some a => some a
  | none => if (s.place.spare (x.coreB / 16)).isSome then some (x.coreB / 16) else none

/-- TIE_BREAK (R394): from the restart strobe of a mismatch on, its auditor starts; with none, or one that runs another
tie-break, it is undecided. The digest of its re-execution is kept for the end of the tie-break. -/
def execTieBreak (cg : Nat) (s : State) : Out :=
  .next <|
    match s.pacer.mismatches.find? fun m => m.cgroup == cg && (decide (m.tick < s.tick) || s.pacer.strobed) with
    | none => s
    | some m =>
      match s.tieAuditor m with
      | none => s.tieUndecided m
      | some a =>
        if s.pacer.ties.any fun x => x.auditor == some a then s.tieUndecided m
        else
          let r := s.rerunTie m a
          let p := s.pacer
          (s.afterRerun r.2).setPacer { p with
            mismatches := p.mismatches.erase m
            ties := p.ties ++ [{ m with auditor := some a, running := true, digX := r.1 }] }

/-- R395: the end of tick n + 2 of a tie-break of tick n. -/
def State.tieLate (s : State) (x : TieBreak) : Bool :=
  decide (x.tick + 2 < s.tick) || (decide (x.tick + 2 = s.tick) && decide (s.period ≤ s.pacer.cycle)) || s.disarmed

/-- TIE_BREAK_DONE (R395): one that comes after the end of tick n + 2 is undecided. `digest` is what a hardware
fault changes in the auditor's digest, 0 for none; none where such a fault has ended the re-execution as a faulted program
(notes/assumptions/156.md). -/
def execTieBreakDone (cg : Nat) (digest : Option (BitVec 64)) (s : State) : Out :=
  .next <|
    match s.pacer.ties.find? fun x => x.cgroup == cg with
    | none => s
    | some x =>
      let t := x.auditor.getD 0
      let da := tileDA t
      if (s.tile (x.coreA / 16)).tieOvf || (s.tile (x.coreB / 16)).tieOvf then
        (s.flag da pgAud 2).tieUndecided x
      else if s.tieLate x then s.tieUndecided x
      else
        match digest, x.digX with
        | some y, some z =>
          let d := z ^^^ y
          if d = x.digA then
            ((s.recordTie t x 2 d).charge da (keyRef x.coreB) ckConfirmed 0x03 noRef).endTie x
          else if d = x.digB then
            ((s.recordTie t x 1 d).charge da (keyRef x.coreA) ckConfirmed 0x03 noRef).endTie x
          else ((s.recordTie t x 3 d).suspectBoth da x).endTie x
        | _, _ => s.tieUndecided x

/-- TIE_BREAK_EXPIRY (R395): the end of tick n + 2. -/
def execTieBreakExpiry (cg : Nat) (s : State) : Out :=
  .next <|
    match (s.pacer.ties ++ s.pacer.mismatches).find? fun x => x.cgroup == cg && s.tieLate x with
    | none => s
    | some x => s.tieUndecided x

end Sys2Proof.Machine
end

