-- ==== Sys2Proof/Machine/MemOps.lean ====
section
/-! DEFINITION. DRAM (R261, R262, R275, R477): bursts, their poison, and the place of an address in its channel. -/

namespace Sys2Proof.Machine

/-- A write that waits at a channel notes what a later write gives to its bursts: `bytes` of the burst at channel-local `b`. -/
def MemReq.overlaid (m : MemReq) (b order : Nat) (bytes : List Nat) (whole : Bool) : MemReq :=
  if m.p.opc = opWR ∧ m.addr / 64 * 64 ≤ b ∧ b < m.addr + m.p.len.toNat then
    { m with later := m.later ++ bytes.map fun l => (l, order), whole := if whole then m.whole ++ [(b, order)] else m.whole }
  else m

/-- Every request of a channel that is not complete. -/
def Chan.mapReqs (x : Chan) (f : MemReq → MemReq) : Chan :=
  { x with q1 := x.q1.map f, qr := x.qr.map f, q2 := x.q2.map f, committed := x.committed.map f }

def Chan.quiet (x : Chan) : Bool := x.q1.isEmpty && x.qr.isEmpty && x.q2.isEmpty && x.committed.isEmpty

/-- R266: a write within one burst comes after the writes that wait at its channel. -/
def State.overlay (s : State) (a : Nat) (bs : List (Option Byte)) (whole : Bool) : State :=
  let ch := s.channelOf a
  let x := s.chan ch
  if x.quiet then s
  else
    let l := s.localAddr a
    s.setChan ch (x.mapReqs fun m => m.overlaid (l / 64 * 64) x.nextOrder
      (bs.zipIdx.filterMap fun y => if y.1.isSome then some (l + y.2) else none) whole)

/-- R275, R477: one write within one 64-byte burst. It leaves the burst poisoned where it carries poison, or where it writes
only part of a poisoned burst. -/
def State.burstWrite (s : State) (a : Nat) (bs : List (Option Byte)) (p : Bool) : State :=
  if bs.all (·.isNone) then s
  else
    let b := a / 64 * 64
    let whole := decide (a % 64 = 0) && decide (bs.length = 64) && bs.all (·.isSome)
    let mark := p || (!whole && s.psn .dram 0 b)
    let s := (s.overlay a bs whole).write .dram 0 a bs []
    { s with poison := nset (nset s.poison (gGran .dram 0 b) mark) (gGran .dram 0 (b + 32)) mark }

/-- Consecutive bytes of DRAM are written, `n` bursts at most; `psn` marks the granules that the run touches, in order. -/
def State.dramPieces (s : State) : Nat → Nat → List (Option Byte) → List Bool → State
  | 0, _, _, _ => s
  | n + 1, a, bs, ps =>
    let k := 64 - a % 64
    let g := if a % 64 < 32 then 2 else 1
    (s.burstWrite a (bs.take k) ((ps.take g).any id)).dramPieces n (a + k) (bs.drop k) (ps.drop g)

def State.dramWrite (s : State) (a : Nat) (bs : List (Option Byte)) (ps : List Bool) : State :=
  s.dramPieces ((a % 64 + bs.length + 63) / 64) a bs ps

/-- The page of a channel at its memory die. -/
def pgMch (ch : Nat) : Nat := 0xC0 + ch % 2

/-- Channel `ch` exists and is ready. -/
def State.chReady (s : State) (ch : Nat) : Bool :=
  decide (ch < 12) && (s.chan ch).step == 4 && s.pageEn (channelDA ch) (pgMch ch)

/-- The STATUS that a request of a plant or host link meets for `n` bytes from `a` on: ADDR_ERR beyond the space, TIMEOUT at a
channel that does not answer (R237, R277). -/
def State.memStatus (s : State) (sp : Sp) (limit a n : Nat) : Nat :=
  if limit < a + n then 4 else if sp = .dram ∧ !s.chReady (s.channelOf a) then 1 else 0

/-- The 256-byte blocks that a run of bytes touches (R239). -/
def blocksIn (a : Nat) (bs : List Byte) : List (Nat × List Byte) := cutBlocks ((a % 256 + bs.length + 255) / 256) a bs

/-- Every block of a run in DRAM is answered. -/
def State.dramReaches (s : State) (a n : Nat) : Bool :=
  (blocksIn a (List.replicate n 0)).all fun b => s.memStatus .dram s.dramSize b.1 b.2.length == 0

/-- A write of all bytes without poison. -/
def State.dramPut (s : State) (a : Nat) (bs : List Byte) : State := s.dramWrite a (bs.map some) []

/-- The same for the writes of a plant link: blocks that are answered with an error are not written. -/
def State.dramSend (s : State) (a : Nat) (bs : List Byte) : State :=
  if s.dramReaches a bs.length then s.dramPut a bs
  else (blocksIn a bs).foldl (fun (t : State) b =>
    if s.memStatus .dram s.dramSize b.1 b.2.length = 0 then t.dramPut b.1 b.2 else t) s

/-- R261: the physical address of a channel-local one. -/
def State.physAddr (s : State) (ch l : Nat) : Nat := (l / 2 ^ s.grain * 12 + ch) * 2 ^ s.grain + l % 2 ^ s.grain

/-- MCH_CFG.RANKS2 of a channel. -/
def State.twoRanks (s : State) (ch : Nat) : Nat := bits (s.reg (channelDA ch) (0xC0 + ch % 2) 0x040) 5 5

/-- R262: row, rank and bank of a channel-local address. The bank number holds bits [12:6] of the address and the rank. -/
def State.rowOf (s : State) (ch l : Nat) : Nat := l / 2 ^ (20 + s.twoRanks ch)
def State.rankOf (s : State) (ch l : Nat) : Nat := if s.twoRanks ch = 1 then bits l 20 20 else 0
def State.bankOf (s : State) (ch l : Nat) : Nat := bits l 12 6 + 2 ^ 7 * s.rankOf ch l

/-- The key of the row of an address. -/
def State.rowKey (s : State) (ch l : Nat) : Nat := s.bankOf ch l * 2 ^ 20 + s.rowOf ch l

/-- R278: code 4·rank + 2·pseudo-channel + subchannel of an address. -/
def State.groupOf (s : State) (ch l : Nat) : Nat := 4 * s.rankOf ch l + 2 * bits l 12 12 + bits l 6 6

end Sys2Proof.Machine
end

