-- ==== Sys2Proof/Machine/Codeword.lean ====
section
/-! DEFINITION. The codewords of DRAM bursts (R274, R275, R278): RS(80, 64) over GF(2^8), the poison pattern, and what a decoder finds. -/

namespace Sys2Proof.Machine

/-- Twice a field element, modulo x^8 + x^4 + x^3 + x^2 + 1. -/
def gfDouble (a : Byte) : Byte := (a <<< 1) ^^^ (if a.getLsbD 7 then 0x1D else 0)

def gfMul (a b : Byte) : Byte := (List.range 8).foldr (fun i x => gfDouble x ^^^ (if b.getLsbD i then a else 0)) 0

/-- A power of α = x. -/
def alpha : Nat → Byte
  | 0 => 1
  | n + 1 => gfDouble (alpha n)

/-- Two words added symbol by symbol. -/
def addWords (a b : List Byte) : List Byte := (a.zip b).map fun x => x.1 ^^^ x.2

/-- The product of x − α^n and a polynomial, coefficients from the highest on. -/
def timesRoot (p : List Byte) (n : Nat) : List Byte := addWords (p ++ [0]) (0 :: p.map (gfMul (alpha n)))

/-- The generator, with roots α^0 to α^15. -/
def rsGenerator : List Byte := (List.range 16).foldl timesRoot [1]

/-- The 16 check symbols of 64 data symbols; symbol 0 is the highest coefficient (notes/assumptions/200.md). -/
def rsCheck (data : List Byte) : List Byte :=
  data.foldl (fun r d => addWords (r.tail ++ [0]) (rsGenerator.tail.map (gfMul (d ^^^ r.headD 0)))) (List.replicate 16 0)

/-- The values of a word at α^0 to α^15: all zero for a codeword. -/
def syndromes (w : List Byte) : List Byte := (List.range 16).map fun i => w.foldl (fun x b => gfMul x (alpha i) ^^^ b) 0

def isCodeword (w : List Byte) : Bool := (syndromes w).all (· == 0)

/-- R274: symbol 8d + j comes from device d. -/
def deviceOf (sym : Nat) : Nat := sym / 8

/-- R275: the check symbols of a word with the poison pattern added. -/
def patterned (w : List Byte) : List Byte := w.take 64 ++ addWords (w.drop 64) (List.replicate 16 0xA5)

/-- R275: the word stored for 64 data bytes. -/
def storedWord (data : List Byte) (poison : Bool) : List Byte :=
  let w := data ++ rsCheck data
  if poison then patterned w else w

/-- R275: a word decodes as clean only after the pattern is removed. -/
def carriesPoison (w : List Byte) : Bool := !isCodeword w && isCodeword (patterned w)

/-- The word that the DRAM holds for the burst of a physical address. -/
def State.burstWord (s : State) (a : Nat) : List Byte := storedWord (s.bytesAt .dram 0 (a / 64 * 64) 64) (s.psn .dram 0 a)

/-- What a decoder finds: no error, errors that it corrects with the devices located, errors that it detects, or errors of which the
spec does not say what it makes. -/
inductive Decoded where
  | clean
  | corrected (devs : List Nat)
  | detected
  | unstated
deriving DecidableEq, Repr

/-- R274, R278: a burst whose symbols `bad` are wrong, with a spared device. -/
def decodeBurst (spare : Option Nat) (bad : List Nat) : Decoded :=
  let wrong := bad.eraseDups.filter fun i => decide (i < 80) && some (deviceOf i) != spare
  let devs := (wrong.map deviceOf).eraseDups
  if wrong = [] then .clean
  else if spare.isNone then (if devs.length = 1 then .corrected devs else if devs.length = 2 then .detected else .unstated)
  else if wrong.length ≤ 4 then .corrected devs
  else if devs.length = 1 then .detected else .unstated

end Sys2Proof.Machine
end

