-- ==== Sys2Proof/Machine/PortOps.lean ====
section
/-! DEFINITION. The requests of the ports of E6 and E7: class 2 reads and writes of DRAM and die stores, sent in order as tags and
tokens allow, and their responses (R215, R237 to R239, R339, R347). -/

namespace Sys2Proof.Machine

/-- The packet of a request. -/
def State.ioPacket (s : State) (da port : Nat) (r : IoReq) : Packet :=
  let p := storePkt da port 2 r.addr r.n r.data
  let p := { p with psn := p.psn.map fun _ => r.psn }
  if r.die.isSome then p else { p with dport := 0, space := 3, dst := BitVec.ofNat 8 (channelDA (s.channelOf r.addr)) }

/-- The requests that can leave, in order. -/
def State.ioSend (s : State) (da port : Nat) (x : IoRun) : List IoReq → State × IoRun
  | [] => (s, { x with left := [] })
  | r :: rest =>
    match s.freeTag da port with
    | none => (s, { x with left := r :: rest })
    | some tag =>
      if s.hasTokens da port 2 r.n then
        let p := s.ioPacket da port r
        let s := s.takeTokens da port 2 r.n
        let s := match r.die with
          | some d => s.requestLogical d p tag
          | none => s.request p tag
        s.ioSend da port { x with tags := x.tags ++ [(tag, r.addr)] } rest
      else (s, { x with left := r :: rest })

/-- All requests have been answered. -/
def IoRun.done (x : IoRun) : Bool := x.left.isEmpty && x.tags.isEmpty

/-- The address of the request that a response answers. -/
def IoRun.asked (x : IoRun) (p : Packet) : Option Nat := (x.tags.find? fun t => t.1 == p.tag.toNat).map (·.2)

/-- A response to the request at address `a`. -/
def IoRun.answer (x : IoRun) (p : Packet) (a : Nat) : IoRun :=
  { x with
    tags := x.tags.filter fun t => t.1 != p.tag.toNat
    got := if p.opc = opRDR ∧ p.status = 0 then x.got ++ [(a, p.data)] else x.got
    status := if x.status = 0 then p.status.toNat else x.status
    psn := x.psn || p.psn.any id }

/-- The `n` bytes from address `a` on that have been read. -/
def IoRun.bytes (x : IoRun) (a n : Nat) : List Byte :=
  x.got.foldl (fun r b => spliceBytes r (b.1 - a) b.2) (List.replicate n 0)

/-- Reads of `n` bytes from address `a` on, one per 256-byte block (R239). -/
def readsOf (die : Option Nat) (a n : Nat) : List IoReq :=
  (blocksIn a (List.replicate n 0)).map fun b => { die := die, addr := b.1, n := b.2.length }

/-- Writes of bytes from address `a` on. -/
def writesOf (die : Option Nat) (a : Nat) (bs : List Byte) : List IoReq :=
  (blocksIn a bs).map fun b => { die := die, addr := b.1, n := b.2.length, data := some b.2 }

end Sys2Proof.Machine
end

