-- ==== Sys2Proof/Machine/Crypto.lean ====
section
/-! DEFINITION. The functions of published standards that the image chapter names (R356, R359, R363 to R365, R374, R375): SHA-384
(FIPS 180-4), HMAC and the key derivation of SP 800-108r1, AES-256-GCM (FIPS 197, SP 800-38D), and ECDSA on brainpoolP384r1
(RFC 5639, FIPS 186). PRESUMED: the standards' own text, taken from outside the spec (notes/assumptions/132.md). -/

namespace Sys2Proof.Machine

/-! ### SHA-384 -/

/-- The round constants: the first 64 bits of the fractional parts of the cube roots of the first 80 primes. -/
def shaK : List Word64 :=
  [0x428A2F98D728AE22, 0x7137449123EF65CD, 0xB5C0FBCFEC4D3B2F, 0xE9B5DBA58189DBBC, 0x3956C25BF348B538] ++
  [0x59F111F1B605D019, 0x923F82A4AF194F9B, 0xAB1C5ED5DA6D8118, 0xD807AA98A3030242, 0x12835B0145706FBE] ++
  [0x243185BE4EE4B28C, 0x550C7DC3D5FFB4E2, 0x72BE5D74F27B896F, 0x80DEB1FE3B1696B1, 0x9BDC06A725C71235] ++
  [0xC19BF174CF692694, 0xE49B69C19EF14AD2, 0xEFBE4786384F25E3, 0x0FC19DC68B8CD5B5, 0x240CA1CC77AC9C65] ++
  [0x2DE92C6F592B0275, 0x4A7484AA6EA6E483, 0x5CB0A9DCBD41FBD4, 0x76F988DA831153B5, 0x983E5152EE66DFAB] ++
  [0xA831C66D2DB43210, 0xB00327C898FB213F, 0xBF597FC7BEEF0EE4, 0xC6E00BF33DA88FC2, 0xD5A79147930AA725] ++
  [0x06CA6351E003826F, 0x142929670A0E6E70, 0x27B70A8546D22FFC, 0x2E1B21385C26C926, 0x4D2C6DFC5AC42AED] ++
  [0x53380D139D95B3DF, 0x650A73548BAF63DE, 0x766A0ABB3C77B2A8, 0x81C2C92E47EDAEE6, 0x92722C851482353B] ++
  [0xA2BFE8A14CF10364, 0xA81A664BBC423001, 0xC24B8B70D0F89791, 0xC76C51A30654BE30, 0xD192E819D6EF5218] ++
  [0xD69906245565A910, 0xF40E35855771202A, 0x106AA07032BBD1B8, 0x19A4C116B8D2D0C8, 0x1E376C085141AB53] ++
  [0x2748774CDF8EEB99, 0x34B0BCB5E19B48A8, 0x391C0CB3C5C95A63, 0x4ED8AA4AE3418ACB, 0x5B9CCA4F7763E373] ++
  [0x682E6FF3D6B2B8A3, 0x748F82EE5DEFB2FC, 0x78A5636F43172F60, 0x84C87814A1F0AB72, 0x8CC702081A6439EC] ++
  [0x90BEFFFA23631E28, 0xA4506CEBDE82BDE9, 0xBEF9A3F7B2C67915, 0xC67178F2E372532B, 0xCA273ECEEA26619C] ++
  [0xD186B8C721C0C207, 0xEADA7DD6CDE0EB1E, 0xF57D4F7FEE6ED178, 0x06F067AA72176FBA, 0x0A637DC5A2C898A6] ++
  [0x113F9804BEF90DAE, 0x1B710B35131C471B, 0x28DB77F523047D84, 0x32CAAB7B40C72493, 0x3C9EBE0A15C9BEBC] ++
  [0x431D67C49C100D4C, 0x4CC5D4BECB3E42B6, 0x597F299CFC657E2A, 0x5FCB6FAB3AD6FAEC, 0x6C44198C4A475817]

/-- The eight words of a digest under way. -/
structure Sha where
  a : Word64
  b : Word64
  c : Word64
  d : Word64
  e : Word64
  f : Word64
  g : Word64
  h : Word64
deriving DecidableEq, Repr

def shaInit : Sha :=
  ⟨0xCBBB9D5DC1059ED8, 0x629A292A367CD507, 0x9159015A3070DD17, 0x152FECD8F70E5939,
   0x67332667FFC00B31, 0x8EB44A8768581511, 0xDB0C2E0D64F98FA7, 0x47B5481DBEFA4FA4⟩

/-- One round with constant `k` and message word `w`. -/
def Sha.round (x : Sha) (k w : Word64) : Sha :=
  let t1 := x.h + (x.e.rotateRight 14 ^^^ x.e.rotateRight 18 ^^^ x.e.rotateRight 41) + ((x.e &&& x.f) ^^^ (~~~x.e &&& x.g)) + k + w
  let t2 := (x.a.rotateRight 28 ^^^ x.a.rotateRight 34 ^^^ x.a.rotateRight 39) + ((x.a &&& x.b) ^^^ (x.a &&& x.c) ^^^ (x.b &&& x.c))
  ⟨t1 + t2, x.a, x.b, x.c, x.d + t1, x.e, x.f, x.g⟩

/-- The message word that follows the last 16, `w`, oldest first. -/
def shaNext (w : List Word64) : Word64 :=
  let x := w.getD 14 0
  let y := w.getD 1 0
  (x.rotateRight 19 ^^^ x.rotateRight 61 ^^^ x >>> 6) + w.getD 9 0 +
    (y.rotateRight 1 ^^^ y.rotateRight 8 ^^^ y >>> 7) + w.getD 0 0

/-- The rounds of a block: `w` holds the next 16 message words. -/
def Sha.rounds : List Word64 → List Word64 → Sha → Sha
  | [], _, x => x
  | k :: r, w, x => Sha.rounds r (w.tail ++ [shaNext w]) (x.round k (w.headD 0))

/-- A block of 16 words taken into the digest. -/
def Sha.block (x : Sha) (w : List Word64) : Sha :=
  let y := Sha.rounds shaK w x
  ⟨x.a + y.a, x.b + y.b, x.c + y.c, x.d + y.d, x.e + y.e, x.f + y.f, x.g + y.g, x.h + y.h⟩

/-- The number that bytes spell, most significant byte first. -/
def beNat (l : List Byte) : Nat := l.foldl (fun n b => 256 * n + b.toNat) 0

/-- The blocks of a padded message, `n` at most. -/
def Sha.blocks : Nat → List Byte → Sha → Sha
  | 0, _, x => x
  | n + 1, l, x =>
    if l.isEmpty then x
    else Sha.blocks n (l.drop 128) (x.block ((List.range 16).map fun i => BitVec.ofNat 64 (beNat ((l.drop (8 * i)).take 8))))

/-- The message with its padding: a one bit, zeros, and its length in bits in 16 bytes. -/
def shaPad (l : List Byte) : List Byte :=
  l ++ [0x80] ++ List.replicate ((239 - l.length % 128) % 128) 0 ++ beBytes 16 (8 * l.length)

/-- SHA-384: the first 48 bytes of the digest. -/
def sha384 (l : List Byte) : List Byte :=
  let x := Sha.blocks (l.length / 128 + 2) (shaPad l) shaInit
  [x.a, x.b, x.c, x.d, x.e, x.f].flatMap fun w => beBytes 8 w.toNat

/-! ### HMAC and key derivation -/

/-- HMAC-SHA-384: a key of at most 128 bytes, a message. -/
def hmac (key msg : List Byte) : List Byte :=
  let k := key ++ List.replicate (128 - key.length) 0
  sha384 (k.map (· ^^^ 0x5C) ++ sha384 (k.map (· ^^^ 0x36) ++ msg))

/-- R364: the key derivation of SP 800-108r1 in counter mode: the PRF over a 32-bit counter from 1 on, label, 0x00, context and the
number of bits, cut to that length. -/
def kdf (key label context : List Byte) (bits_ : Nat) : List Byte :=
  ((List.range ((bits_ + 383) / 384)).flatMap fun i =>
    hmac key (beBytes 4 (i + 1) ++ label ++ [0x00] ++ context ++ beBytes 4 bits_)).take (bits_ / 8)

/-! ### AES-256 -/

/-- Multiplication by x in GF(2^8) modulo x^8 + x^4 + x^3 + x + 1. -/
def aesX (b : Byte) : Byte := b <<< 1 ^^^ if b.getLsbD 7 then 0x1B else 0

/-- The product in GF(2^8). -/
def aesMul (a b : Byte) : Byte :=
  ((List.range 8).foldl (fun (r : Byte × Byte) i => (if b.getLsbD i then r.1 ^^^ r.2 else r.1, aesX r.2)) (0, a)).1

/-- The inverse in GF(2^8), 0 for 0: the 254th power. -/
def aesInv (b : Byte) : Byte :=
  let sq := fun x => aesMul x x
  let b3 := aesMul (sq b) b
  let b15 := aesMul (sq (sq b3)) b3
  let b127 := aesMul (sq (aesMul (sq (aesMul (sq b15) b)) b)) b
  sq b127

/-- The S-box: the inverse and an affine map. -/
def aesSub (b : Byte) : Byte :=
  let x := aesInv b
  x ^^^ x.rotateLeft 1 ^^^ x.rotateLeft 2 ^^^ x.rotateLeft 3 ^^^ x.rotateLeft 4 ^^^ 0x63

def xorBytes (x y : List Byte) : List Byte := List.zipWith (· ^^^ ·) x y

/-- Words `i` on of the key schedule of a 256-bit key, `n` of them, from the last 8 words, oldest first. -/
def aesExpand : Nat → Nat → Byte → List (List Byte) → List (List Byte)
  | 0, _, _, _ => []
  | n + 1, i, rc, w =>
    let last := w.getD 7 []
    let t := if i % 8 = 0 then xorBytes ((last.drop 1 ++ last.take 1).map aesSub) [rc, 0, 0, 0]
      else if i % 8 = 4 then last.map aesSub else last
    let x := xorBytes (w.headD []) t
    x :: aesExpand n (i + 1) (if i % 8 = 0 then aesX rc else rc) (w.tail ++ [x])

/-- The 15 round keys of a 32-byte key. -/
def aesKeys (key : List Byte) : List (List Byte) :=
  let w := (List.range 8).map fun i => (key.drop (4 * i)).take 4
  let l := (w ++ aesExpand 52 8 1 w).flatten
  (List.range 15).map fun i => (l.drop (16 * i)).take 16

/-- Byte `i` of a block goes to row i mod 4, column i / 4; row r moves r columns to the left. -/
def aesShift (b : List Byte) : List Byte :=
  (List.range 16).map fun i => b.getD ((i + 4 * (i % 4)) % 16) 0

def aesMix (b : List Byte) : List Byte :=
  (List.range 16).map fun i =>
    let at_ := fun k => b.getD (i / 4 * 4 + (i + k) % 4) 0
    aesX (at_ 0) ^^^ (aesX (at_ 1) ^^^ at_ 1) ^^^ at_ 2 ^^^ at_ 3

/-- AES of a block under its round keys. -/
def aesRounds : List (List Byte) → List Byte → List Byte
  | [], b => b
  | [k], b => xorBytes (aesShift (b.map aesSub)) k
  | k :: r, b => aesRounds r (xorBytes (aesMix (aesShift (b.map aesSub))) k)

def aes (keys : List (List Byte)) (b : List Byte) : List Byte := aesRounds keys.tail (xorBytes b (keys.headD []))

/-! ### GCM -/

/-- The product of GHASH, whose bit 0 is the most significant one of the block. -/
def ghMul (x y : BitVec 128) : BitVec 128 :=
  ((List.range 128).foldl (fun (r : BitVec 128 × BitVec 128) i =>
    (if x.getMsbD i then r.1 ^^^ r.2 else r.1,
      r.2 >>> 1 ^^^ if r.2.getLsbD 0 then 0xE1000000000000000000000000000000 else 0)) (0, y)).1

/-- GHASH over bytes, the last block filled with zeros; `n` blocks at most. -/
def ghash (h : BitVec 128) : Nat → List Byte → BitVec 128 → BitVec 128
  | 0, _, y => y
  | n + 1, l, y =>
    if l.isEmpty then y
    else ghash h n (l.drop 16) (ghMul (y ^^^ BitVec.ofNat 128 (beNat (fit 16 (l.take 16)))) h)

/-- The key stream from counter `c` on, `n` blocks. -/
def gcmStream (keys : List (List Byte)) (iv : List Byte) : Nat → Nat → List Byte
  | 0, _ => []
  | n + 1, c => aes keys (iv ++ beBytes 4 c) ++ gcmStream keys iv n (c + 1)

/-- AES-256-GCM with a 96-bit initialisation vector: key, vector, additional data, ciphertext, tag. None where the tag does not
authenticate (R365). -/
def gcmOpen (key iv aad ct tag : List Byte) : Option (List Byte) :=
  let keys := aesKeys key
  let h := BitVec.ofNat 128 (beNat (aes keys (List.replicate 16 0)))
  let y := ghash h (aad.length / 16 + 1) aad 0
  let y := ghash h (ct.length / 16 + 1) ct y
  let y := ghash h 1 (beBytes 8 (8 * aad.length) ++ beBytes 8 (8 * ct.length)) y
  if xorBytes (beBytes 16 y.toNat) (gcmStream keys iv 1 1) = tag then
    some (xorBytes ct (gcmStream keys iv ((ct.length + 15) / 16) 2))
  else none

/-! ### ECDSA on brainpoolP384r1 -/

/-- The field prime and the coefficients of y² = x³ + a·x + b. -/
def curveP : Nat := 0x8CB91E82A3386D280F5D6F7E50E641DF152F7109ED5456B412B1DA197FB71123ACD3A729901D1A71874700133107EC53
def curveA : Nat := 0x7BC382C63D8C150C3C72080ACE05AFA0C2BEA28E4FB22787139165EFBA91F90F8AA5814A503AD4EB04A8C7DD22CE2826
def curveB : Nat := 0x04A8C7DD22CE28268B39B55416F0447C2FB77DE107DCD2A62E880EA53EEB62D57CB4390295DBC9943AB78696FA504C11

/-- The order n of the curve. -/
def curveOrder : Nat := 0x8CB91E82A3386D280F5D6F7E50E641DF152F7109ED5456B31F166E6CAC0425A7CF3AB6AF6B7FC3103B883202E9046565

/-- A point with x = X / Z² and y = Y / Z³; Z = 0 is the point at infinity. -/
structure Point where
  x : Nat
  y : Nat
  z : Nat
deriving DecidableEq, Repr

def curveG : Point :=
  ⟨0x1D1C64F068CF45FFA2A63A81B7C13F6B8847A3E77EF14FE3DB7FCAFE0CBD10E8E826E03436D646AAEF87B2E247D4AF1E,
   0x8ABE1D7520F9C2A45CB1EB8E95CFD55262B70B29FEEC5864E19C054FF99129280E4646217791811142820341263C5315, 1⟩

def pMul (a b : Nat) : Nat := a * b % curveP
def pSub (a b : Nat) : Nat := (a + (curveP - b)) % curveP

def Point.double (p : Point) : Point :=
  let yy := pMul p.y p.y
  let zz := pMul p.z p.z
  let s := pMul 4 (pMul p.x yy)
  let m := (3 * pMul p.x p.x + curveA * pMul zz zz) % curveP
  let x := pSub (pMul m m) (2 * s % curveP)
  ⟨x, pSub (pMul m (pSub s x)) (pMul 8 (pMul yy yy)), pMul 2 (pMul p.y p.z)⟩

def Point.add (p q : Point) : Point :=
  if p.z = 0 then q
  else if q.z = 0 then p
  else
    let zp := pMul p.z p.z
    let zq := pMul q.z q.z
    let u := pMul p.x zq
    let v := pMul p.y (pMul q.z zq)
    let h := pSub (pMul q.x zp) u
    let r := pSub (pMul q.y (pMul p.z zp)) v
    if h = 0 then if r = 0 then p.double else ⟨1, 1, 0⟩
    else
      let hh := pMul h h
      let h3 := pMul h hh
      let w := pMul u hh
      let x := pSub (pSub (pMul r r) h3) (2 * w % curveP)
      ⟨x, pSub (pMul r (pSub w x)) (pMul v h3), pMul h (pMul p.z q.z)⟩

/-- k · p, from the low `n` bits of `k`. -/
def Point.times (k : Nat) (p : Point) : Nat → Point
  | 0 => ⟨1, 1, 0⟩
  | n + 1 =>
    let q := (Point.times (k / 2) p n).double
    if k % 2 = 1 then q.add p else q

/-- a to the power `e` modulo `m`, from the low `n` bits of `e`. -/
def powMod (m a : Nat) : Nat → Nat → Nat
  | 0, _ => 1
  | n + 1, e =>
    let r := powMod m a n (e / 2)
    if e % 2 = 1 then r * r % m * a % m else r * r % m

/-- The inverse modulo a prime of at most 384 bits. -/
def invMod (m a : Nat) : Nat := powMod m a 384 (m - 2)

/-- The affine coordinates of a point that is not at infinity. -/
def Point.affine (p : Point) : Nat × Nat :=
  let i := invMod curveP p.z
  (pMul p.x (pMul i i), pMul p.y (pMul i (pMul i i)))

/-- R363: 97 bytes that spell a point of the curve: 0x04, x, y (SEC 1). -/
def pointOf (k : List Byte) : Option Point :=
  let x := beNat ((k.drop 1).take 48)
  let y := beNat ((k.drop 49).take 48)
  if k.length = 97 ∧ k.headD 0 = 0x04 ∧ x < curveP ∧ y < curveP ∧
      pMul y y = (x * x * x + curveA * x + curveB) % curveP then some ⟨x, y, 1⟩ else none

/-- R356: the signature of a digest, r then s, verifies under a public key. -/
def ecdsaVerify (key digest sig : List Byte) : Bool :=
  let r := beNat (sig.take 48)
  let s := beNat (sig.drop 48)
  let w := invMod curveOrder s
  match pointOf key with
  | none => false
  | some q =>
    let x := (curveG.times (beNat digest * w % curveOrder) 384).add (q.times (r * w % curveOrder) 384)
    decide (sig.length = 96 ∧ 0 < r ∧ r < curveOrder ∧ 0 < s ∧ s < curveOrder ∧ x.z ≠ 0) && x.affine.1 % curveOrder == r

/-- R374: the public key of `d`: the point d · G, uncompressed. -/
def publicKey (d : Nat) : List Byte :=
  let q := (curveG.times d 384).affine
  0x04 :: (beBytes 48 q.1 ++ beBytes 48 q.2)

/-- R375: the ECDSA signature of a digest under the private key `d` with the number `k`; none where the standard takes another. -/
def ecdsaWith (d : Nat) (digest : List Byte) (k : Nat) : Option (List Byte) :=
  let r := (curveG.times k 384).affine.1 % curveOrder
  let s := invMod curveOrder k * (beNat digest + r * d) % curveOrder
  if r = 0 ∨ s = 0 then none else some (beBytes 48 r ++ beBytes 48 s)

/-- R375: the ECDSA signature of a digest under the private key `d`. Its secret number, from 1 to n − 1, is free
(notes/assumptions/132.md). -/
def ecdsaSign (d : Nat) (digest : List Byte) : List Byte :=
  ((List.range 4).findSome? fun i => ecdsaWith d digest (Config.nonce d digest i % (curveOrder - 1) + 1)).getD []

end Sys2Proof.Machine
end

