-- ==== Sys2Proof/Machine/Ledger.lean ====
section
/-! DEFINITION. Ledger steps: charges (R380), aging (R409), the service tick (R408), the mailbox operations of the Ledger
(R411) and mailbox responses (R345). -/

namespace Sys2Proof.Machine

/-! ### Mailbox (R345) -/

def mbxStatusOk : Nat := 0x00
def mbxBusy : Nat := 0x02
def mbxUnknown : Nat := 0x03

/-- PCI_MBX_W0 to W3. -/
def State.mbxWord (s : State) (i : Nat) : Nat := s.reg pcieDA pgPci (0x074 + 4 * i)

/-- R345: the Keeper answers a mailbox command with event 0x07. -/
def State.mbxRespond (s : State) (op status w3 : Nat) : State :=
  (s.setHost { s.host with mailbox := none }).event
    { code := 0x07, src := keeperDA, unit := 0, tick := s.tickWord, w2 := BitVec.ofNat 32 (op + status * 256),
      w3 := BitVec.ofNat 32 w3 }

/-- The meaning of a mailbox row: it runs while the Keeper executes that OP. -/
def State.mailboxOp (s : State) (op : Nat) (body : State → State) : Out :=
  .next (if s.host.mailbox = some op then body s else s)

/-! ### Charges -/

/-- R380: the payload carries no reserved code. -/
def chargeOk (p : Packet) : Bool :=
  decide (p.dst.toNat = keeperDA) && decide (p.len = 16) && decide (pword p 1 < 2 ^ 10) && decide (bits (pword p 1) 9 2 ≤ 0x0D)

/-- LEDGER_CHARGE (R380, R407, R410). -/
def execLedgerCharge (p : Packet) (s : State) : Out :=
  s.message p 0x06 (chargeOk p) fun s =>
    s.applyCharge (pword p 0) (bits (pword p 1) 1 0) (bits (pword p 1) 9 2) (pword p 2) (pword p 3)

/-! ### The service tick (R408) -/

/-- The service tick as it stands. -/
def State.serviceNow (s : State) : Nat :=
  if s.pacer.phase = .running ∨ s.pacer.phase = .restarting then s.keeper.base + s.tick else s.keeper.service

/-! ### Aging (R409) -/

/-- SLOPE after a measurement: the change over the last 16 measurements divided by 16. What it is before there are 16, and how
an inexact quotient is rounded, is not stated: both are free. -/
def slopeOf (history : List Nat) (k : Nat) : Int :=
  if history.length < 16 then sext 16 (Config.freeNat k)
  else
    let d : Int := (history.headD 0 : Int) - (history.getLastD 0 : Int)
    let q := d / 16
    if d % 16 ≠ 0 ∧ Config.freeBool k then q + 1 else q

/-- One unit's measurement in its record. -/
def State.measure (s : State) (ref margin : Nat) : State :=
  if !validRef ref || (s.ledRec ref).state == 3 then s
  else
    let r := s.ledRec ref
    let h := (margin :: r.history).take 16
    let slope := slopeOf h s.free
    let low := decide (margin < r.thresh) || decide ((margin : Int) + 64 * slope < r.thresh)
    let r := { r with margin := margin, slope := slope, history := h }
    let r := if low && decide (r.state < 2) then { r with state := 2, cause := 4 } else r
    (s.setRec ref r).draw

/-- R409: 2^22 ticks have passed since the last measurement of a die. -/
def State.agingDue (s : State) (da : Nat) : Bool :=
  match tget? s.keeper.aged da with
  | some t => decide (t + 2 ^ 22 ≤ s.serviceNow)
  | none => true

/-- AGING_MEASUREMENT (R409, R415): every 2^22 ticks the monitors of a die measure: for each, in order of monitor index, its unit
and margin. -/
def execAgingMeasurement (da : Nat) (margins : List (Nat × Nat)) (s : State) : Out :=
  .next <|
    if (dieKind da).isNone || !s.agingDue da then s
    else
      let s := s.setKeeper { s.keeper with aged := tput s.keeper.aged da s.serviceNow }
      ((margins.take 64).zipIdx).foldl (fun s x =>
        let ((ref, m), i) := x
        let m := m % 2 ^ 16
        if refDA ref = da then
          let s := (s.setReg da pgAgr 0x044 ref i).setReg da pgAgr 0x048 m i
          let s := s.setReg da pgAgr 0x04C ((s.reg da pgAgr 0x04C i + 1) % 2 ^ 32) i
          s.measure ref m
        else s) s

/-- SERVICE_TICK_SAVE: every 2^16 ticks the count is written to MRAM. -/
def execServiceTickSave (s : State) : Out :=
  .next <|
    if s.keeper.serviceSaved + 2 ^ 16 ≤ s.serviceNow then s.setKeeper { s.keeper with serviceSaved := s.serviceNow } else s

/-! ### Mailbox operations of the Ledger (R411) -/

/-- R411: a restart, or the load of a reserve die, is under way. -/
def State.stopBusy (s : State) : Bool :=
  s.pacer.opened.isSome || s.pacer.phase == .restarting || s.awaitsReserve

/-- MAINTENANCE_STOP: while the tick runs, every pending retirement of a core or a die is granted, for the planned stretches to
apply; while it is disarmed, each is applied at once. Those of kinds whose retirement takes effect at once, which aging has made pending
(R409, R410), are applied in either case. -/
def execMaintenanceStop (s : State) : Out :=
  s.mailboxOp 3 fun s =>
    if s.stopBusy then s.mbxRespond 3 mbxBusy 0
    else
      let l := s.pendingUnits true
      let n := l.length + s.agedUnits.length
      let s := s.retireAged
      let s := if s.disarmed then l.foldl (fun s r => s.retireUnit r) s
        else s.setKeeper { s.keeper with granted := s.keeper.granted ++ l.filter fun r => !s.keeper.granted.contains r }
      s.mbxRespond 3 mbxStatusOk n

def tickBytes (x : Option Nat) : List Byte := leBytes 8 (x.getD (2 ^ 64 - 1))

/-- R406: words 0 to 14 of a record. -/
def LedgerRec.body (r : LedgerRec) (ref : Nat) : List Byte :=
  leBytes 4 ref ++ leBytes 4 (r.state + r.cause * 4) ++ leBytes 4 (r.conf + r.susp * 2 ^ 16) ++ leBytes 4 r.corr ++
  tickBytes r.tick1 ++ tickBytes r.tick2 ++ leBytes 4 r.loc1.toNat ++ leBytes 4 r.loc2.toNat ++
  leBytes 4 r.bistFact.toNat ++ leBytes 4 r.bistLast.toNat ++ leBytes 4 (r.mf0 + r.mf1 * 2 ^ 16) ++
  leBytes 4 (r.mf2 + r.margin * 2 ^ 16) ++ leBytes 4 (r.thresh + wrap 16 r.slope * 2 ^ 16)

/-- R406: the 64 bytes of a record. -/
def LedgerRec.bytes (r : LedgerRec) (ref : Nat) : List Byte := r.body ref ++ leBytes 4 (crc32 (r.body ref))

/-- LEDGER_COPY: the record of the unit in W0 is written to the host address in W1 and W2. -/
def execLedgerCopy (s : State) : Out :=
  s.mailboxOp 4 fun s =>
    let ref := s.mbxWord 0
    if validRef ref then
      (s.writeAll .host 0 (s.mbxWord 1 + 2 ^ 32 * s.mbxWord 2) ((s.ledRec ref).bytes ref) false).mbxRespond 4 mbxStatusOk 0
    else s.mbxRespond 4 mbxUnknown 0

end Sys2Proof.Machine
end

