-- ==== Sys2Proof/Machine/Links.lean ====
section
/-! DEFINITION. The drive links of E4 and E5: version negotiation (R331), frames (R332), remote stop (R333). -/

namespace Sys2Proof.Machine

/-- A lane of a drive-link die that VMAX does not switch off, and whose transmitter is not in electrical idle (R440). -/
def State.laneOk (s : State) (e n : Nat) : Bool :=
  decide (4 ≤ e) && decide (e < 6) && decide (n < 8) && s.laneOn e n && !s.linkIdle e

/-- The highest version that the device offers on a lane. -/
def State.laneMax (s : State) (e n : Nat) : Nat :=
  if bits (s.laneCfg e n) 1 0 = 2 ∧ !(s.lane e n).v1only then 2 else 1

/-- R331: the CAPS block of the device. -/
def State.capsBlock (s : State) (e n : Nat) : Nat × List Byte :=
  (0xC7, ctlBytes (leBytes 1 (if s.laneMax e n = 2 then 3 else 1) ++ leBytes 1 (s.laneAxes e n)))

/-- R331 item 4: the lane is up, or in mismatch. -/
def State.laneSettle (s : State) (e n ver : Nat) : State :=
  let x := s.lane e n
  let bad := decide (x.peerAxes < s.laneAxes e n) || decide ((if ver = 2 then 9 else 4) < s.laneAxes e n)
  s.setLane e n { x with ver := ver, st := if bad then 5 else 4, loss := false }

/-- BLOCK_LOCK: at version 1 the lane starts to negotiate; at version 2 the negotiation ends. -/
def execBlockLock (e n : Nat) (s : State) : Out :=
  .next <|
    let x := s.lane e n
    if !s.laneOk e n then s
    else if x.st = 1 ∨ x.st = 6 then 
      s.setLane e n { x with st := 2, tx := x.tx ++ [s.capsBlock e n], capsDue := s.boot.time + 1400 }
    else if x.st = 3 then s.laneSettle e n 2
    else s

/-- CAPS_SEND: every 1 µs a locked lane that negotiates sends CAPS. -/
def execCapsSend (e n : Nat) (s : State) : Out :=
  .next <|
    let x := s.lane e n
    if s.laneOk e n ∧ x.st = 2 ∧ x.capsDue ≤ s.boot.time then
      s.setLane e n { x with tx := x.tx ++ [s.capsBlock e n], capsDue := x.capsDue + 1400 }
    else s

/-- CAPS: the drive's CAPS block arrives; the highest common version is selected with three SELECT blocks. Without a common
version nothing is selected. On a lane that does not negotiate it is a valid block, which ends a link loss. -/
def execCaps (e n : Nat) (versions axes : Nat) (s : State) : Out :=
  .next <|
    let x := s.lane e n
    if !s.laneOk e n then s
    else if x.st ≠ 2 then s.setLane e n { x with loss := false }
    else
      let ver := if s.laneMax e n = 2 ∧ bit versions 1 then 2 else if bit versions 0 then 1 else 0
      let s := s.setLane e n { x with peerAxes := axes % 16 }
      if ver = 0 then s
      else
        let s := s.sendBlocks e n (List.replicate 3 (0xC8, ctlBytes (leBytes 1 ver)))
        if ver = 2 then s.setLane e n { s.lane e n with st := 3, since := s.boot.time } else s.laneSettle e n 1

/-- CAPS_TIMEOUT: no CAPS within 10 ms of step 1: the lane is down and retries from step 1. -/
def execCapsTimeout (e n : Nat) (s : State) : Out :=
  .next <|
    let x := s.lane e n
    if s.laneOk e n ∧ (x.st = 1 ∨ x.st = 2 ∨ x.st = 6) ∧ x.since + 14000000 ≤ s.boot.time then
      s.setLane e n { x with st := 6, since := s.boot.time }
    else s

/-- V2_LOCK_TIMEOUT: no block lock within 100 µs: the lane returns to version 1 and offers version 1 only. -/
def execV2LockTimeout (e n : Nat) (s : State) : Out :=
  .next <|
    let x := s.lane e n
    if s.laneOk e n ∧ x.st = 3 ∧ x.since + 140000 ≤ s.boot.time then
      s.setLane e n { x with st := 1, since := s.boot.time, v1only := true, v2fails := min 3 (x.v2fails + 1) }
    else s

/-- LINK_LOSS: 32 block times without a valid block on a lane. -/
def execLinkLoss (e n : Nat) (s : State) : Out :=
  .next <|
    if s.laneOk e n ∧ s.laneUp e n then
      ((s.setLane e n { s.lane e n with loss := true }).flag (edgeDA e) pgDlk 4).tripGroup e n 0x44
    else s

/-- SYNC: 8 core cycles after a tick edge. -/
def execSync (e n : Nat) (s : State) : Out :=
  .next <|
    if s.laneOk e n ∧ s.laneUp e n ∧ s.inTick ∧ s.pacer.cycle = 8 then
      s.sendBlocks e n [(0xC2, ctlBytes (leBytes 4 (s.tick % 2 ^ 32)))]
    else s

/-- FEEDBACK_FRAME: a frame of AXES × 32 bytes arrives whole; one with a wrong CRC is discarded and counted. Its blocks end a link loss
(R331). -/
def execFeedbackFrame (e n : Nat) (data : List Byte) (crc : Word) (s : State) : Out :=
  .next <|
    if s.laneOk e n ∧ s.laneUp e n ∧ s.laneAxes e n ≠ 0 ∧ data.length = 32 * s.laneAxes e n then
      let s := s.setLane e n { s.lane e n with loss := false }
      if frameCrc data = crc.toNat then
        s.setLane e n { s.lane e n with
          frame := data, frameOk := true, frameCycle := s.pacer.cycle, seenBy := [] }
      else s.incReg (edgeDA e) pgDlk (0x100 + 4 * n)
    else s

/-- TRIP_BLOCK: the drive trips the lane's group, and with EXPORT = 1 the trip line TL. -/
def execTripBlock (e n : Nat) (reason : Nat) (s : State) : Out :=
  .next <|
    if s.laneOk e n then
      let s := (s.setLane e n { s.lane e n with reason := reason % 2 ^ 16, loss := false }).tripGroup e n 0x43
      let r := s.laneCfg e n
      if bit r 6 then s.assertLine (bits r 11 7) else s
    else s

/-- STOP_REPEAT: every 64 blocks while the lane's group is tripped. -/
def execStopRepeat (e n : Nat) (s : State) : Out :=
  .next <|
    let x := s.lane e n
    if s.laneOk e n ∧ (s.edge e).tripped.getLsbD n ∧ x.stopDue ≤ 1000 * s.boot.time then
      s.setLane e n { x with tx := stopBlock true :: x.tx, stopDue := x.stopDue + stopSpacing x.ver }
    else s

/-- A core cycle of a lane's transmitter at time `now`: at a block boundary the next block that waits leaves. -/
def Lane.pump (x : Lane) (now : Nat) : Lane :=
  if x.tx.isEmpty ∨ 1000 * now < x.txDue then x
  else { x with tx := x.tx.drop 1, txDue := max x.txDue (1000 * (now - 1)) + blockTime x.ver }

def State.pumpLanes (s : State) : State := { s with lanes := s.lanes.map fun (x : Nat × Lane) => (x.1, x.2.pump s.boot.time) }

/-- INVALID_BLOCK (R334): an invalid or reserved block. -/
def execInvalidBlock (e n : Nat) (s : State) : Out :=
  .next (if s.laneOk e n then s.flag (edgeDA e) pgDlk 5 else s)

end Sys2Proof.Machine
end

