-- ==== Sys2Proof/Machine/Mint.lean ====
section
/-! DEFINITION. The Mint (R420 to R426), refunds (R125), temperature (R427, R428) and the intermediate rail (R430). -/

namespace Sys2Proof.Machine

/-! ### Grants (R420) -/

/-- R420: a die is hungry: class 2 work is active, staged or ready, and the allowance is below twice the floor share. -/
def State.hungry (s : State) (t share : Nat) : Bool :=
  decide ((s.tile t).allowance < 2 * (share : Int)) &&
  (List.range 9).any fun c => (s.bank t c 2).active || (s.disp t c).staged.isSome

/-- The tile dies of the bound logical dies. -/
def State.boundTiles (s : State) : List Nat := (List.range 56).filterMap s.physDie

/-- An amount is added to a die's allowance. -/
def State.credit (s : State) (t : Nat) (n : Int) : State :=
  s.setTile t { s.tile t with allowance := (s.tile t).allowance + n }

/-- R418, R420: the tick's extra with its boost, in coins. -/
def State.tickExtra (s : State) : Int :=
  let p := s.period
  let b := s.budget
  (b * p / 1400 : Nat) * (coin : Int) - s.demandOf s.tick -
    (ceilDiv (s.staticW * p) 1400 + ceilDiv (s.fixedW * p) 1400 + 56 * s.efloor : Nat) * (coin : Int) +
    s.mint.boost * (coin : Int)

/-- R420: P × X(q) in steps of 2^-20 coin; `held` is the allowance of all dies after their floor shares. -/
def State.extra (s : State) (q len : Nat) (held : Int) : Int :=
  if s.shedNow || s.mint.noExtra then 0
  else
    let s2 : Int := if q = 0 then (s.mint.lastQ * 1400 / max 1 s.mint.lastLen : Nat) else s.mint.lastQ
    let cap := (s2 + 50 * coin - s.profileRise q - held) * s.period
    max 0 (min (s.tickExtra * len) cap)

/-- GRANT (R420): at local cycle 1,400q + 256. A quantum after the regular length of a stretched tick has floor shares only
(R391), and after a cut nothing is granted (R425). -/
def execGrant (s : State) : Out :=
  .next <|
    let q := s.mint.quantum
    if s.running ∧ !s.pacer.strobed ∧ s.pacer.cycle = 1400 * q + 256 then
      let s0 := s.setMint { s.mint with quantum := q + 1 }
      if s.mint.cut then s0
      else
        let p := s.period
        let regular := decide (1400 * q < p)
        let len := if regular then min 1400 (p - 1400 * q) else 1400
        let share := s.efloor * coin * len / max 1 p
        let dies := s.boundTiles
        let hungry := dies.filter fun t => s.hungry t share
        let s1 := dies.foldl (fun s t => s.credit t share) s0
        let held := (dies.map fun t => (s1.tile t).allowance).sum
        let x := if regular then s.extra q len held else 0
        hungry.foldl (fun s t => s.credit t (x / ((max 1 p : Nat) * (hungry.length : Int)))) s1
    else s

/-- R424, R431: MNT_RAIL shows the voltage and the current that the Pacer measures at the intermediate rail. -/
def State.showRail (s : State) (mv amps : Nat) : State :=
  (s.setReg pacerDA pgMnt 0x068 (mv % 2 ^ 12 + amps % 2 ^ 10 * 2 ^ 16)).setMint
    { s.mint with uvAt := if mv ≤ 1740 then s.boot.time else s.mint.uvAt }

/-- QUANTUM_END (R425): the energy that the Pacer measured in the quantum that ends, from the rail's voltage and current. -/
def execQuantumEnd (energy mv amps : Nat) (s : State) : Out :=
  .next <|
    let m := s.mint
    let p := s.period
    let lo := 1400 * m.ended
    let regular := decide (lo < p)
    let len := if regular then min 1400 (p - lo) else 1400
    if (s.pacer.phase = .running ∨ s.pacer.phase = .restarting) ∧ s.pacer.cycle = lo + len then
      let s := s.showRail mv amps
      let s := s.setMint { s.mint with
        energy := m.energy + energy, ended := m.ended + 1, lastQ := m.spentQ, lastLen := len, spentQ := 0 }
      if 1150 * len < energy * 1400 then
        (((s.setMint { s.mint with cut := true }).zeroAllowances).flag pacerDA pgMnt 1).incReg pacerDA pgMnt 0x06C
      else s
    else s

/-- BUCKET_UPDATE (R424): every 21,875 cycles while the tick is disarmed. -/
def execBucketUpdate (energy mv amps : Nat) (s : State) : Out :=
  .next <|
    if (s.pacer.phase = .disarmed ∨ s.pacer.phase = .armed) ∧ s.mint.updated + 21875 ≤ s.boot.time then
      let s := s.showRail mv amps
      s.setMint { s.mint with
        bucket := bucketAfter s.mint.bucket s.budget 21875 energy, updated := s.mint.updated + 21875 }
    else s

/-- REFUND (R125): a reported refund is credited to the die's allowance. -/
def execRefund (t : Nat) (units : Nat) (s : State) : Out :=
  .next <|
    if s.mint.refunds.contains (t, units) then
      (s.setMint { s.mint with refunds := s.mint.refunds.erase (t, units) }).credit t units
    else s

/-- R426: the lowest limit that is accepted. -/
def State.limitMin (s : State) : Nat :=
  ceilDiv ((s.mntReg 0x064 % 2 ^ 16 + 56 * s.efloor) * 1400) (max 1 s.period) + s.staticW + s.fixedW

/-- R426: a write to MNT_LIMIT. -/
def State.writeLimit (s : State) (watts : Nat) : State :=
  if watts ≠ 0 ∧ watts < s.limitMin then s.flag pacerDA pgMnt 3 else s.setReg pacerDA pgMnt 0x050 watts

/-- LIMIT (R426). -/
def execLimit (watts : BitVec 10) (s : State) : Out := .next (s.writeLimit watts.toNat)

/-! ### Temperature (R427, R428) -/

/-- A reading in 0.125 degree steps as a 16-bit field. -/
def tempField (x : Int) : Nat := wrap 16 x

/-- R427: a reading inside −55 °C to 150 °C. -/
def tempOk (x : Int) : Bool := decide (-440 ≤ x) && decide (x ≤ 1200)

/-- R427: the hottest reading of a package, with its die: the lower DA of two. -/
def hottest (l : Table Int) : Option (Nat × Int) :=
  l.foldl (fun b x => match b with
    | none => some x
    | some y => if y.2 < x.2 then some x else some y) none

/-- The readings of a die's mesh neighbours. -/
def State.neighbourTemps (s : State) (da : Nat) : Table Int :=
  s.mint.temps.filter fun x => hopDist da x.1 == 1 && (dieKind x.1).isSome

/-- Event 0x04: the hottest die and its temperature in whole degrees. -/
def State.warnEvent (s : State) (da : Nat) (temp : Int) : State :=
  s.event { code := 0x04, src := da, unit := 0, tick := s.tickWord,
            w2 := BitVec.ofNat 32 (da + wrap 8 (temp / 8) * 2 ^ 8) }

/-- R427: the Pacer's decisions on the hottest junction. -/
def State.decideTemp (s : State) (da : Nat) (temp : Int) : State :=
  let s := s.setReg pacerDA pgThmAgg 0x040 (tempField temp + da * 2 ^ 16)
  let m := s.mint
  let s := if 800 ≤ temp ∧ !m.shed then (s.setMint { m with shed := true, coolSince := none }).flag pacerDA pgThmAgg 0
    else if m.shed then
      if temp < 784 then
        match m.coolSince with
        | none => s.setMint { m with coolSince := some s.boot.time }
        | some x => if x + 1400000 ≤ s.boot.time then s.setMint { m with shed := false, coolSince := none } else s
      else s.setMint { m with coolSince := none }
    else s
  let m := s.mint
  let s := if 840 ≤ temp ∧ !m.warn then ((s.setMint { m with warn := true }).flag pacerDA pgThmAgg 1).warnEvent da temp
    else if temp < 824 then s.setMint { m with warn := false } else s
  let m := s.mint
  let s := if temp < -160 ∧ !m.cold then
      let s := s.setMint { m with cold := true }
      if s.inTick then s.warnEvent da temp else s
    else if -144 ≤ temp then s.setMint { m with cold := false } else s
  if 896 ≤ temp ∧ !s.mint.shutdown then s.thermalShutdown else s

/-- SENSOR_READING (R427): every 4 µs (5,600 cycles) a die's four junction sensors, in 0.125 degree steps, and fifth its core rail
in mV. -/
def execSensorReading (da : Nat) (temps : List Int) (s : State) : Out :=
  .next <|
    if (dieKind da).isNone ∨ !s.pageEn da pgThm ∨ s.boot.time < tget s.mint.readAt da 0 then s
    else
      let s := s.setMint { s.mint with readAt := tput s.mint.readAt da (s.boot.time + 5600) }
      let broken := s.keeper.unusable.contains (da, 0xD0002)
      let four := temps.take 4
      let ok := fun (x : Int) => tempOk x && !broken
      let valid := packBits (four.map ok)
      let s := s.setReg da pgThm 0x04C valid
      let s := match temps[4]? with
        | some mv => s.setReg da pgThm 0x048 (mv.toNat % 2 ^ 12)
        | none => s
      let s := if four.all ok then s else s.flag da pgThm 0
      let own := (four.filter ok).foldl (fun (b : Option Int) x => match b with
        | none => some x
        | some y => some (max y x)) none
      let taken := match own with
        | some x => some x
        | none => (hottest (s.neighbourTemps da)).map fun x => x.2 + 40
      let s := match own with
        | some x =>
          let s := s.setReg da pgThm 0x040 (tempField x)
          if sext 16 (s.reg da pgThm 0x044) < x then s.setReg da pgThm 0x044 (tempField x) else s
        | none => s
      match taken with
      | none => s
      | some x =>
        let s := s.setMint { s.mint with temps := tput s.mint.temps da x }
        match hottest s.mint.temps with
        | some h => s.decideTemp h.1 h.2
        | none => s

/-! ### The intermediate rail (R430) -/

/-- RAIL_UNDERVOLTAGE: the rail stays at `mv` for `us`. -/
def execRailUndervoltage (mv us : Nat) (s : State) : Out :=
  .next <|
    let s := (s.setReg pacerDA pgMnt 0x068 (putBits (s.reg pacerDA pgMnt 0x068) 11 0 mv)).setMint
      { s.mint with uvAt := if mv ≤ 1740 then s.boot.time else s.mint.uvAt }
    let s := if mv < 1710 ∧ 10 ≤ us then (s.setMint { s.mint with uvShed := true }).flag pacerDA pgMnt 4 else s
    if mv < 1620 ∧ 2 ≤ us ∧ !s.mint.shutdown then s.thermalShutdown else s

/-- UNDERVOLTAGE_RECOVERY: the rail has stayed above 1.74 V for 1 ms (1,400,000 cycles). -/
def execUndervoltageRecovery (s : State) : Out :=
  .next (if s.mint.uvAt + 1400000 ≤ s.boot.time then s.setMint { s.mint with uvShed := false } else s)

end Sys2Proof.Machine
end

