-- ==== Sys2Proof/Machine/RegOps.lean ====
section
/-! DEFINITION. Register pages (R7, R8, R25, R30, R449 to R455): what a read of a register returns, with the registers that
show a unit's state, and what a write changes under the access codes and the ranges that the chapters state. The registers
that command an action are in Registers.lean. -/

namespace Sys2Proof.Machine

/-! ### Windows -/

/-- The number of the unit that an index register selects for a windowed register; 0 for a plain register. -/
def State.winIdx (s : State) (b : Blk) (da page off : Nat) : Nat :=
  match b with
  | .edg => if inArr off 0x054 4 8 then s.reg da page 0x050 else 0
  | .dlk => if inArr off 0x0B4 4 8 then s.reg da page 0x0B0 else 0
  | .sdi => if 0x064 ≤ off then s.reg da page 0x060 else 0
  | .pwm => if 0x064 ≤ off then s.reg da page 0x060 else 0
  | .enc => if 0x044 ≤ off then s.reg da page 0x040 else 0
  | .fab => if off = 0x04C then s.reg da page 0x048 else 0
  | .agr => if 0x044 ≤ off then s.reg da page 0x040 else 0
  | .bst => if off = 0x04C then s.reg da page 0x048 else 0
  | _ => 0

/-! ### The Vault's fuses (R371) -/

/-- Fuse words as the factory leaves them: FAMILY and POPULATION of every KLH-448 (R355, R371). -/
def fuseFactory (i : Nat) : Nat := match i with | 2 => 0x0B02 | 3 => 0x0186183C | _ => 0

def State.fuse (s : State) (i : Nat) : Nat := (tget s.keeper.fuses i (BitVec.ofNat 32 (fuseFactory i))).toNat

/-- R372: the lifecycle that the fuses spell. -/
def State.fuseLife (s : State) : Nat := if bit (s.fuse 4) 1 then 2 else if bit (s.fuse 4) 0 then 1 else 0

/-- R371: a key slot is programmed; it is revoked. -/
def State.slotSet (s : State) (k : Nat) : Bool := (List.range 12).any fun i => s.fuse (8 + 12 * k + i) != 0
def State.slotRevoked (s : State) (k : Nat) : Bool := bit (s.fuse 4) (4 + k)
def State.iekSet (s : State) : Bool := (List.range 8).any fun i => s.fuse (56 + i) != 0
def State.secverMin (s : State) : Nat := popcount 32 (s.fuse 5) + popcount 32 (s.fuse 6)

/-! ### Registers that show state -/

def phaseCode (p : TickPhase) : Nat := match p with | .disarmed => 0 | .armed => 1 | .running => 2 | .restarting => 3

def State.rdTkc (s : State) (off : Nat) : Option Nat :=
  match off with
  | 0x058 => some (phaseCode s.pacer.phase + 4 * boolNat s.pacer.netLock)
  | 0x05C => some (s.tick % 2 ^ 32)
  | _ => none

def TtEntry.word (e : TtEntry) (i : Nat) : Nat := ([e.w0, e.w1, e.w2, e.w3].getD i 0).toNat

def State.rdTtb (s : State) (off : Nat) : Option Nat :=
  if off = 0x040 then some s.pacer.entries.length
  else if off = 0x060 then some (if s.disarmed then 0 else s.pacer.walk)
  else if inArr off 0x050 4 4 then
    some (match s.ttEntry (s.reg pacerDA pgTtb 0x04C) with | some e => e.word ((off - 0x050) / 4) | none => 0)
  else none

/-- MQ_QSTATUS. Where commands of two classes are queued or executing, OWNER is the class of the head of the queue (DESIGN
CHOICE, notes/assumptions/213.md). -/
def State.rdMq (s : State) (t c off : Nat) : Option Nat :=
  if off = 0x040 then
    let q := (s.core t c).quad
    let owner := match q.queue, q.muls, q.load with
      | m :: _, _, _ => m.cls
      | [], m :: _, _ => m.cmd.cls
      | [], [], some m => m.cls
      | [], [], none => 3
    some (q.queue.length + 8 * boolNat (!q.muls.isEmpty) + 16 * boolNat q.load.isSome + 2 ^ 5 * q.active.toNat +
      2 ^ 9 * packBits ((List.range 4).map fun a => (q.shadowPlane a).valid) + 2 ^ 13 * owner +
      2 ^ 15 * packBits ((List.range 4).map fun a => (q.activePlane a).valid))
  else none

def State.rdSeq (s : State) (t c off : Nat) : Option Nat :=
  let k := s.core t c
  let iss := k.issuing.map k.bank
  match off with
  | 0x040 => some (k.issuing.getD 3 + packBits [k.bG.active, k.bL.active, k.bE.active, k.bE.isTask,
      (iss.map (·.holding)).getD false, k.frozen, (iss.map fun b => !b.boundary).getD false] * 4)
  | 0x044 => some k.bG.pc.toNat
  | 0x048 => some k.bL.pc.toNat
  | 0x04C => some k.bE.pc.toNat
  | 0x050 => some k.bG.astat.toNat
  | 0x054 => some k.bL.astat.toNat
  | 0x058 => some k.bE.astat.toNat
  | 0x05C => some (packBits [k.bG.ck, k.bG.ps, k.bL.ck, k.bL.ps, k.bE.ck, k.bE.ps, k.bE.ab])
  | _ => none

def State.rdVec (s : State) (t c off : Nat) : Option Nat :=
  if off = 0x044 then
    let k := s.core t c
    let n := fun cls => (k.vec.rollsOf cls).length % 256
    let d := k.disp
    some (n 0 + 2 ^ 8 * n 1 + 2 ^ 16 * n 2 + 2 ^ 24 * boolNat d.staged.isSome + 2 ^ 25 * boolNat d.ret.isSome +
      2 ^ 26 * d.steal.length + 2 ^ 30 * boolNat d.request.isSome)
  else none

/-- A class 2 request of a core waits for tokens (STR_QSTATUS.TWAIT). -/
def State.tokenWait (s : State) (t c : Nat) : Bool :=
  match (s.core t c).str.running 2 with
  | none => false
  | some st => st.gateOpen && decide (st.next < dTotal st.desc) &&
      if st.walk then st.wtag.isNone && !st.walked && !s.hasTokens (tileDA t) c 2 8
      else !s.hasTokens (tileDA t) c 2 (st.runLen * dEsz st.desc)

def State.rdStr (s : State) (t c off : Nat) : Option Nat :=
  let u := (s.core t c).str
  match off with
  | 0x044 => some (min 7 (u.count 0) + 8 * min 7 (u.count 1) + 64 * min 7 (u.count 2) + 2 ^ 9 * u.slots +
      2 ^ 16 * boolNat (u.streams.any (·.walk)) + 2 ^ 17 * boolNat (s.tokenWait t c))
  | 0x060 => some (match (s.disp t c).park with | some k => 1 + 2 * k.entry | none => 0)
  | _ => none

def State.rdStrDie (s : State) (t off : Nat) : Option Nat :=
  let x := s.tally t (s.reg (tileDA t) pgStrDie 0x050)
  match off with
  | 0x054 => some (x.count + 2 ^ 16 * (x.expect % 2 ^ 16))
  | 0x058 => some (boolNat x.armed + 2 * boolNat (x.armed && decide (x.expect ≤ x.count)))
  | _ => none

def State.rdTlr (s : State) (da off : Nat) : Option Nat :=
  let x := s.teller da (s.reg da pgTlr 0x04C)
  match off with
  | 0x050 => some x.level
  | 0x054 => some x.spent.toNat
  | 0x058 => some x.fixed.toNat
  | _ => none

/-- LDG_PMAP_DIE[n] and NI_LMAP[n]. A logical die is bound until its die is lost, and again from its first rejoin. -/
def State.pmapDie (s : State) (n : Nat) : Nat :=
  if s.keeper.started then (match s.physDie n with | some t => t + 2 ^ 8 | none => 0) else 0

def State.rdNi (s : State) (da off : Nat) : Option Nat :=
  if off = 0x044 then some (s.net.outstanding.filter fun o => o.da == da).length
  else if off = 0x05C then some (match s.net.failedLink with | some l => ((elementLinks l).min?).getD 0 + 2 ^ 8 | none => 0)
  else if inArr off 0x04C 4 4 then
    let (w0, w1, w2, w3) := s.routeWords da (s.reg da pgNi 0x048)
    some (([w0, w1, w2, w3].getD ((off - 0x04C) / 4) 0).toNat)
  else if inArr off 0x100 4 56 then some (s.pmapDie ((off - 0x100) / 4))
  else none

/-! Links and their lanes (R254). -/

/-- Substitutions of a receive side: the failed logical lanes, each with the spare that carries it. -/
def State.lanePairs (s : State) (key : Nat) : List (Nat × Nat) := tget s.net.subst key []

def State.substWord (s : State) (key : Nat) : Nat :=
  (s.lanePairs key).foldl (fun acc x => acc + 2 ^ (8 * x.2) * (x.1 + 2 ^ 7)) 0

def State.rdNoc (s : State) (da off : Nat) : Option Nat :=
  if inArr off 0x040 4 4 then
    let p := (off - 0x040) / 4
    match linkAt da p with
    | none => some (0xFF * 2 ^ 8)
    | some l =>
      let st := if !s.net.trained then 0
        else if s.net.failed.contains l then 3
        else if s.net.retraining.contains (4 * da + p) || s.net.retraining.contains (farSide da p) then 1
        else 2
      some (st + 2 ^ 2 * (s.lanePairs (farSide da p)).length + 2 ^ 5 * (s.lanePairs (4 * da + p)).length +
        2 ^ 8 * (if st = 0 then 0xFF else l))
  else if inArr off 0x050 4 4 then
    let p := (off - 0x050) / 4
    some (if (linkAt da p).isSome then s.substWord (farSide da p) else 0)
  else if inArr off 0x060 4 4 then
    let p := (off - 0x060) / 4
    some (if (linkAt da p).isSome then s.substWord (4 * da + p) else 0)
  else none

/-! Memory channels: the channel of a page of a memory die. -/

def chanOf (da page : Nat) : Nat :=
  2 * (((List.range 6).find? fun i => memoryDA i == da).getD 0) + (page - 0xC0)

/-- R278: the spared device of rank r, pseudo-channel q, subchannel s of a channel (code 4r + 2q + s). -/
def State.sparedDev (s : State) (da e k : Nat) : Option Nat :=
  (s.keeper.spares.find? fun x => x.1 == da && x.2 / 10 == 8 * e + k).map fun x => x.2 % 10

def State.rdMch (s : State) (da page off : Nat) : Option Nat :=
  let x := s.chan (chanOf da page)
  match off with
  | 0x044 => some (x.step + 8 * min 7 x.debt + 2 ^ 6 * boolNat x.granted.isSome + 2 ^ 7 * min 7 x.pendOvd.length)
  | 0x058 => some (packFields 4 ((List.range 8).map fun k => (s.sparedDev da (page - 0xC0) k).getD 0xF))
  | _ => none

def regPhaseCode (p : RegPhase) : Nat :=
  match p with
  | .absent => 0 | .verifying => 1 | .isolating => 2 | .loading => 3 | .releasing => 4 | .running => 5 | .failed => 6

def State.rdFab (s : State) (f r off : Nat) : Option Nat :=
  if off = 0x040 then
    let x := s.region f r
    let v := match x.phase with | .loading | .releasing => x.target.getD x.variant | _ => x.variant
    some (regPhaseCode x.phase + 8 * v + 2 ^ 6 * boolNat x.fixed + 2 ^ 7 * boolNat x.used)
  else none

/-- Physical columns of a logic group of a fabric die that the Ledger has retired, at the last load (R299). -/
def State.lostColumns (s : State) (da g : Nat) : List Nat :=
  (List.range 33).filter fun p => s.keeper.unusable.contains (da, 0x90000 + 33 * g + p)

def State.spareCols (s : State) (da g0 : Nat) : Nat :=
  packFields 8 ((List.range 4).map fun k =>
    match s.lostColumns da (g0 + k) with
    | [] => 0
    | [p] => p + 2 ^ 6
    | p :: _ => p + 2 ^ 6 + 2 ^ 7)

/-- R308: the port fields reflect the running configurations. -/
def State.runningOwner (s : State) (f port : Nat) : Option (Nat × PortDecl) :=
  match s.portOwner f port with
  | some (r, d) => if (s.region f r).runs then some (r, d) else none
  | none => none

def State.rdFabDie (s : State) (f off : Nat) : Option Nat :=
  let da := fabricDA f
  let idx := s.reg da pgFabDie 0x04C
  match off with
  | 0x040 =>
    let q := (s.fab f).queue
    some (packBits ((List.range 16).map fun r => (s.region f r).runs) + 2 ^ 16 * min 4 (q.length - 1) +
      2 ^ 19 * boolNat (!q.isEmpty) + 2 ^ 20 * ((q.head?.map (·.1)).getD 0))
  | 0x044 => some (s.reg da pgFabDie off % 2 ^ 10 + 2 ^ 10 * boolNat (!s.boot.porst && !s.keeper.unusable.contains (da, 0xD0008)))
  | 0x048 => some (s.reg da pgFabDie off % 2 ^ 10 + 2 ^ 10 * boolNat (!s.boot.porst && !s.keeper.unusable.contains (da, 0xD0009)))
  | 0x050 =>
    some (match s.runningOwner f idx with
      | some (r, d) => r + 2 ^ 4 + 2 ^ 5 * (d.cls % 4) + 2 ^ 7 * (d.track % 32) + 2 ^ 12 * (d.value % 2 ^ 12)
      | none => 3 * 2 ^ 5)
  | 0x054 =>
    some (match s.runningOwner f idx with
      | some (_, d) => if d.cls < 2 then d.wstart % 2 ^ 16 + 2 ^ 16 * (d.wend % 2 ^ 16) else 0
      | none => 0)
  | 0x058 => some (s.spareCols da 0)
  | 0x05C => some (s.spareCols da 4)
  | 0x060 =>
    let c := fun (g : TripCell → Bool) => packBits ((List.range 8).map fun k => g (s.trip f k))
    some (c (·.declared) + 2 ^ 8 * c (·.clampOff) + 2 ^ 16 * c TripCell.drives + 2 ^ 24 * c (·.clamped))
  | 0x064 => some ((s.fab f).bramRetired.length % 2 ^ 12 + 2 ^ 12 * (s.spareRows f % 2 ^ 12))
  | _ => none

def State.rdEdg (s : State) (e off : Nat) : Option Nat :=
  if off = 0x040 then some ((s.edge e).tripped.toNat + 2 ^ 16 * boolNat s.stopLine)
  else if inArr off 0x100 4 16 then
    some (s.reg (edgeDA e) pgEdg off % 2 ^ 16 + 2 ^ 16 * boolNat (s.tiActive e ((off - 0x100) / 4)))
  else none

def State.rdSdi (s : State) (e off : Nat) : Option Nat :=
  let ch := s.reg (edgeDA e) pgSdi 0x060
  match off with
  | 0x070 => some (s.sd e ch).y.toNat
  | 0x074 => some (boolNat (decide (3 < (s.sd e ch).outs) && s.chDiv e ch != 0 && s.chOsr e ch != 0) +
      2 * boolNat (s.sd e ch).active)
  | _ => none

def State.rdPwm (s : State) (e off : Nat) : Option Nat :=
  let x := s.gen e (s.reg (edgeDA e) pgPwm 0x060)
  match off with
  | 0x06C => some (x.on % 2 ^ 24 + 2 ^ 24 * x.mode)
  | 0x070 => some (x.off % 2 ^ 24)
  | _ => none

def State.rdEnc (s : State) (e off : Nat) : Option Nat :=
  let x := s.enc e (s.reg (edgeDA e) pgEnc 0x040)
  match off with
  | 0x054 => some (x.pos % 2 ^ 32)
  | 0x058 => some (x.pos / 2 ^ 32 % 2 ^ 16)
  | 0x05C => some (x.ts % 2 ^ 16)
  | 0x060 => some (x.status false)
  | _ => none

def State.rdDlk (s : State) (e off : Nat) : Option Nat :=
  if inArr off 0x060 4 8 then
    let n := (off - 0x060) / 4
    let x := s.lane e n
    some (if s.laneOn e n then x.st + 8 * x.ver + 2 ^ 5 * x.peerAxes + 2 ^ 9 * x.v2fails else 0)
  else if off = 0x0A0 then some ((s.edge e).tripped.toNat % 2 ^ 8 + 2 ^ 8 * boolNat s.stopLine)
  else none

def State.rdTsn (s : State) (off : Nat) : Option Nat :=
  if off = 0x07C then
    let i := s.reg tsnDA pgTsn 0x078
    let g := (tget s.eths (bits i 9 8) {}).gcl
    some (match g[bits i 7 0]? with | some x => x.1 % 2 ^ 8 + 2 ^ 8 * x.2 | none => 0)
  else none

def State.rdImg (s : State) (off : Nat) : Option Nat :=
  if off = 0x058 then
    let i := s.reg keeperDA pgImg 0x054
    some (if i < 12 then word32At s.keeper.manifestDigest (4 * i) else 0)
  else none

def State.rdVlt (s : State) (off : Nat) : Option Nat :=
  if !s.keeper.started then none
  else match off with
  | 0x040 =>
    some (s.fuseLife + 4 * bits (s.fuse 2) 25 24 + 2 ^ 4 * packBits ((List.range 4).map s.slotSet) +
      2 ^ 8 * packBits ((List.range 4).map s.slotRevoked) + 2 ^ 12 * s.secverMin + 2 ^ 19 * boolNat s.iekSet)
  | 0x048 =>
    let i := s.reg keeperDA pgVlt 0x044
    some (if 56 ≤ i ∧ i < 72 then 0 else s.fuse i)
  | 0x04C => some (s.fuse 0)
  | 0x050 => some (s.fuse 1)
  | _ => none

def State.rdLdg (s : State) (off : Nat) : Option Nat :=
  let k := s.keeper
  if !k.started then none
  else if off = 0x040 then
    some (1 + 2 ^ 8 * min 255 s.pendingRefs.length +
      2 ^ 16 * min 255 (allTiles.filter fun t => s.place.dieState t == 0).length)
  else if inArr off 0x048 4 16 then
    let ref := s.reg keeperDA pgLdg 0x044
    some (if validRef ref then word32At ((s.ledRec ref).bytes ref) (off - 0x048) else 0)
  else if off = 0x088 then some k.logCnt
  else if inArr off 0x090 4 4 then
    some (match k.log[s.reg keeperDA pgLdg 0x08C]? with
      | some e => [e.ref.toNat, e.ckind + 4 * e.fkind, e.tick % 2 ^ 32, e.loc.toNat].getD ((off - 0x090) / 4) 0
      | none => 0)
  else if off = 0x0F0 then some k.place.gen
  else if inArr off 0x100 4 56 then some (s.pmapDie ((off - 0x100) / 4))
  else if inArr off 0x200 8 60 then
    let t := (off - 0x200) / 8
    some (packFields 4 ((List.range 8).map fun c => k.place.roleOf t c))
  else if inArr off 0x204 8 60 then
    let t := (off - 0x204) / 8
    some (k.place.roleOf t 8 + 2 ^ 8 * k.place.dieState t)
  else none

/-- AUD_STATE (R413, R398). -/
def State.rdAud (s : State) (t off : Nat) : Option Nat :=
  if off = 0x040 then
    let p := s.place
    let next := 2 ^ 10 * (s.tile t).nextSample
    let busy := 2 ^ 13 * boolNat (s.pacer.ties.any fun x => x.auditor == some t)
    some (if p.dieState t ≠ 1 then 0
      else match p.auditorOf t with
        | none => 3 + next
        | some a =>
          if a ≠ t then 2 + 4 * tileDA a + next
          else match p.adoptedBy t with
            | some d => 1 + 4 * tileDA d + next + busy
            | none => next + busy)
  else none

/-- MNT_STATE: the mode of class 2 energy, and the conditions (R420, R424 to R430). -/
def State.mntState (s : State) : Nat :=
  let m := s.mint
  let mode := if m.cut then 3 else if !s.running || s.shedNow || m.noExtra then 2 else if 0 < m.boost then 1 else 0
  mode + 4 * boolNat s.shedNow + 8 * boolNat (decide (2100000000 ≤ s.overTime)) +
    16 * boolNat (decide (m.bucket < s.fullBoost s.budget * 1400))

def State.rdMnt (s : State) (off : Nat) : Option Nat :=
  match off with
  | 0x054 => some s.mntState
  | 0x058 => some (s.mint.bucket / 1400)
  | 0x060 => some (min 0x7FF (s.overTime / 1400000))
  | _ => none

/-- The hottest module and its channel. -/
def State.hotModule (s : State) : Int × Nat :=
  (List.range 12).foldl (fun (b : Int × Nat) ch => if b.1 < (s.chan ch).degC then ((s.chan ch).degC, ch) else b) ((s.chan 0).degC, 0)

def State.rdThmAgg (s : State) (off : Nat) : Option Nat :=
  let m := s.mint
  match off with
  | 0x040 => some (match hottest m.temps with | some h => tempField h.2 + 2 ^ 16 * h.1 | none => 0)
  | 0x044 => some (packBits [m.shed, m.warn, m.shutdown, m.cold, s.chans.any fun x => x.2.modHot])
  | 0x048 => some ((s.hotModule.1 % 256).toNat + 2 ^ 8 * s.hotModule.2)
  | _ => none

/-- STATUS.FAULTED of a page. -/
def State.faulted (s : State) (da page : Nat) : Bool :=
  s.reg da page 0x014 &&& (2 ^ 32 - 1 - s.reg da page 0x018) != 0

/-- The populated pages of a die. -/
def pagesOf (da : Nat) : List Nat := (List.range 256).filter fun p => (blkAt da p).isSome

def State.rdPrc (s : State) (off : Nat) : Option Nat :=
  let p := s.pacer
  let e := p.history[s.reg pacerDA pgPrc 0x06C]?
  if off = 0x040 then some (s.boot.time % 2 ^ 32)
  else if off = 0x048 then some (p.edgeTime % 2 ^ 32)
  else if off = 0x050 then some p.stretch
  else if off = 0x054 then some p.restarts
  else if inArr off 0x058 4 4 then
    let k := (off - 0x058) / 4
    some (packBits ((List.range 32).map fun b =>
      let i := 32 * k + b
      let da := (i / 10) * 16 + i % 10
      decide (i < 100) && (pagesOf da).any fun pg => s.faulted da pg))
  else if off = 0x068 then some p.fhCnt
  else if inArr off 0x070 4 4 then
    some (match e with | some h => ([h.w0, h.w1, h.w2, h.w3].getD ((off - 0x070) / 4) 0).toNat | none => 0)
  else if off = 0x080 then some (match e with | some h => h.da + 2 ^ 16 * h.cycle | none => 0)
  else if off = 0x084 then some (match e with | some h => boolNat h.restart + 2 * boolNat h.absorbed | none => 0)
  else none

/-- R458: BST_STATE shows the Keeper's shutdown; BST_RESULT the blocks that are unusable. -/
def State.rdBst (s : State) (da off : Nat) : Option Nat :=
  match off with
  | 0x044 =>
    some (if da ≠ keeperDA then 0
      else match s.boot.power with
        | .quiescing => 1
        | .testing => 2 + 8 * s.boot.bistGroup
        | .halted => 3
        | _ => 0)
  | 0x050 => some (s.reg da pgBst off % 2 ^ 16 + 2 ^ 16 * packBits ((List.range 16).map fun k =>
      s.keeper.unusable.contains (da, 0xD0000 + k)))
  | _ => none

/-- A register that shows the state of its unit; none for one that holds its own value. -/
def State.rdDerived (s : State) (b : Blk) (da page off : Nat) : Option Nat :=
  let t := tileOfDA da
  let c := page / 16 - 1
  let e := (edgeOf da).getD 0
  let f := (fabricOf da).getD 0
  match b with
  | .tkc => s.rdTkc off | .ttb => s.rdTtb off | .mq => s.rdMq t c off | .seq => s.rdSeq t c off
  | .vec => s.rdVec t c off | .str => s.rdStr t c off | .strDie => s.rdStrDie t off | .tlr => s.rdTlr da off
  | .ni => s.rdNi da off | .noc => s.rdNoc da off | .mch => s.rdMch da page off | .fab => s.rdFab f (page - 0xA0) off
  | .fabDie => s.rdFabDie f off | .edg => s.rdEdg e off | .sdi => s.rdSdi e off | .pwm => s.rdPwm e off
  | .enc => s.rdEnc e off | .dlk => s.rdDlk e off | .tsn => s.rdTsn off | .img => s.rdImg off | .vlt => s.rdVlt off
  | .ldg => s.rdLdg off | .aud => s.rdAud t off | .mnt => s.rdMnt off | .thmAgg => s.rdThmAgg off
  | .prc => s.rdPrc off | .bst => s.rdBst da off
  | .pci => none | .agr => none | .thm => none

/-- R449: the common header. -/
def State.rdHeader (s : State) (b : Blk) (da page off : Nat) : Nat :=
  match off with
  | 0x000 => b.typeCode + 2 ^ 8 * b.instanceOf page + 2 ^ 16 * da
  | 0x004 => 0x0200
  | 0x008 => boolNat b.injects + 2 * boolNat b.lockable
  | 0x010 => packBits [s.pageEn da page, bit (s.reg da page 0x00C) 2, s.faulted da page, s.retired da page]
  | 0x01C => if s.injectable then s.reg da page off else 0
  | 0x024 => b.unitRef da page
  | _ => s.reg da page off

/-- R7, R26: what a read of a register returns, without its side effects. -/
def State.regRead (s : State) (da page off : Nat) : Nat :=
  match blkAt da page with
  | none => 0
  | some b =>
    if off < 0x040 then s.rdHeader b da page off
    else if (blockFields b off).isEmpty then 0
    else match s.rdDerived b da page off with
      | some v => v % 2 ^ 32
      | none => s.reg da page off (s.winIdx b da page off)

/-! ### Writes -/

/-- The ranges that a field's chapter states: whether the value `v` of field [.. : lo] is taken. A write of any other value is
ignored for that field. -/
def fieldTakes (b : Blk) (off lo v : Nat) : Bool :=
  match b with
  | .ni => off != 0x040 || (decide (1 ≤ v) && decide (v ≤ 4000))
  | .mch =>
    if off = 0x048 then decide (v < 5) else if off = 0x050 then v != 0
    else if off = 0x01C ∧ lo = 2 then decide (v < 10) else true
  | .fab => if off = 0x048 then decide (v < 24) else true
  | .fabDie =>
    if off = 0x044 ∨ off = 0x048 then decide (25 ≤ v) && decide (v ≤ 700) else if off = 0x04C then decide (v < 80) else true
  | .sdi =>
    if inArr off 0x040 4 8 then v == 0 || (decide (56 ≤ v) && decide (v ≤ 280))
    else if off = 0x064 ∧ lo = 8 then v == 0 || (decide (16 ≤ v) && decide (v ≤ 256))
    else if off = 0x064 ∧ lo = 17 then v == 0 || (decide (4 ≤ v) && decide (v ≤ 31)) else true
  | .pwm =>
    if inArr off 0x040 8 4 ∧ lo = 2 then decide (v ≤ 16)
    else if off = 0x060 then decide (v < 48)
    else true
  | .enc =>
    if off = 0x044 then
      match lo with
      | 0 => v == 0 || (decide (140 ≤ v) && decide (v ≤ 14000))
      | 14 => decide (8 ≤ v) && decide (v ≤ 48)
      | 21 => decide (v ≤ 4)
      | _ => true
    else true
  | .dlk => if inArr off 0x040 4 8 then (if lo = 0 then v != 3 else if lo = 2 then decide (v ≤ 9) else true) else true
  | .pci =>
    if off = 0x060 ∧ lo = 0 then decide (4 ≤ v)
    else if inArr off 0x098 32 4 ∧ lo = 0 then decide (v ≤ 16) else true
  | .tsn =>
    if inArr off 0x040 4 4 ∧ lo = 0 then v != 3
    else if inArr off 0x0A0 4 8 ∧ lo = 28 then decide (v ≤ 11) else true
  | .mnt =>
    if off = 0x040 then decide (1 ≤ v) && decide (v ≤ 850) else if off = 0x044 then decide (165 ≤ v) && decide (v ≤ 850)
    else true
  | .tkc =>
    if off = 0x040 then decide (10938 ≤ v) && decide (v ≤ 43750) else if off = 0x044 then decide (700 ≤ v) else true
  | .str => off != 0x040 || lo != 8 || decide (v ≤ 4096)
  | .vec => off != 0x048 || lo != 16 || decide (v ≤ 256)
  | _ => true

/-- Writes that are taken or ignored as a whole: those with a reserved, refused code (R11), and those of the fields that a rule
ties together. -/
def State.wordTakes (s : State) (b : Blk) (da page off v : Nat) : Bool :=
  match b with
  | .seq => !(off == 0x060 || off == 0x064 || off == 0x068) || decide (bits v 7 0 + bits v 16 8 ≤ 256)
  | .vec =>
    if off = 0x040 then decide (bits v 7 0 + bits v 15 8 ≤ 128)
    else if off = 0x048 then decide (bits v 24 16 ≤ 256)
    else if off = 0x050 then (List.range 4).all fun p =>
      decide (bits v (8 * p + 7) (8 * p) < 56) || bits v (8 * p + 7) (8 * p) == 255
    else true
  | .str => off != 0x040 || decide (bits v 20 8 ≤ 4096)
  | .tlr =>
    if off = 0x048 then decide (s.reg da page 0x040 ≤ v % 2 ^ 16)
    else if off = 0x040 then decide (v % 2 ^ 16 ≤ s.reg da page 0x048) else true
  | .pwm => off != 0x064 || (bits v 8 7 != 3 && bits v 10 9 != 3)
  | .edg => off != 0x054 || bits v 1 0 != 3
  | .dlk => off != 0x0B4 || bits v 1 0 != 3
  | .tkc => off != 0x050 || s.disarmed
  | .fab => off != 0x04C || (decide (1 ≤ bits v 10 2) && decide (bits v 10 2 ≤ 256))
  | _ => true

/-- R330, R334: a PHASE of ENC_SCHED that is not below 2^DIV is ignored, and the field keeps its value. -/
def State.schedWord (s : State) (da page n v : Nat) : Nat :=
  if bits v 9 3 < 2 ^ bits v 2 0 then v else putBits v 9 3 (bits (s.reg da page 0x04C n) 9 3)

/-- One field under its access code (R7). -/
def fieldWrite (b : Blk) (off : Nat) (locked : Bool) (v : Nat) (old : Nat) (f : Fld) : Nat :=
  let x := bits v f.hi f.lo
  let put := if fieldTakes b off f.lo x then putBits old f.hi f.lo x else old
  match f.acc with
  | .rw => put
  | .rwl => if locked then old else put
  | .w1c => putBits old f.hi f.lo (bits old f.hi f.lo - (bits old f.hi f.lo &&& x))
  | _ => old

/-- R33, R38: a write of TKC_PERIOD, TKC_CLEAR or TKC_SOURCE that is not taken sets CFG_REFUSED. -/
def State.cfgRefused (s : State) (locked : Bool) (off v : Nat) : State :=
  let bad := match off with
    | 0x040 => !locked && !fieldTakes .tkc 0x040 0 (v % 2 ^ 16)
    | 0x044 => !locked && !fieldTakes .tkc 0x044 0 (v % 2 ^ 12)
    | 0x050 => !s.disarmed
    | _ => false
  if bad then s.flag pacerDA pgTkc 0 else s

/-- W1C fields that a unit holds: ASTAT and event flags of the banks (R158). -/
def State.clearSeq (s : State) (t c off v : Nat) : State :=
  let clr := fun (cls : Nat) => s.updBank t c cls fun b => { b with
    astat := b.astat &&& ~~~ BitVec.ofNat 4 (s.w1cBits (astatKey t c cls) v) }
  let v := s.w1cBits (eventKey t c) v
  match off with
  | 0x050 => clr 0
  | 0x054 => clr 1
  | 0x058 => clr 2
  | 0x05C =>
    let f := fun (s : State) (cls ck ps ab : Nat) => s.updBank t c cls fun b => { b with
      ck := b.ck && !bit v ck, ps := b.ps && !bit v ps, ab := b.ab && !(ab != 0 && bit v ab) }
    f (f (f s 0 0 1 0) 1 2 3 0) 2 4 5 6
  | _ => s

/-- A write to a block-specific register that commands nothing. -/
def State.blockWrite (s : State) (b : Blk) (da page off v : Nat) : State :=
  let locked := bit (s.reg da page 0x00C) 2
  let s := if b = .tkc then s.cfgRefused locked off v else s
  if b = .mnt ∧ off = 0x050 then s.writeLimit (v % 2 ^ 10)
  else if b = .seq ∧ (0x050 ≤ off ∧ off ≤ 0x05C) then s.clearSeq (tileOfDA da) (page / 16 - 1) off v
  else if s.wordTakes b da page off v then
    let i := s.winIdx b da page off
    let v := if b = .enc ∧ off = 0x04C then s.schedWord da page i v else v
    let v' := (blockFields b off).foldl (fieldWrite b off locked v) (s.reg da page off i)
    let s := if b = .fab ∧ off = 0x04C then s.setTrack ((fabricOf da).getD 0) (page - 0xA0) i v' else s.setReg da page off v' i
    if b = .seq ∧ off = 0x06C then s.latchSkip (tileOfDA da) (page / 16 - 1)
    else if b = .pci ∧ 0x090 ≤ off ∧ off % 32 = 0x18 then s.markHost (regKey da page off 0)
    else s
  else s

/-- Pages on which a write of EN = 0 is ignored (R449). -/
def enFixed (b : Blk) (da : Nat) : Bool :=
  b == .ni || b == .noc || da == keeperDA || da == pacerDA || da == pcieDA

/-- The state of the block of a page at its reset values (R449: SRST, and EN = 0). SHUTDOWN is not left until a load (R427). -/
def State.resetBlock (s : State) (b : Blk) (da page : Nat) : State :=
  let t := tileOfDA da
  let c := page / 16 - 1
  let e := (edgeOf da).getD 0
  let f := (fabricOf da).getD 0
  match b with
  | .seq => s.updCore t c fun k => { k with bG := {}, bL := {}, bE := {}, issuing := none, frozen := false, spanLen := 0 }
  | .mq => s.updCore t c fun k => { k with quad := {} }
  | .vec => s.updCore t c fun k => { k with vec := {}, disp := {} }
  | .str => s.updCore t c fun k => { k with str := {} }
  | .strDie => { s.setTile t { s.tile t with xlat := [] } with tallies := s.tallies.filter fun x => x.1 / 1024 != t }
  | .tlr => { s with tellers := s.tellers.filter fun x => x.1 / 16 != da }
  | .aud => s.setTile t { s.tile t with
      nextSample := 0, sample := none, capture := [], captureOvf := false, held := [], doomed := [], tieCapture := [],
      tieCapturing := false, tieOvf := false }
  | .ni => s.setNet { s.net with
      outstanding := s.net.outstanding.filter (fun o => o.da != da), heldTags := s.net.heldTags.filter fun h => h.da != da }
  | .noc => s.setNet { s.net with queued := s.net.queued.filter fun q => q.da != da }
  | .mch => s.setChan (chanOf da page) {}
  | .fab => s.setRegion f (page - 0xA0) {}
  | .fabDie => s.setFab f {}
  | .edg => { s with edges := tput s.edges e { tiPin := (s.edge e).tiPin, sdcStart := (s.edge e).sdcStart }, outs := s.outs.filter fun x => x.1 / 16 != da }
  | .pwm => { s with gens := s.gens.filter fun x => x.1 / 64 != e }
  | .sdi => { s with sds := s.sds.filter fun x => x.1 / 64 != e }
  | .enc => { s with encs := s.encs.filter fun x => x.1 / 16 != e }
  | .dlk => { s with lanes := s.lanes.filter (fun x => x.1 / 8 != e), edges := tput s.edges e {},
                     outs := s.outs.filter fun x => x.1 / 16 != da }
  | .pci => s.setHost {}
  | .tsn => { s with eths := [] }
  | .ttb => s.setPacer { s.pacer with entries := [] }
  | .mnt => s.setMint { s.mint with
      bucket := bucketFull, overLog := [], refunds := [], limit := 0, boost := 0, cut := false, noExtra := false, uvShed := false }
  | .thmAgg => s.setMint { s.mint with
      temps := [], shed := false, coolSince := none, warn := false, cold := false }
  | .tkc => s.setPacer { s.pacer with netLock := false, syncGood := 0, offNetwork := false }
  | .prc => s.setPacer { s.pacer with history := [], fhCnt := 0, restarts := 0, stretch := 0 }
  | _ => s

/-- R449: SRST: the block-specific registers and the block's state return to their reset values. Ignored while the page is
locked or the tick is not disarmed. -/
def State.softReset (s : State) (da page : Nat) : State :=
  match blkAt da page with
  | none => s
  | some b =>
    if bit (s.reg da page 0x00C) 2 || !s.disarmed then s
    else
      let s := { s with regs := s.regs.filter fun x =>
        x.1 / 2 ^ 24 != da * 256 + page || decide (x.1 / 2 ^ 12 % 2 ^ 12 < 0x040) }
      s.resetBlock b da page

/-- R449, R452: a write to CTRL. Only the Keeper sets LOCK, and it takes hold after the other fields. -/
def State.ctrlWrite (s : State) (b : Blk) (da page v : Nat) (keeper : Bool) : State :=
  let old := s.reg da page 0x00C
  let locked := bit old 2
  let en := bit v 0
  let takes := !locked && (en || (!enFixed b da && s.disarmed))
  let s := if takes then s.setReg da page 0x00C (if en then setBit old 0 else clrBit old 0) else s
  let s := if takes && !en then s.resetBlock b da page else s
  let s := if bit v 1 then s.softReset da page else s
  if keeper && bit v 2 then s.setReg da page 0x00C (setBit (s.reg da page 0x00C) 2) else s

/-- A write to the common header. -/
def State.headerWrite (s : State) (b : Blk) (da page off v : Nat) (keeper : Bool) : State :=
  match off with
  | 0x00C => s.ctrlWrite b da page v keeper
  | 0x014 => s.setReg da page off ((headerFields b off).foldl (fieldWrite b off false (s.w1cBits (regKey da page off 0) v)) (s.reg da page off))
  | 0x018 => s.setReg da page off v
  | 0x01C =>
    if s.injectable then
      let s := s.setReg da page off ((b.injectFields).foldl (fieldWrite b off false v) (s.reg da page off))
      (if b = .mq then s.armNow (tileOfDA da) (page / 16 - 1) else s).markHost (regKey da page off 0)
    else s
  | _ => s

/-- R7, R8, R26, R30: a register write that commands nothing. -/
def State.regWrite (s : State) (da page off v : Nat) (keeper : Bool) : State :=
  match blkAt da page with
  | none => s
  | some b =>
    if s.retired da page && off != 0x014 then s
    else if off < 0x040 then s.headerWrite b da page off (v % 2 ^ 32) keeper
    else if (blockFields b off).isEmpty then s
    else s.blockWrite b da page off (v % 2 ^ 32)

end Sys2Proof.Machine
end

