-- ==== Sys2Proof/Machine/Image.lean ====
section
/-! DEFINITION. The image (R352 to R365): its layout, its source, and what pass 1 checks. -/

namespace Sys2Proof.Machine

/-- The code of the first check that fails. -/
def firstErr : List (Bool × Nat) → Option Nat
  | [] => none
  | (ok, c) :: r => if ok then firstErr r else some c

def allZero (l : List Byte) : Bool := l.all (· == 0)

/-- Bytes `a` to `a + n − 1` of a byte string. -/
def slice (l : List Byte) (a n : Nat) : List Byte := (l.drop a).take n

/-- Consecutive pieces of `n` bytes, at most `k`. -/
def pieces (n : Nat) : Nat → List Byte → List (List Byte)
  | 0, _ => []
  | k + 1, l => if l.isEmpty then [] else l.take n :: pieces n k (l.drop n)

/-- A payload of whole `n`-byte records. -/
def records (n : Nat) (l : List Byte) : List (List Byte) := pieces n (l.length / n) l

/-! ### The source (R354, R369) -/

/-- R354: the flash device and the device address of an image byte. -/
def flashPlace (a : Nat) : Nat × Nat := (a / 256 % 4, a / 1024 * 256 + a % 256)

def State.imgByte (s : State) (a : Nat) : Byte :=
  if s.keeper.source then s.byte .host 0 (s.keeper.hostAddr + a)
  else s.byte .flash (flashPlace a).1 (flashPlace a).2

def State.imgBytes (s : State) (a n : Nat) : List Byte := (List.range n).map fun i => s.imgByte (a + i)

/-- R353: FLASH_ABSENT, for a device that does not answer or lacks a Profile 1.0 table; FLASH_MISMATCH, for devices that differ in
capacity or profile. -/
def State.flashErr (s : State) : Option Nat :=
  let k := s.keeper
  if k.source then none
  else if k.flash.length ≠ 4 ∨ k.profiles.length ≠ 4 ∨ k.flash.contains 0 ∨ k.profiles.contains none then some 0x01
  else if (k.flash.any fun c => c != k.flash.headD 0) || k.profiles.any fun p => p != k.profiles.headD none then some 0x02
  else none

/-- Units that the source holds: four devices of 64 MiB × 2^(code − 1), or the length that the host gives. -/
def State.sourceUnits (s : State) : Nat :=
  if s.keeper.source then s.keeper.hostLen else 2 ^ 15 * 2 ^ s.keeper.flash.headD 0

/-! ### Header (R355) -/

def State.hdr (s : State) (i : Nat) : Nat := leNat (s.imgBytes (4 * i) 4)

/-- The checks of the header in their order (R366). -/
def State.headerErr (s : State) : Option Nat :=
  let w := s.hdr
  firstErr [
    (w 0 == 0x32484C4B, 0x04),
    (w 1 % 2 ^ 16 != 1, 0x05),
    (w 1 % 2 ^ 16 == 2, 0x06),
    (w 2 % 2 ^ 16 == s.fuse 2 % 2 ^ 16, 0x07),
    (w 3 == s.fuse 3, 0x08),
    (decide (1 ≤ w 4) && decide (w 4 ≤ 393216) && decide (w 4 ≤ s.sourceUnits), 0x09),
    (decide (1 ≤ w 5) && decide (1 ≤ w 7 % 2 ^ 14) && decide (w 7 % 2 ^ 14 ≤ 8192) && w 6 == 352 + 64 * (w 7 % 2 ^ 14) &&
      decide (4096 * w 5 + w 6 ≤ 4096 * w 4), 0x0A),
    (w 1 / 2 ^ 16 == 0 && w 2 / 2 ^ 16 == 0 && w 7 / 2 ^ 14 == 0 && allZero (s.imgBytes 32 4064), 0x0A)]

/-! ### Manifest (R356, R357) -/

/-- The bytes of the manifest. -/
def State.manifest (s : State) : List Byte := s.imgBytes (4096 * s.hdr 5) (s.hdr 6)

/-- Word of the manifest that holds SECVER, SLOT, ENC, DEVBIND and DRAMCAP. -/
def manInfo (m : List Byte) : Nat := word32At m 0x018

/-- The manifest's fields repeat the header's, its reserved fields are 0. -/
def State.manifestErr (s : State) (m : List Byte) : Option Nat :=
  let w := manInfo m
  let same := (List.zip [0x004, 0x008, 0x00C, 0x010, 0x014]
    [s.hdr 1 % 2 ^ 16, s.hdr 2 % 2 ^ 16, s.hdr 3, s.hdr 4, s.hdr 7 % 2 ^ 14]).all fun x => word32At m x.1 == x.2
  let rsv := w / 2 ^ 15 == 0 && allZero (slice m 0x01C 4) && allZero (slice m 0x048 24) && allZero (slice m 0x0C1 63) &&
    decide (bits w 7 0 ≤ 64) && decide (1 ≤ bits w 14 12) && decide (bits w 14 12 ≤ 4) &&
    (bit w 11 || allZero (slice m 0x020 8)) &&
    (List.range (s.hdr 7 % 2 ^ 14)).all fun i => word32At m (0x100 + 64 * i) / 2 ^ 24 == 0
  firstErr [(word32At m 0 == 0x4D484C4B, 0x04), (same && rsv, 0x0B)]

/-- Segment entry `i`. -/
def segEnt (m : List Byte) (i : Nat) : SegEnt :=
  let a := 0x100 + 64 * i
  let w := word32At m a
  { typ := bits w 7 0, die := bits w 15 8, unit := bits w 19 16, variant := bits w 22 20, dakind := bit w 23,
    offset := word32At m (a + 4), length := word32At m (a + 8), dest := word32At m (a + 12), digest := slice m (a + 16) 48 }

def State.entries (s : State) (m : List Byte) : List SegEnt := (List.range (s.hdr 7 % 2 ^ 14)).map (segEnt m)

/-- First byte of a stored segment, and the byte after its last (R358). -/
def SegEnt.start (g : SegEnt) : Nat := 4096 * g.offset
def SegEnt.stop (g : SegEnt) : Nat := g.start + 64 + g.length

/-- R357, R358: TYPE, LENGTH, VARIANT and the placement of a segment among those before it. -/
def State.segPlaced (s : State) (before : List SegEnt) (g : SegEnt) : Bool :=
  let man := 4096 * s.hdr 5
  let limit := if g.typ = 9 then 2 ^ 22 else 2 ^ 24
  decide (1 ≤ g.typ) && decide (g.typ ≤ 10) && decide (1 ≤ g.length) && decide (g.length ≤ limit) &&
  (g.typ == 9 || g.variant == 0) && decide (1 ≤ g.offset) && decide (g.stop ≤ 4096 * s.hdr 4) &&
  (decide (g.stop ≤ man) || decide (man + s.hdr 6 ≤ g.start)) &&
  before.all fun x => decide (g.stop ≤ x.start) || decide (x.stop ≤ g.start)

/-- The first segment that breaks R357 or R358. -/
def State.placeErr (s : State) : List SegEnt → Nat → List SegEnt → Option (Nat × Nat)
  | _, _, [] => none
  | before, i, g :: r => if s.segPlaced before g then s.placeErr (g :: before) (i + 1) r else some (0x11, i)

/-! ### Signature (R363) -/

/-- The bytes of a key slot's hash (R371). -/
def State.slotHash (s : State) (k : Nat) : List Byte := (List.range 12).flatMap fun i => leBytes 4 (s.fuse (8 + 12 * k + i))

/-- R363: KEY_SLOT, SIGNATURE. -/
def State.signatureErr (s : State) (m : List Byte) : Option Nat :=
  let slot := bits (manInfo m) 9 8
  let key := slice m 0x060 97
  let body := m.take (m.length - 96)
  let known := if s.slotSet slot then s.slotHash slot == sha384 key else s.keeper.lifecycle != 1
  firstErr [(!s.slotRevoked slot && known, 0x0C),
    (ecdsaVerify key (sha384 body) (m.drop (m.length - 96)), 0x0D)]

/-! ### Segments (R359) -/

/-- The header of stored segment `i` agrees with its entry. -/
def segHeaderOk (enc : Bool) (i : Nat) (g : SegEnt) (h : List Byte) : Bool :=
  let w := fun k => word32At h (4 * k)
  w 0 == i && w 1 == g.length && w 2 == g.typ && allZero (slice h 12 20) && w 11 == 0 &&
  (enc || (allZero (slice h 32 12) && allZero (slice h 48 16)))

/-- The 64 + LENGTH stored bytes. -/
def State.stored (s : State) (g : SegEnt) : List Byte := s.imgBytes g.start (64 + g.length)

/-- Pass 1 over the segments: header and digest of each. `short` names the segment, if any, whose read is short. -/
def State.segsErr (s : State) (enc : Bool) (short : Option Nat) : Nat → List SegEnt → Option (Nat × Nat)
  | _, [] => none
  | i, g :: r =>
    let b := s.stored g
    if short = some (i + 2) then some (0x03, i)
    else if !segHeaderOk enc i g (b.take 64) then some (0x11, i)
    else if sha384 b ≠ g.digest then some (0x12, i)
    else s.segsErr enc short (i + 1) r

/-- Pass 1 (R366 step 1) up to the signature: the refusal code with its segment. `short` names what a short read meets (R354): 0
the header, 1 the manifest, 2 + i segment i. -/
def State.signedErr (s : State) (short : Option Nat) : Option (Nat × Nat) :=
  let cut := fun (i : Nat) => firstErr [(short != some i, 0x03)]
  let plain := fun (c : Option Nat) => c.map fun c => (c, 0)
  let m := s.manifest
  let w := manInfo m
  (plain s.flashErr).orElse fun _ => (plain (cut 0)).orElse fun _ => (plain s.headerErr).orElse fun _ =>
  (plain (cut 1)).orElse fun _ => (plain (s.manifestErr m)).orElse fun _ =>
  (s.placeErr [] 0 (s.entries m)).orElse fun _ =>
  (plain (firstErr [
    (!bit w 11 || slice m 0x020 8 == leBytes 4 (s.fuse 0) ++ leBytes 4 (s.fuse 1), 0x0F),
    (decide (s.secverMin ≤ bits w 7 0), 0x0E)])).orElse fun _ =>
  plain (s.signatureErr m)

/-- Pass 1: its part up to the signature, then ENC and the segments. -/
def State.passOneErr (s : State) (short : Option Nat) : Option (Nat × Nat) :=
  let w := manInfo s.manifest
  (s.signedErr short).orElse fun _ =>
  (((firstErr [(bit w 10 || s.keeper.lifecycle != 1, 0x10)]).map fun c => (c, 0))).orElse fun _ =>
  s.segsErr (bit w 10) short 0 (s.entries s.manifest)

/-! ### Plaintext (R364, R365) -/

/-- R371: the image encryption key that the fuses hold. -/
def State.fuseIek (s : State) : List Byte := (List.range 8).flatMap fun i => leBytes 4 (s.fuse (56 + i))

def ascii (l : List Nat) : List Byte := l.map (BitVec.ofNat 8)

/-- R364: K_i, under the IEK that the load read (R373). The label is "KLH-SEG". -/
def State.segKey (s : State) (i : Nat) : List Byte :=
  kdf s.keeper.iek (ascii [0x4B, 0x4C, 0x48, 0x2D, 0x53, 0x45, 0x47]) (s.keeper.salt ++ beBytes 4 i ++ leBytes 1 s.keeper.secver) 256

/-- R365: the payload of stored segment `i`; none where its tag does not authenticate. -/
def State.payload (s : State) (i : Nat) (b : List Byte) : Option (List Byte) :=
  if s.keeper.enc then gcmOpen (s.segKey i) (slice b 32 12) (b.take 32) (b.drop 64) (slice b 48 16)
  else some (b.drop 64)

end Sys2Proof.Machine
end

