-- ==== Sys2Proof/Machine/Proof.lean ====
section
/-! DEFINITION. What the Keeper checks on the code of a program: delay slots and the return stack (R140), repeat bodies (R142),
fences (R143), non-interruptible spans (R144), shadow uses across an interruptible boundary (R136), the ports of GATE (R153).
The code is followed along every path, a conditional transfer both ways (notes/assumptions/186.md). -/

namespace Sys2Proof.Machine

/-- Code under check: the word index of its first word, and its words. -/
structure Code where
  base : Nat
  words : List Nat
  /-- the greatest COUNT by the place of the word -/
  most : Nat → Nat

def Code.word (k : Code) (pc : Nat) : Option Nat := if pc < k.base then none else k.words[pc - k.base]?
def Code.mostAt (k : Code) (pc : Nat) : Nat := k.most (pc - k.base)

/-- B, CALL, RET, RPT, RPB, WAIT and END are the words of format C; B, CALL and RET have delay slots. -/
def isControl (w : Nat) : Bool := iFmt w == 2
def hasSlots (w : Nat) : Bool := isControl w && decide (iOp w ≤ 2)
def isRpt (w : Nat) : Bool := isControl w && iOp w == 3
def isRpb (w : Nat) : Bool := isControl w && iOp w == 4
def isGate (w : Nat) : Bool := iFmt w == 3 && iOp w == 5

/-- The words of a repeat's body. -/
def bodyLen (w : Nat) : Nat := if isRpt w then 1 else if isRpb w then iLen w else 0

/-- The greatest COUNT of the word at `i`. One from a register is bounded by the KMAX of the GATE that it derives from (R122, R123), else by
what the Keeper's dataflow finds (notes/assumptions/186.md). -/
def maxCount (gateOf : Nat → Option Nat) (bound : Nat → Nat) (ws : List Nat) (i : Nat) : Nat :=
  let w := ws.getD i 0
  if iCsrc w then
    match gateOf i with
    | some j => min 4 (iKmax (ws.getD j 0))
    | none => min 0xFFFF (bound i)
  else iCount w

/-- The iteration counts of the word at `i` that a bound must look at: with a COUNT from a register 0, 1 and the greatest. -/
def countsOf (most : Nat) (w : Nat) : List Nat := if iCsrc w then [0, 1, most].filter fun n => n ≤ most else [most]

/-! ### Delay slots and bodies (R140, R142, R143) -/

/-- R140: no word of format C stands in a delay slot. -/
def slotsOk (ws : List Nat) : Bool :=
  (List.range ws.length).all fun i =>
    !hasSlots (ws.getD i 0) || [1, 2].all fun d => (ws[i + d]?).all fun v => !isControl v

/-- R142, R143: the word at `j` may stand in the body of the RPB at `i`. -/
def inBodyOk (ws : List Nat) (i j : Nat) : Bool :=
  let w := ws.getD i 0
  let v := ws.getD j 0
  let last := i + iLen w
  let inner := fun (n : Nat) => decide (j + n ≤ last) && (!iFence v || iFence w)
  !isControl v || match iOp v with
    | 0 => decide (j + 2 ≤ last)
    | 3 => inner 1
    | 4 => inner (iLen v) && (List.range (iLen v)).all fun d => !(isRpb (ws.getD (j + 1 + d) 0) && iLen (ws.getD (j + 1 + d) 0) != 0)
    | _ => false

/-- R142, R143: every repeat body. -/
def bodiesOk (ws : List Nat) : Bool :=
  (List.range ws.length).all fun i =>
    let w := ws.getD i 0
    if isRpt w then (ws[i + 1]?).all fun v => !isControl v
    else if isRpb w then (List.range (iLen w)).all fun d => inBodyOk ws i (i + 1 + d)
    else true

/-! ### Spans (R144) -/

/-- A run of cycles that fence points may cut: the issues up to the first cut, the longest piece, the issues after the last cut, and
`out`, the same with the idle cycles that follow them. Lengths go to a last issue; `gone`: the run ends with a transfer that is always
taken, and nothing follows it. -/
structure Run where
  cut : Bool := false
  gone : Bool := false
  head : Nat
  best : Nat
  tail : Nat
  out : Nat

def Run.solid (n : Nat) : Run := { head := n, best := n, tail := n, out := n }
/-- The two idle cycles of a COUNT = 0 repeat: they count where a further issue follows. -/
def Run.idle : Run := { head := 0, best := 0, tail := 0, out := 2 }

def Run.cat (a b : Run) : Run :=
  if a.gone then a
  else if b.head = 0 then { a with gone := b.gone, out := a.out + b.out }
  else
    let mid := a.out + b.head
    { cut := a.cut || b.cut, gone := b.gone, head := if a.cut then a.head else mid, best := max mid (max a.best b.best),
      tail := if b.cut then b.tail else a.out + b.tail, out := if b.cut then b.out else a.out + b.out }

/-- `n` iterations, with fence points between them or without. -/
def Run.times (r : Run) (n : Nat) (fence : Bool) : Run :=
  if n = 0 then .idle
  else if n = 1 || r.gone then r
  else if fence || r.cut then { r with cut := true, best := max r.best (if fence then 0 else r.out + r.head) }
  else
    let len := (n - 1) * r.out + r.head
    { head := len, best := len, tail := len, out := n * r.out }

/-- The longest of the runs of one kind: cut or not, gone or not. -/
def Run.join (l : List Run) : List Run :=
  [(false, false), (false, true), (true, false), (true, true)].flatMap fun k =>
    match l.filter fun r => r.cut == k.1 && r.gone == k.2 with
    | [] => []
    | r :: rest => [rest.foldl (fun x y =>
        { x with head := max x.head y.head, best := max x.best y.best, tail := max x.tail y.tail, out := max x.out y.out }) r]

/-- The cycles of the words `i` to `j − 1`, repeats unrolled. -/
def runOf (most : Nat → Nat) (ws : List Nat) : Nat → Nat → Nat → List Run
  | 0, _, _ => [.solid 0]
  | f + 1, i, j =>
    if j ≤ i then [.solid 0]
    else
      let w := ws.getD i 0
      let n := bodyLen w
      let here :=
        if n = 0 then [{ Run.solid 1 with gone := hasSlots w && iCond w == 0 }]
        else (runOf most ws f (i + 1) (i + 1 + n)).flatMap fun r =>
          (countsOf (most i) w).map fun c => (Run.solid 1).cat (r.times c (iFence w))
      let after := runOf most ws f (i + 1 + n) j
      Run.join (here.flatMap fun x => after.map x.cat)

/-- R144: the longest non-interruptible span, in issue and idle cycles. Outside repeats a span holds a word, and the delay slots of
a transfer that may not be taken. -/
def spanMax (most : Nat → Nat) (ws : List Nat) : Nat :=
  ((List.range ws.length).map fun i =>
    let w := ws.getD i 0
    if bodyLen w ≠ 0 then ((runOf most ws 200 i (i + 1 + bodyLen w)).map (·.best)).foldl max 0
    else if hasSlots w && iCond w != 0 then 3 else 1).foldl max 0

/-! ### Paths -/

/-- A repeat that a path stands in, with the iterations that are left; 10 stands for 10 or more, which no window of 8 words outlives. -/
structure Frame where
  first : Nat
  last : Nat
  left : Nat
  fence : Bool
deriving DecidableEq, Repr

/-- A place on a path: the next word, the return stack, delay slots left and their target, active repeats innermost first, and
whether a fence point lies before the word. -/
structure Place where
  pc : Nat
  stack : List Nat := []
  delay : Option (Nat × Option Nat) := none
  loops : List Frame := []
  fence : Bool := false
deriving DecidableEq, Repr

/-- R144: an interruptible boundary lies before the word. -/
def Place.boundary (p : Place) : Bool := p.delay.isNone && (p.loops.isEmpty || p.fence)

/-- The frame in its next iteration. -/
def Frame.next (l : Frame) : List Frame :=
  if l.left = 0 then [] else if l.left < 10 then [{ l with left := l.left - 1 }] else [l, { l with left := 9 }]

/-- R141: the places after the word at `pc` with active repeats `l`: back to the first word of a body while iterations are left, then on. -/
def Place.leave (p : Place) : List Frame → List Place
  | [] => [{ p with pc := p.pc + 1, loops := [], fence := false }]
  | l :: r =>
    if l.last = p.pc then
      if l.left = 0 then p.leave r else l.next.map fun x => { p with pc := x.first, loops := x :: r, fence := x.fence }
    else [{ p with pc := p.pc + 1, loops := l :: r, fence := false }]

/-- R140: a transfer and, where its condition can fail, the path on. -/
def Place.transfer (p : Place) (w tgt : Nat) (stack : List Nat) : List Place :=
  let slot := { p with pc := p.pc + 1, fence := false }
  { slot with delay := some (2, some tgt), stack := stack } ::
    (if iCond w = 0 then [] else [{ slot with delay := some (2, none) }])

/-- The places that can follow the word `w`, whose greatest COUNT is `most`, with the cycles until they issue. -/
def Place.succ (p : Place) (most w : Nat) : List (Place × Nat) :=
  let one := fun (l : List Place) => l.map fun x => (x, 1)
  match p.delay with
  | some (n + 2, tgt) => one [{ p with pc := p.pc + 1, delay := some (n + 1, tgt), fence := false }]
  | some (_, some tgt) => one [{ p with pc := tgt, delay := none, loops := [], fence := false }]
  | some (_, none) => one ({ p with delay := none }.leave p.loops)
  | none =>
    if !isControl w then one (p.leave p.loops)
    else match iOp w with
      | 0 => one (p.transfer w (iTarget w) p.stack)
      | 1 => if p.stack.length < 4 then one (p.transfer w (iTarget w) ((p.pc + 3) :: p.stack)) else []
      | 2 => match p.stack with | x :: r => one (p.transfer w x r) | [] => []
      | 5 => one (p.leave p.loops)
      | 6 => []
      | _ =>
        let n := bodyLen w
        if n = 0 then one (p.leave p.loops)
        else
          let counts := if iCsrc w then List.range (min most 11 + 1) else [most]
          counts.flatMap fun c =>
            if c = 0 then ({ p with pc := p.pc + n }.leave p.loops).map fun x => (x, 3)
            else [({ p with pc := p.pc + 1, fence := false, loops := ⟨p.pc + 1, p.pc + n, min 10 (c - 1), iFence w⟩ :: p.loops }, 1)]

/-- The places that paths from `todo` reach. -/
def Code.reach (k : Code) : Nat → List Place → List Place → List Place
  | 0, _, seen => seen
  | _, [], seen => seen
  | f + 1, p :: r, seen =>
    if seen.contains p then k.reach f r seen
    else match k.word p.pc with
      | none => k.reach f r (p :: seen)
      | some w => k.reach f ((p.succ (k.mostAt p.pc) w).map (·.1) ++ r) (p :: seen)

/-- R140: at this place the return stack neither exceeds 4 entries nor is found empty by a RET. -/
def Code.stackOk (k : Code) (p : Place) : Bool :=
  match k.word p.pc with
  | some w => !hasSlots w || p.delay.isSome || (if iOp w = 1 then decide (p.stack.length < 4) else iOp w != 2 || !p.stack.isEmpty)
  | none => true

/-! ### Shadows (R131, R136) -/

/-- A register of a bank, its flags, its arithmetic status or its event flags. -/
inductive Reg where
  | g (i : Nat) | a (i : Nat) | m (i : Nat) | l (i : Nat) | flags | astat | events
deriving DecidableEq, Repr

/-- The registers that a word writes, each with its write cycle w. -/
def regWrites (w : Nat) : List (Reg × Nat) :=
  let op := iOp w
  match iFmt w with
  | 0 =>
    (if op = 0 then [] else if op = 12 ∨ op = 17 then [(.flags, 2)] else [(.g (iGd w), if op ≤ 11 then 2 else 4)]) ++
    (if 13 ≤ op then [(.astat, 4)] else []) ++
    (movesA w).flatMap fun v => (if v.load then [(.g v.g, 4)] else []) ++ [(.a v.a, 0)]
  | 1 =>
    if op = 2 then [(.flags, 2)]
    else if op = 3 then [(.g (iGd w), 4), (.a (iAi w), 0)]
    else if op = 4 then [(.a (iAi w), 0)]
    else if op = 5 then [(.a (iAi w), 0)] else if op = 6 then [(.m (iAi w), 0)] else if op = 7 then [(.l (iAi w), 0)]
    else if op = 8 then [(.a (iAi w), 2)] else if op = 9 then [(.m (iAi w), 2)] else if op = 10 then [(.l (iAi w), 2)]
    else if op ≤ 12 then [(.g (iGd w), 2)] else if op = 13 then [(.astat, 2)] else if op = 14 then [(.events, 2)] else []
  | 2 => []
  | _ =>
    if op = 1 then [(.a (iDai w), 0)]
    else if op = 5 then
      let k := 4 + (iE w + 7) / 8
      [(.g (iGd w), k), (.g (iGd w + 1), k), (.astat, k), (.a (iDai w), 0)]
    else []

/-- The registers that stage IS of a word reads. -/
def readsIS (w : Nat) : List Reg :=
  let op := iOp w
  let at_ := fun (i m : Nat) => [Reg.a i, .m m, .l i]
  match iFmt w with
  | 0 => (movesA w).flatMap fun v => at_ v.a v.m
  | 1 => if op = 3 ∨ op = 4 then at_ (iAi w) (iMi w) else if op = 11 then [.a (iAi w)] else []
  | 2 =>
    if op ≤ 2 then (if condReadsFlags (iCond w) then [.flags] else if 10 ≤ iCond w then [.events] else [])
    else if (op = 3 ∨ op = 4) ∧ iCsrc w then [.g (iCgs w)] else []
  | _ => if op = 1 ∨ op = 5 then at_ (iDai w) (iDmi w) else []

/-- What stage OP of a word reads: g registers, and what RDS gives of the bank. -/
def readsOP (w : Nat) : List Reg :=
  let op := iOp w
  match iFmt w with
  | 0 =>
    (if op = 0 then [] else [Reg.g (iGs1 w)]) ++ (if op = 0 ∨ op = 18 ∨ op = 19 then [] else [.g (iGs2 w)]) ++
    (if op = 16 then [.g (iGd w)] else []) ++ ((movesA w).filter fun v => !v.load).map fun v => .g v.g
  | 1 => if op = 1 ∨ op = 2 ∨ op = 4 ∨ op = 8 ∨ op = 9 ∨ op = 10 then [.g (iGs1 w)]
    else if op = 12 then (match iImm w with | 0 => [.astat] | 1 => [.events] | _ => []) else []
  | 2 => []
  | _ =>
    if op = 0 then [0, 1, 2, 3].map fun i => .g (iGs1 w + i)
    else if op = 2 then [.g (iGs1 w), .g (iGs2 w)] else if op = 5 then [.g (iGs1 w)] else []

/-- A register whose readers stand in stage OP sees a write from k = w − 1 on, one read in stage IS from k = w + 1 on. -/
def shadowOP (w k : Nat) : Bool := decide (k + 1 < w)
def shadowIS (w k : Nat) : Bool := decide (k < w + 1)

/-- R131, R136: `k` cycles after the word `w` issued, the word `v` reads or writes a register in the shadow of a write of `w`. A g
register, the arithmetic status and the event flags are judged by stage OP where `v` writes them, and of two merges into the arithmetic
status neither writes in the shadow of the other (notes/assumptions/186.md). -/
def regShadow (w v k : Nat) : Bool :=
  (regWrites w).any fun x =>
    ((readsIS v).contains x.1 && shadowIS x.2 k) || ((readsOP v).contains x.1 && shadowOP x.2 k) ||
    ((regWrites v).any fun y => y.1 == x.1 && match x.1 with
      | .g _ => shadowOP x.2 k
      | .events => shadowOP x.2 k
      | .astat => shadowOP x.2 k && y.2 == 2
      | _ => shadowIS x.2 k)

/-- The stores that a word reads or writes: the core store (X, Y) and the coefficient store (C). -/
def memMoves (w : Nat) : List (Bool × Bool) :=
  match iFmt w with
  | 0 => (movesA w).map fun v => (v.load, v.bus == 2)
  | 1 => if iOp w = 3 then [(true, iBus w == 2)] else if iOp w = 4 then [(false, iBus w == 2)] else []
  | 2 => []
  | _ => if iOp w = 1 ∨ (iOp w = 5 ∧ iE w ≠ 0) then [(true, false)] else []

/-- R133, R136: a load of `v`, `k` cycles after `w` issued, in the shadow of a store of `w` to the same store. -/
def memShadow (w v k : Nat) : Bool :=
  decide (k < 3) && (memMoves w).any fun x => !x.1 && (memMoves v).any fun y => y.1 && x.2 == y.2

/-- R136: no use in a shadow of the word `w` at `at_`, `d` cycles on, with a boundary passed (`x`) between the two. -/
def Code.crossOk (k : Code) (apart : Nat → Nat → Bool) (at_ w : Nat) : Nat → Place → Nat → Bool → Bool
  | 0, _, _, _ => true
  | f + 1, p, d, x =>
    match k.word p.pc with
    | none => true
    | some v =>
      let x := x || p.boundary
      !(x && (regShadow w v d || (memShadow w v d && !apart at_ p.pc))) &&
        (p.succ (k.mostAt p.pc) v).all fun y => k.crossOk apart at_ w f y.1 (d + y.2) x

/-- R153: after a GATE of E scores nothing reads on X or Y while GATE does. -/
def Code.portsOk (k : Code) (e : Nat) : Nat → Place → Nat → Bool
  | 0, _, _ => true
  | f + 1, p, d =>
    match k.word p.pc with
    | none => true
    | some v =>
      !(decide (d < (e + 7) / 8) && (memMoves v).any fun y => y.1 && !y.2) &&
        (p.succ (k.mostAt p.pc) v).all fun y => k.portsOk e f y.1 (d + y.2)

/-- R136, R140, R153: what the paths from a place must keep. -/
def Code.placeOk (k : Code) (apart : Nat → Nat → Bool) (p : Place) : Bool :=
  k.stackOk p && match k.word p.pc with
    | none => true
    | some w =>
      (p.succ (k.mostAt p.pc) w).all fun y =>
        k.crossOk apart p.pc w 8 y.1 y.2 false && (!isGate w || k.portsOk (iE w) 4 y.1 y.2)

/-- R136, R140, R142, R143, R153: the refusals with SEG_CONTENT that the code shows. `apart` tells which store and load the Keeper
proves distinct. -/
def codeLegal (apart : Nat → Nat → Bool) (most : Nat → Nat) (base entry : Nat) (ws : List Nat) : Bool :=
  let k : Code := ⟨base, ws, most⟩
  slotsOk ws && bodiesOk ws && (k.reach (2 ^ 40) [{ pc := entry }] []).all (k.placeOk apart)

/-! ### What a program names -/

/-- The logical dies of the ARRIVE instructions of a program (R151); 0xFF is the program's own. -/
def arriveDies (ws : List Nat) : List Nat :=
  (ws.filter fun w => iFmt w == 3 && iOp w == 4 && iDie w != 255).map iDie

/-- The descriptors of the SIS instructions of a program (R151). -/
def sisNames (ws : List Nat) : List Nat := (ws.filter fun w => iFmt w == 3 && iOp w == 3).map iImm16

end Sys2Proof.Machine
end

