-- ==== Sys2Proof/Machine/Bounds.lean ====
section
/-! DEFINITION. What the Keeper computes at load of the class 0 and class 1 streams of an image: that none can be refused (R196, R200),
the transfer bound (R212, R213, R225), the rules on DRAM of item 7 of R55, the refresh debt (R270) and the activates of a row (R273). -/

namespace Sys2Proof.Machine

/-! ### The transfer bound -/

/-- R212: the requests of a stream: first element and number of elements. -/
def dRuns (d : List Word) : Nat → Nat → List (Nat × Nat)
  | 0, _ => []
  | f + 1, i =>
    if dTotal d ≤ i then []
    else
      let n := max 1 (dRunLen d i)
      (i, n) :: dRuns d f (i + n)

def dRequests (d : List Word) : List (Nat × Nat) := dRuns d (dTotal d) 0

/-- Beats of 64 bytes. -/
def beatsOf (n : Nat) : Nat := (n + 63) / 64

/-- The DRAM requests of a stream: the address and the bytes of each. -/
def dDram (d : List Word) : List (Nat × Nat) :=
  (dRequests d).map fun r =>
    ((if dSSP d = 2 then dSrc d r.1 else dDst d r.1).toNat, r.2 * dEsz d)

/-- A side of a stream lies in DRAM. -/
def inDram (d : List Word) : Bool := dTotal d != 0 && (dSSP d == 2 || dDSP d == 2)

/-- The bytes that a stream moves on a channel. -/
def State.channelBytes (s : State) (d : List Word) (ch : Nat) : Nat :=
  if inDram d then (((dDram d).filter fun r => s.channelOf r.1 == ch).map (·.2)).sum else 0

/-- R295: the response bound of a target port of fabric die `f`, 0 where no configuration has it. -/
def State.respBound (s : State) (f port : Nat) : Nat :=
  match s.portIn f port (List.range 16) with
  | some (r, d) => 8 + s.trackCycles f r (d.track % 32) (d.value + 6)
  | none => 0

/-- R213: the path latency of a stream of tile die `t`. -/
def State.pathLatency (s : State) (t : Nat) (d : List Word) : Nat :=
  let way := fun (da : Nat) => 26 * hopDist (tileDA t) da + 2
  match dFar d with
  | none => if dSSP d = 1 ∨ dDSP d = 1 then 14 else 0
  | some (sp, read) =>
    if sp = 1 then 14 + ((s.physDie (dXdie d)).map fun x => way (tileDA x)).getD 0
    else if sp = 2 then 30 + ((dDram d).map fun r => way (channelDA (s.channelOf r.1))).foldl max 0
    else
      let port := (if read then dSaddr d else dDaddr d) % 256
      8 + way (dXdie d) + ((fabricOf (dXdie d)).map fun f => s.respBound f port).getD 0

/-- R211: the waits of the die-store beats of a stream: one cycle each, and `q` for the other requesters of all of them, at most
20 each. -/
def bankWaits (d : List Word) (beats q : Nat) : Nat :=
  let n := beats * (boolNat (dSSP d == 1) + boolNat (dDSP d == 1))
  n + min (20 * n) q

/-- R213: the transfer bound of a stream, without the DRAM bound. `q` is what the Keeper adds to its die-store waits for other
requesters. -/
def State.transferBound (s : State) (t q : Nat) (d : List Word) : Nat :=
  let reqs := dRequests d
  let beats := (reqs.map fun r => beatsOf (r.2 * dEsz d)).sum
  let moved := if inDram d then ((List.range 12).map fun ch => (s.channelBytes d ch + 47) / 48).foldl max beats else beats
  let lat := s.pathLatency t d
  10 + lat + max (max reqs.length moved) ((reqs.length * (lat + 4) + 63) / 64) + bankWaits d beats q + 2

/-! ### The streams of classes 0 and 1 -/

/-- A class 0 or class 1 stream of an image: a timetable entry's, or one that a program's SIS names, with the program's segment. -/
structure Named where
  t : Nat
  c : Nat
  cls : Nat
  idx : Nat
  entry : Option TtEntry
  seg : Nat

def State.namedStreams (s : State) (payloads : List (List Byte)) : List Named :=
  (s.pacer.entries.flatMap fun e =>
    if e.kind = 3 ∧ e.cls < 2 then (s.entryCore e).toList.map fun tc => ⟨tc.1, tc.2, e.cls, e.obj, some e, 0⟩ else []) ++
  (s.keeper.segs.zip payloads).zipIdx.flatMap fun x =>
    let g := x.1.1
    let cls := (progOf x.1.2).cls
    if g.typ = 3 ∧ cls < 2 then
      (s.physCore g.die g.unit).toList.flatMap fun tc =>
        (sisNames ((records 8 (x.1.2.drop 64)).map leNat)).map fun i => ⟨tc.1, tc.2, cls, i, none, x.2⟩
    else []

def State.namedDesc (s : State) (x : Named) : Option (List Word) := s.descriptor x.t x.c x.cls x.idx

/-- R55 item 7: a stream of class 0 names no DRAM, and one of class 1 does so as a STREAM entry only. -/
def dramAllowed (x : Named) (d : List Word) : Bool := !inDram d || (x.cls == 1 && x.entry.isSome)

/-- R213, R225: a STREAM entry's SPAN covers the transfer bound, with the DRAM bound added once. -/
def State.spanCovers (s : State) (x : Named) (d : List Word) : Bool :=
  match x.entry with
  | none => true
  | some e => dTotal d == 0 ||
    decide (s.transferBound x.t (Config.bankDemand s.keeper.digests (2048 * coreKey x.t x.c + x.idx)) d +
      (if inDram d then 3500 else 0) ≤ e.span)

/-- The first refusal that a named stream meets: R196 and R200 with SEG_CONTENT, items 2, 7 and 9 of R55 with their codes. -/
def State.namedErr (s : State) (x : Named) : Option Nat :=
  match s.namedDesc x with
  | none => some 0x15
  | some d =>
    let places := s.streamPlaces x.t x.c x.cls d
    firstErr [(s.streamOk x.t x.c x.cls true d || !places, 0x15), (s.spanCovers x d, 0x45), (dramAllowed x d, 0x4A), (places, 0x4C)]

/-! ### The refresh debt (R270) and the activates of a row (R273) -/

/-- The class 1 STREAM entries that name DRAM, with their descriptors. -/
def State.dramStreams (s : State) (payloads : List (List Byte)) : List (TtEntry × List Word) :=
  (s.namedStreams payloads).filterMap fun x =>
    match x.entry, s.namedDesc x with
    | some e, some d => if inDram d then some (e, d) else none
    | _, _ => none

/-- Cycle `n` of the hyperperiod lies in the window of one of the entries. -/
def State.inWindowAt (s : State) (l : List TtEntry) (n : Nat) : Bool :=
  l.any fun e => e.fires (n / s.period) && decide (e.at_ ≤ n % s.period) && decide (n % s.period < e.at_ + e.span)

/-- R270: the debt over `n` cycles from cycle `i` on, with the cycles outside the windows so far: it never reaches 4 inside a window.
975 ns are 1,365 cycles and 410 ns are 574 (notes/assumptions/199.md). -/
def debtHolds (inside : Nat → Bool) : Nat → Nat → Nat → Nat → Bool
  | 0, _, _, _ => true
  | n + 1, i, debt, out =>
    let now := inside i
    let out' := if now then out else out + 1
    let debt := debt - (out' / 574 - out / 574) + ((i + 1) / 1365 - i / 1365)
    !(now && decide (4 ≤ debt)) && debtHolds inside n (i + 1) debt out'

def State.debtOk (s : State) (payloads : List (List Byte)) : Bool :=
  let l := s.dramStreams payloads
  let hyper := 2 ^ ((s.pacer.entries.map (·.div)).foldl max 0) * s.period
  (List.range 12).all fun ch =>
    let on := (l.filter fun x => s.channelBytes x.2 ch != 0).map (·.1)
    on.isEmpty || debtHolds (s.inWindowAt on) hyper 0 0 0

/-- R273: the activates that class 1 streams make to a row in 32 ms, bounded by one for each burst of a request (notes/assumptions/199.md), stay
within NRT / 4. -/
def State.activatesOk (s : State) (payloads : List (List Byte)) : Bool :=
  let tick := s.period
  let acts := (s.dramStreams payloads).flatMap fun x =>
    let times := 44800000 / (tick * 2 ^ x.1.div) + 1
    (dDram x.2).flatMap fun r =>
      let ch := s.channelOf r.1
      let l := s.localAddr r.1
      (List.range ((l % 64 + r.2 + 63) / 64)).map fun i => (ch, s.rowKey ch (l / 64 * 64 + 64 * i), times)
  acts.all fun a =>
    decide (4 * ((acts.filter fun b => b.1 == a.1 && b.2.1 == a.2.1).map (·.2.2)).sum ≤ s.reg (channelDA a.1) (pgMch a.1) 0x050 % 2 ^ 16)

/-- R55 item 7: the deadline of a class 1 DRAM stream precedes the AT of every class 0 or class 1 START of a common tick whose program can
read a byte of the stream's destination, as the Keeper finds from the program's accesses; a START of a later tick always follows it. -/
def State.consumersOk (s : State) (payloads : List (List Byte)) : Bool :=
  (s.dramStreams payloads).all fun x => s.pacer.entries.all fun e =>
    e.kind != 1 || e.cls == 2 || e.phase % 2 ^ min e.div x.1.div != x.1.phase % 2 ^ min e.div x.1.div ||
    !Config.consumes s.keeper.digests [x.1.die, x.1.unit, x.1.obj, e.die, e.unit, e.obj] || decide (x.1.at_ + x.1.span < e.at_)

/-- R55 items 2, 7 and 9, R196 and R200 over the streams of the image: the lowest code, with the segment. -/
def State.streamsErr (s : State) (payloads : List (List Byte)) : Option (Nat × Nat) :=
  let l := (s.namedStreams payloads).filterMap fun x => (s.namedErr x).map fun c => (c, x.seg)
  let l := if s.debtOk payloads && s.activatesOk payloads && s.consumersOk payloads then l else l ++ [(0x4A, 0)]
  l.foldl (fun m x => match m with | none => some x | some y => if x.1 < y.1 then some x else some y) none

end Sys2Proof.Machine
end

