-- ==== Sys2Proof/Machine/NetBounds.lean ====
section
/-! DEFINITION. The times that the Keeper's verification bounds across dies (R36, R44, R56, R225, R233, R243, R247, R310, R384): how long a
packet takes, when a tally has its arrivals, and whether barriers, gated streams and verdicts meet their deadlines under every binding
of R21 and every failure of R243. -/

namespace Sys2Proof.Machine

/-! ### Routes and bindings -/

/-- The route that a valid entry of a table gives a packet with `bad` as failed element: hops and directions. -/
def State.routeUnder (s : State) (bad : Option Nat) (src idx : Nat) : Option (Nat × Nat) :=
  (State.routeTo { s with net := { s.net with failedLink := bad } } src (idx / 256) (idx % 256)).map fun r => (r.1, r.2.1)

/-- R21: the current binding, and every one with a die in service replaced by one in reserve. -/
def State.bindings (s : State) : List (List (Option Nat)) :=
  let now := (List.range 56).map s.physDie
  now :: (List.range 56).flatMap fun n =>
    if (now.getD n none).isNone then [] else (allTiles.filter fun r => s.place.dieState r == 0).map fun r => now.set n (some r)

/-- A case of the verification: the die of each logical die, and the failed element. -/
structure NetCase where
  dies : List (Option Nat)
  bad : Option Nat

/-- R21, R243, R244: the cases; an element that has failed is the one in each. -/
def State.netCases (s : State) : List NetCase :=
  s.bindings.flatMap fun b => failures.map fun bad => ⟨b, s.net.failedLink.orElse fun _ => bad⟩

def NetCase.da (k : NetCase) (n : Nat) : Option Nat := (k.dies.getD n none).map tileDA

/-! ### Packets -/

/-- R36, R56, R233, R247: cycles from the hand-off of a class 0 or class 1 packet at its NI to its delivery `h` hops on: 8 of traversal and
5 of blocking a hop, or 6 of the loop-back; `q` for the queueing behind its own class; and the margin of 2. -/
def packetBound (h q : Nat) : Nat := (if h = 0 then 6 else 13 * h) + q + 2

/-- The bound of a packet of a die's port to a die. With no route it is out of reach. The queueing is what the Keeper computes from the
program (R56): its own class's packets, credit stalls, and for class 1 the class 0 and R0 packets that can reach the same outputs. -/
def State.packetTime (s : State) (k : NetCase) (cls src port dst : Nat) : Option Nat :=
  (s.routeUnder k.bad src (port * 256 + dst)).map fun r =>
    packetBound r.1 (Config.queueing s.keeper.digests (k.dies, k.bad) [cls, src, port, dst])

/-! ### Arrivals at a tally -/

/-- Entry `x` fires in every tick in which entry `e` fires. -/
def firesWith (x e : TtEntry) : Bool := decide (x.div ≤ e.div) && e.phase % 2 ^ x.div == x.phase

/-- R310, R213: the cycle by which an input record of `n` bytes at `addr` is delivered `h` hops away, its writes begun at cycle 4; `q` as
for `bankWaits`. -/
def inputBound (h addr n q : Nat) : Nat :=
  let blocks := cutBlocks (blocksOf addr n) addr (List.replicate n 0)
  let beats := (blocks.map fun b => beatsOf b.2.length).sum
  let lat := 14 + 26 * h + 2
  4 + 10 + lat + max (max blocks.length beats) ((blocks.length * (lat + 4) + 63) / 64) + (beats + min (20 * beats) q) + 2

/-- The arrivals at tally `tally` of logical die `n` that every tick of entry `e` has by a cycle, in a case of the verification: of class 0
and class 1 STREAM entries, of input groups, and of the programs of class 0 and class 1 START entries, of which the Keeper finds how many
arrivals they surely have posted so many cycles after their AT (notes/assumptions/9.md). `gate` is the cycle by which a tally of a
logical die has reached a count. -/
def State.arrivalsBy (s : State) (k : NetCase) (gate : Nat → Nat → Nat → Option Nat) (e : TtEntry) (n tally by_ : Nat) : Nat :=
  match k.da n with
  | none => 0
  | some there =>
    let l := s.pacer.entries.filter fun x => decide (x.cls < 2) && firesWith x e
    let stream := fun (x : TtEntry) => Option.getD (dflt := 0) <|
      (s.entryCore x).bind fun tc => (s.descriptor tc.1 tc.2 x.cls x.obj).bind fun d => (k.da x.die).bind fun da =>
        if x.kind = 3 ∧ dTen d ∧ dTally d = tally ∧ (if dTdie d = 0xFF then x.die else dTdie d) = n then
          (if dGen d then gate x.die (dGtally d) (dGcount d) else some x.at_).bind fun start =>
          (s.packetTime k x.cls da tc.2 there).map fun net =>
            let q := Config.bankDemand s.keeper.digests (2048 * coreKey tc.1 tc.2 + x.obj)
            boolNat (decide (max start x.at_ + s.transferBound tc.1 q d + (if inDram d then 3500 else 0) + net ≤ by_))
        else none
    let sample := fun (x : TtEntry) =>
      match if x.kind = 4 then edgeOf x.die else none with
      | none => 0
      | some ed =>
        let d := s.grp ed x.obj
        let q := Config.bankDemand s.keeper.digests (2 ^ 24 + 16 * ed + x.obj)
        let time := (s.packetTime k x.cls x.die 0 there).map fun net =>
          x.at_ + inputBound (hopDist x.die there) d.addr (s.inputRecord ed x.obj).length q + net
        if d.tally = tally ∧ (d.dieA = n ∨ d.dieB = n) then boolNat (time.any fun c => decide (c ≤ by_)) else 0
    let start := fun (x : TtEntry) => Option.getD (dflt := 0) <|
      (s.entryCore x).bind fun tc => (k.da x.die).bind fun da => (s.packetTime k x.cls da tc.2 there).map fun net =>
        if x.kind = 1 then Config.programArrivals s.keeper.digests [x.die, x.unit, x.obj, n, tally] (by_ - x.at_ - net) else 0
    (l.map fun x => stream x + sample x + start x).sum

/-- R210, R225: the first cycle by which a tally has surely reached a count in every tick of `e`; `f` bounds the chain of gates. -/
def State.gateTime (s : State) (k : NetCase) (e : TtEntry) : Nat → Nat → Nat → Nat → Option Nat
  | _, _, _, 0 => some 0
  | 0, _, _, _ => none
  | f + 1, n, tally, count + 1 =>
    (List.range s.period).find? fun c => decide (count + 1 ≤ s.arrivalsBy k (s.gateTime k e f) e n tally c)

/-- The gates of a chain of streams are at most this many. -/
def gateDepth : Nat := 16

/-! ### What must be met -/

/-- R44: the arrivals that a class 0 or class 1 BARRIER expects are there by its deadline. -/
def State.barrierMet (s : State) (k : NetCase) (e : TtEntry) : Bool :=
  e.kind != 2 || e.cls == 2 || decide (e.arg ≤ s.arrivalsBy k (s.gateTime k e gateDepth) e e.die e.obj (e.at_ + e.span))

/-- R225: a gated class 0 or class 1 STREAM entry is complete by its deadline, its gate opened by its producers. -/
def State.gatedMet (s : State) (k : NetCase) (e : TtEntry) : Bool :=
  e.kind != 3 || e.cls == 2 ||
  match (s.entryCore e).bind fun tc => (s.descriptor tc.1 tc.2 e.cls e.obj).map fun d => (tc, d) with
  | none => true
  | some (tc, d) => !dGen d ||
    (s.gateTime k e gateDepth e.die (dGtally d) (dGcount d)).any fun c =>
      let q := Config.bankDemand s.keeper.digests (2048 * coreKey tc.1 tc.2 + e.obj)
      decide (max c e.at_ + (if dTotal d = 0 then 0 else s.transferBound tc.1 q d + if inDram d then 3500 else 0) ≤ e.at_ + e.span)

/-- R53, R233, R384: the verdicts of a CLEAR entry, handed over by its deadline, reach the dies whose releases it gates before the edge. -/
def State.verdictsMet (s : State) (k : NetCase) (e : TtEntry) : Bool :=
  e.kind != 5 || (s.pacer.entries.filter fun r => r.kind == 6 && r.arg == e.obj).all fun r =>
    [(e.die, e.unit), (bits e.arg 7 0, bits e.arg 11 8)].all fun x =>
      match s.physCore x.1 x.2, k.da x.1 with
      | some tc, some da => (s.packetTime k 0 da tc.2 r.die).any fun net => decide (e.at_ + e.span + net ≤ s.period)
      | _, _ => true

/-- R384: the digest messages of a CLEAR entry arrive 6 + 13h cycles after its AT at the latest; its SPAN has room for the longer route of
a failure. -/
def State.digestsMet (s : State) (k : NetCase) (e : TtEntry) : Bool :=
  e.kind != 5 ||
  match s.physCore e.die e.unit, s.physCore (bits e.arg 7 0) (bits e.arg 11 8), k.da e.die, k.da (bits e.arg 7 0) with
  | some x, some y, some a, some b =>
    let n := (s.stateRange x.1 x.2 false).2
    [(a, x.2, b), (b, y.2, a)].all fun z => (s.routeUnder k.bad z.1 (z.2.1 * 256 + z.2.2)).any fun r =>
      decide (33 + 13 * r.1 + (min n (Config.dirtyGranules s.keeper.digests e.obj) + 3) / 4 ≤ e.span)
  | _, _, _, _ => true

/-- R55 item 6, R21, R36, R243: every bound across dies holds in every case, and what the Keeper computes beyond them (`networkUnder`:
queueing, credits, the Tellers' floors of R215). -/
def State.networkHolds (s : State) : Bool :=
  s.bindings.all s.networkUnder && s.netCases.all fun k =>
    s.pacer.entries.all fun e => s.barrierMet k e && s.gatedMet k e && s.verdictsMet k e && s.digestsMet k e

/-- The case of the current binding with no further failure. -/
def State.nowCase (s : State) : NetCase := ⟨(List.range 56).map s.physDie, s.net.failedLink⟩

end Sys2Proof.Machine
end

