-- ==== Sys2Proof/Machine/Verify.lean ====
section
/-! DEFINITION. What the Keeper checks at the end of a load (R55, R366 step 4): the rules that the loaded state shows. What it
proves beyond them is `Config.loadProof` (notes/assumptions/9.md). -/

namespace Sys2Proof.Machine

/-! ### Routes (R241, R243) -/

/-- The routers of a route, without its start. -/
def routeDAs : Nat → Nat → Nat → List Nat
  | 0, _, _ => []
  | n + 1, da, route =>
    match linkAt da (route % 4) with
    | none => []
    | some _ => neighbour da (route % 4) :: routeDAs n (neighbour da (route % 4)) (route / 4)

/-- A route of `n` hops that stays on the mesh and ends at a DA. -/
def routeEnds (src n route dst : Nat) : Bool :=
  let l := routeDAs n src route
  l.length == n && l.getLastD src == dst

def disjoint (a b : List Nat) : Bool := a.all fun x => !b.contains x

/-- R241, R243: a supplied entry: reserved bits, hops, ends, and a route B that shares nothing with route A between. -/
def routeOk (src idx : Nat) (w0 w1 w2 w3 : Nat) : Bool :=
  let da := idx % 256
  let ha := bits w0 13 9
  let hb := bits w0 18 14
  let ra := w1 + bits w2 15 0 * 2 ^ 32
  let rb := bits w2 31 16 + w3 * 2 ^ 16
  bits w0 7 0 == da && bits w0 31 19 == 0 && decide (ha ≤ 24) && decide (hb ≤ 24) &&
  (!bit w0 8 || ((dieKind da).isSome && routeEnds src ha ra da && routeEnds src hb rb da && (da != src || ha + hb == 0) &&
    (ha == 0 || (disjoint (routeLinks ha src ra) (routeLinks hb src rb) &&
      disjoint ((routeDAs ha src ra).dropLast) ((routeDAs hb src rb).dropLast)))))

/-- The sides that a route leaves by, in order. -/
def routeSides : Nat → Nat → Nat → List Nat
  | 0, _, _ => []
  | n + 1, da, route => (4 * da + route % 4) :: routeSides n (neighbour da (route % 4)) (route / 4)

/-- The dependencies of the queues that routes make: each side on the next of a route. -/
def routeDeps (l : List Nat) : List (Nat × Nat) := l.zip (l.drop 1)

/-- Dependencies of which each follows another are left after `n` rounds. -/
def peel : Nat → List (Nat × Nat) → List (Nat × Nat)
  | 0, l => l
  | n + 1, l => peel n (l.filter fun x => l.any fun y => y.2 == x.1)

/-- R243: the routes in use: every route A, and those with route B for the entries that a failure affects, make no cycle. -/
def State.acyclic (s : State) : Bool :=
  let used := s.net.routes.map (·.1)
  failures.all fun bad =>
    (peel 400 (used.flatMap fun k => match s.routeUnder bad (k / 4096) (k % 4096) with
      | some r => routeDeps (routeSides r.1 (k / 4096) r.2)
      | none => [])).isEmpty

/-! ### Timetable, item 1 of R55 -/

/-- R47: the group that a SAMPLE or RELEASE names is in use. -/
def State.groupUsed (s : State) (e : TtEntry) (out : Bool) : Bool :=
  match edgeOf e.die with
  | some x => (s.grp x (e.obj + if out then 16 else 0)).en
  | none =>
    match fabricOf e.die with
    | some f => (s.groupOwner f out e.obj).isSome
    | none => false

/-- The header of the program that a START names, none where the core is unbound or the program is absent. -/
def State.entryProg (s : State) (e : TtEntry) : Option ProgHdr :=
  (s.entryCore e).bind fun tc => tget? (s.core tc.1 tc.2).programs e.obj

/-- R47: only class 2 outputs may be released ungated: the descriptor of an edge die's group says class 2. -/
def State.ungatedOk (s : State) (e : TtEntry) : Bool :=
  match edgeOf e.die with
  | some x => (s.grp x (e.obj + 16)).cls == 2
  | none => true

/-- R3, R43, R47, R208: the target and the fields that a kind allows. A START whose CLASS is not its program's is refused with
the fields that its kind does not allow (notes/assumptions/184.md). Bits [15:12] of a CLEAR's ARG are taken as reserved
(notes/assumptions/210.md); of a SAMPLE, RELEASE or SIGNAL only OBJ names the group or port, and UNIT may hold anything
(notes/assumptions/211.md). -/
def State.entryFields (s : State) (e : TtEntry) : Bool :=
  let w1 := e.w1.toNat / 2 ^ 16
  let w2 := bits e.w2.toNat 15 13
  let w3 := e.w3.toNat / 2 ^ 16
  let core := !e.dakind && decide (e.die < 56) && decide (e.unit < 8)
  let group := e.dakind && decide (e.obj < 16)
  w1 == 0 && w2 == 0 && w3 == 0 && e.cls != 3 &&
  match e.kind with
  | 0 => e.obj == 0 && e.arg == 0
  | 1 => core && e.arg == 0 && (s.entryProg e).all fun p => p.cls == e.cls
  | 2 => core && decide (e.obj < (if e.cls < 2 then 768 else 1024))
  | 3 => core && e.arg == 0 && (e.cls == 2 || decide (e.obj < 1024))
  | 4 => group && e.arg == 0 && s.groupUsed e false && (e.cls == 2 || e.at_ == 0)
  | 5 => core && decide (bits e.arg 7 0 < 56) && decide (bits e.arg 15 8 < 8)
  | 6 => group && s.groupUsed e true && (e.arg != 0xFFFF || e.cls != 2 || s.ungatedOk e)
  | 7 => e.dakind && (fabricOf e.die).isSome && decide (e.obj < 64)
  | _ => false

/-- R43, R44, R204: the SPAN that a kind allows; a SPAN of 0 where it completes at AT. A descriptor of a zero count without a gate
does so, and a BARRIER of class 0 or class 1 whose arrivals are there by then. -/
def State.entrySpan (s : State) (e : TtEntry) : Bool :=
  match e.kind with
  | 1 => e.span != 0 || (s.entryProg e).all fun p => p.codeLen == 0
  | 3 => e.span != 0 || (s.entryCore e).all fun tc =>
      (s.descriptor tc.1 tc.2 e.cls e.obj).any fun d => dTotal d == 0 && !dGen d
  | 2 => e.span != 0 || s.barrierMet s.nowCase e
  | 5 => true
  | _ => e.span == 0

/-- R45: at most 4 entries share an AT. -/
def atCrowded (l : List TtEntry) (e : TtEntry) : Bool := decide (4 < (l.filter fun x => x.at_ == e.at_).length)

/-- The first of the four codes of item 1 that an entry fails; `prev` is the AT before it. -/
def State.entryErr (s : State) (l : List TtEntry) (prev : Nat) (e : TtEntry) : Option Nat :=
  firstErr [(s.entryFields e, 0x40), (decide (prev ≤ e.at_) && decide (e.at_ < s.period), 0x41), (!atCrowded l e, 0x42),
    (decide (e.phase < 2 ^ e.div), 0x43), (s.entrySpan e, 0x44)]

/-! ### Items 2, 3, 5, 8, 10 and 11 of R55 -/

/-- Entry `b` fires `d` ticks after some tick in which entry `a` fires. -/
def meetAfter (a b : TtEntry) (d : Nat) : Bool :=
  (a.phase + d) % 2 ^ min a.div b.div == b.phase % 2 ^ min a.div b.div

/-- Two entries fire in a common tick. -/
def meet (a b : TtEntry) : Bool := meetAfter a b 0

/-- Two entries name the same logical core. -/
def TtEntry.sameCore (a b : TtEntry) : Bool := a.die == b.die && a.unit == b.unit

/-- A START of a program that is not empty. -/
def State.realStart (s : State) (e : TtEntry) : Bool := e.kind == 1 && (s.entryProg e).all fun p => p.codeLen != 0

/-- The blocking table, R145: a class 0 or class 1 START waits for the boundary of a program or task of a lower class, where its
core can run one. -/
def State.preemption (s : State) (l : List TtEntry) (e : TtEntry) : Nat :=
  let lower := l.any fun x => s.realStart x && x.sameCore e && decide (e.cls < x.cls)
  let tasks := (s.entryCore e).any fun tc => s.ringSize tc.1 tc.2 != 0
  if lower || tasks then 520 else 0

/-- The segment that holds the program of a START. -/
def State.entrySeg (s : State) (payloads : List (List Byte)) (e : TtEntry) : Option Nat :=
  (s.keeper.segs.zip payloads).zipIdx.findSome? fun x =>
    let g := x.1.1
    if g.typ = 3 ∧ g.die = e.die ∧ g.unit = e.unit ∧ word32At x.1.2 0 % 2 ^ 8 = e.obj then some x.2 else none

/-- The worst-case execution time of the program of a START, as the Keeper computes it from the code (R50, R360). -/
def State.entryWcet (s : State) (payloads : List (List Byte)) (e : TtEntry) : Nat :=
  ((s.entrySeg payloads e).map fun i => (Config.codeBound s.keeper.digests i).wcet).getD 0

/-- R50: what class 0 programs take of a class 1 START: each whose window meets it, with the two bank switches. -/
def State.guardBlocking (s : State) (wcet : TtEntry → Nat) (l : List TtEntry) (e : TtEntry) : Nat :=
  if e.cls ≠ 1 then 0
  else ((l.filter fun x => s.realStart x && x.cls == 0 && x.sameCore e && meet x e &&
      decide (x.at_ < e.at_ + e.span) && decide (e.at_ < x.at_ + x.span)).map fun x => wcet x + 8).sum

/-- Item 2: the deadline, the execution time of a START with every blocking that it can suffer, and the arrivals that a BARRIER and the
gate of a STREAM await (R44, R225). -/
def State.deadlineOk (s : State) (wcet : TtEntry → Nat) (l : List TtEntry) (e : TtEntry) : Bool :=
  e.cls == 2 || e.kind == 5 || e.kind == 6 ||
  (decide (e.at_ + e.span ≤ s.period - s.clearLen) && s.barrierMet s.nowCase e && s.gatedMet s.nowCase e &&
    (!s.realStart e || decide (wcet e + s.preemption l e + s.guardBlocking wcet l e ≤ e.span)))

/-- Item 3, R51: a START of the same class and core falls into the window of an entry: a later one of its tick, or one of a later
tick that the window reaches. -/
def State.overlaps (s : State) (l : List TtEntry) (e : TtEntry) (r : List TtEntry) : Bool :=
  let falls := fun (d : Nat) (x : TtEntry) =>
    s.realStart x && x.cls == e.cls && x.sameCore e && meetAfter e x d && decide (x.at_ + d * s.period < e.at_ + e.span)
  s.realStart e && (r.any (falls 0) || (List.range 6).any fun d => l.any (falls (d + 1)))

/-- Item 5: cycles that class 0 and class 1 START windows of a core cover in a tick, each counted once; the entries are in the order of
AT. -/
def coveredCycles (l : List TtEntry) (die unit tick : Nat) : Nat :=
  ((l.filter fun e => e.kind == 1 && decide (e.cls < 2) && e.die == die && e.unit == unit && e.fires tick).foldl
    (fun x e => (x.1 + (e.at_ + e.span - max e.at_ x.2), max x.2 (e.at_ + e.span))) (0, 0)).1

def State.floorOk (s : State) (l : List TtEntry) (e : TtEntry) : Bool :=
  e.kind != 1 || ((List.range 128).all fun n =>
    decide (coveredCycles l e.die e.unit n ≤ (s.period - s.clearLen) * (64 - s.reg pacerDA pgTkc 0x04C % 64) / 64))

/-- R360: what the Keeper computes of a program exceeds a figure that its header declares: the code of the item, with the segment. -/
def State.figureErr (s : State) (payloads : List (List Byte)) : Option (Nat × Nat) :=
  (s.keeper.segs.zip payloads).zipIdx.findSome? fun x =>
    let h := progOf x.1.2
    let b := Config.codeBound s.keeper.digests x.2
    if x.1.1.typ ≠ 3 ∨ h.codeLen = 0 then none
    else (firstErr [(decide (b.wcet ≤ h.wcet), 0x45), (decide (b.span ≤ h.span), 0x47), (decide (b.netPkts ≤ h.netPkts), 0x49),
      (decide (b.dramB ≤ h.dramB), 0x4A), (decide (b.coins ≤ h.coins), 0x4B)]).map fun c => (c, x.2)

/-- R418, R419: item 8: the demand of every tick, and the rise of the profile. -/
def State.demandOk (s : State) : Bool :=
  let issue := s.budget * s.period / 1400
  let held := ceilDiv (s.staticW * s.period) 1400 + ceilDiv (s.fixedW * s.period) 1400 + 56 * s.efloor
  let q := s.quanta
  decide (s.maxDemand + held ≤ issue) &&
  (List.range 128).all fun n => (List.range q).all fun i =>
    let before := if i = 0 then s.profile (n + 127) (q - 1) else s.profile n (i - 1)
    decide (s.profile n i ≤ before + 50 * coin)

/-- R382, R384, R55 item 10: a CLEAR in the clearing phase, with its deadline by P − 256 and a SPAN that covers the clearing sequence;
its cores run double-entered programs of its group alone; a class 0 or class 1 RELEASE gated by a
group whose CLEAR it follows. -/
def State.clearingOk (s : State) (l : List TtEntry) (e : TtEntry) : Bool :=
  match e.kind with
  | 5 =>
    let a := s.physCore e.die e.unit
    let b := s.physCore (bits e.arg 7 0) (bits e.arg 11 8)
    let range := fun (x : Option (Nat × Nat)) => x.map fun tc => s.stateRange tc.1 tc.2 false
    let hops := match a, b with | some x, some y => hopDist (tileDA x.1) (tileDA y.1) | _, _ => 0
    decide (s.period - s.clearLen ≤ e.at_) && decide (e.at_ + e.span ≤ s.period - 256) && range a == range b &&
    (range a).all (fun r => decide (32 * r.2 ≤ 65536) &&
      decide (33 + 13 * hops + (min r.2 (Config.dirtyGranules s.keeper.digests e.obj) + 3) / 4 ≤ e.span)) &&
    decide ((s.keeper.layers.filter fun x => x.cgroup == e.obj).length ≤ 64) &&
    (a.toList ++ b.toList).all fun tc => (s.core tc.1 tc.2).programs.all fun p => !p.2.double || p.2.cgroup == e.obj
  | 6 => e.cls == 2 || (e.arg != 0xFFFF && l.any fun x => x.kind == 5 && x.obj == e.arg && decide (x.at_ + x.span ≤ e.at_))
  | 1 => (s.entryProg e).all fun p => !p.double || p.cgroup != 0xFFFF && (List.range 128).all fun n =>
      !e.fires n || l.any fun x => x.kind == 5 && x.obj == p.cgroup && x.fires n
  | _ => true

/-- R382: a core carries double-entered programs of one clearing group at most. -/
def State.groupsOk (s : State) : Bool :=
  s.cores.all fun x =>
    let l := (x.2.programs.filter fun p => p.2.double).map fun p => p.2.cgroup
    l.all fun g => g == l.headD g

/-- R55 item 10: a class 0 or class 1 output group of an edge die that is in use is released by a gated RELEASE. -/
def State.releasedOk (s : State) (l : List TtEntry) : Bool :=
  [0, 1, 2, 3, 4, 5].all fun e => (List.range 16).all fun g =>
    let x := s.grp e (16 + g)
    !x.en || x.cls == 2 || l.any fun r => r.kind == 6 && r.die == edgeDA e && r.obj == g && r.arg != 0xFFFF

/-- The logical dies that a fixed descriptor names (R199, R208). -/
def descDies (d : List Word) : List Nat :=
  (if dTotal d != 0 && ((dSSP d == 1 || dDSP d == 1) && dXdie d != 0xFF) then [dXdie d] else []) ++
  if dTen d && dTdie d != 0xFF then [dTdie d] else []

/-- R20: the logical dies that the loaded program names: in timetable entries, group descriptors, fixed descriptors, and the
ARRIVE instructions of its programs. -/
def State.dieNames (s : State) (payloads : List (List Byte)) : List Nat :=
  (s.pacer.entries.flatMap fun e => match e.kind with
    | 1 => [e.die] | 2 => [e.die] | 3 => [e.die] | 5 => [e.die, bits e.arg 7 0] | _ => []) ++
  ([0, 1, 2, 3, 4, 5].flatMap fun e => (List.range 16).flatMap fun g =>
    let x := s.grp e g
    if x.en then x.dieA :: (if x.dieB = 255 then [] else [x.dieB]) else []) ++
  (s.inService.flatMap fun t => (s.place.carriers t).flatMap fun ck => (List.range 1024).flatMap fun i =>
    ((s.descriptor t ck.1 0 i).map descDies).getD []) ++
  (s.keeper.segs.zip payloads).flatMap fun x => if x.1.typ = 3 then arriveDies ((records 8 (x.2.drop 64)).map leNat) else []

/-- R20: the two entries of a clearing group lie on different logical dies, and a double-entered program runs on the two cores
of its group alone, one entry on each. -/
def State.placementOk (s : State) (l : List TtEntry) (e : TtEntry) : Bool :=
  match e.kind with
  | 1 => (s.entryProg e).all fun p => !p.double || l.any fun x => x.kind == 5 && x.obj == p.cgroup &&
      ((x.die == e.die && x.unit == e.unit) || (bits x.arg 7 0 == e.die && bits x.arg 11 8 == e.unit))
  | 5 => e.die != bits e.arg 7 0
  | _ => true

/-- Item 11. -/
def State.itemEleven (s : State) (names : List Nat) : Bool :=
  (names.all fun n => (s.physDie n).isSome) && s.pacer.entries.all (s.placementOk s.pacer.entries)

/-- The first item that the loaded timetable fails, of those that this model computes. Of item 1 the entries are taken in table
order, and of one entry the codes in increasing order (notes/assumptions/185.md). -/
def State.timetableErr (s : State) (names : List Nat) (wcet : TtEntry → Nat) : Option Nat :=
  let l := s.pacer.entries
  let prevs := 0 :: l.map (·.at_)
  let first := (l.zip prevs).findSome? fun x => s.entryErr l x.2 x.1
  let tails := (List.range l.length).map fun i => l.drop (i + 1)
  first.orElse fun _ => firstErr [
    (l.all (s.deadlineOk wcet l), 0x45), ((l.zip tails).all fun x => !s.overlaps l x.1 x.2, 0x46), (l.all (s.floorOk l), 0x48),
    (s.acyclic && s.networkHolds, 0x49), (s.demandOk, 0x4B), (l.all (s.clearingOk l) && s.groupsOk && s.releasedOk l, 0x4D), (s.itemEleven names, 0x4E)]

/-! ### Registers that the image must leave in order -/

/-- R318: the carriers of an edge die: CP is an integer, even for half-period updates, and above CPHASE. -/
def State.carriersOk (s : State) (e : Nat) : Bool :=
  (List.range 4).all fun k =>
    let d := s.carDiv e k
    let n := 8 * s.period * s.carMul e k
    d == 0 || (n % d == 0 && (!s.carHalf e k || n / d % 2 == 0) &&
      decide (s.reg (edgeDA e) pgPwm (0x044 + 8 * k) % 2 ^ 24 < n / d))

/-- R309: a group descriptor in use breaks no rule of its own. -/
def State.grpOk (s : State) (e i : Nat) : Bool :=
  let w := s.grpWord e i
  let link := isLink e
  let input := decide (i < 16)
  bits (w 0) 1 0 != 3 && w 0 / 8 == 0 &&
  (if link then w 1 / 2 ^ 8 == 0 && w 2 == 0 else input || w 2 / 2 ^ 16 == 0) &&
  w 3 / 2 ^ 16 == 0 && ((input && !link) || w 3 == 0) && bits (w 4) 31 26 == 0 && bits (w 5) 31 21 == 0 &&
  w 6 == 0 && w 7 == 0 &&
  (!bit (w 0) 2 || (decide (bits (w 4) 7 0 < 56) && (decide (bits (w 4) 15 8 < 56) || bits (w 4) 15 8 == 255)))

/-- Two ranges of bytes share none. -/
def apart (a n b m : Nat) : Bool := decide (a + n ≤ b) || decide (b + m ≤ a)

/-- R188, R361: the copies of a layer's side lie outside the state range of its core and its selector inside. -/
def State.sideOk (s : State) (size die core c0 c1 sel : Nat) : Bool :=
  match s.physCore die core with
  | none => false
  | some (t, c) =>
    let (b, n) := s.stateRange t c false
    decide (c0 % 32 = 0) && decide (c1 % 32 = 0) && apart c0 size b (32 * n) && apart c1 size b (32 * n) &&
    decide (b ≤ sel) && decide (sel + 4 ≤ b + 32 * n) && decide (c0 + size ≤ 0x100000) && decide (c1 + size ≤ 0x100000)

/-- R188, R191: the sides of a layer are the two entries of the CLEAR of its clearing group. -/
def State.layerCleared (s : State) (x : Layer) : Bool :=
  s.pacer.entries.any fun e =>
    let a := (e.die, e.unit)
    let b := (bits e.arg 7 0, bits e.arg 11 8)
    e.kind == 5 && e.obj == x.cgroup &&
      ((a == (x.dieA, x.coreA) && b == (x.dieB, x.coreB)) || (a == (x.dieB, x.coreB) && b == (x.dieA, x.coreA)))

def State.layersOk (s : State) : Bool :=
  s.keeper.layers.all fun x => s.layerCleared x &&
    s.sideOk x.size x.dieA x.coreA x.copy0A x.copy1A x.selA && s.sideOk x.size x.dieB x.coreB x.copy0B x.copy1B x.selB

/-- R412: the restore image of a core fits; the task ring (R177) and the class 2 descriptor table (R196) lie in the class 2 window,
and the ring in the class 2 state range (R401); the class 2 escrow of its die lies inside the store, below the reserved area, and clear of the die's data segments. -/
def State.coreOk (s : State) (t c k : Nat) : Bool :=
  let z := fun cls => (s.window t c cls).2
  let used := (s.stateRange t c true).2
  let e := s.genAddr t k true 0
  let base := e - 2 * k * 0x40000
  let logical := (s.place.logical t).getD 56
  let tab := s.reg (tileDA t) (pgStr c) 0x040
  decide (z 0 + z 1 - 32 * (s.stateRange t c false).2 ≤ 208 * 1024) &&
  (bits tab 20 8 == 0 || s.inWindow t c 2 (4096 * bits tab 7 0) (64 * bits tab 20 8)) &&
  (s.ringSize t c == 0 || (s.inWindow t c 2 (s.ringBase t c) (32 * (1 + s.ringSize t c)) &&
    decide ((s.stateRange t c true).1 ≤ s.ringBase t c) &&
    decide (s.ringBase t c + 32 * (1 + s.ringSize t c) ≤ (s.stateRange t c true).1 + 32 * used))) &&
  (used == 0 || (decide (base + 0x400000 ≤ dieReserved) &&
    s.keeper.segs.all fun g => g.typ != 6 || g.die != logical || apart base 0x400000 g.dest g.length))

/-- The refusals with SEG_CONTENT that the registers and stores show: a timetable with a gap (R357), carriers, encoders, group
descriptors, STATIC, cores. No segment of its own applies to them. -/
def State.storesErr (s : State) : Bool :=
  ((s.keeper.segs.filter fun g => g.typ == 2).map fun g => g.length / 16).sum != s.pacer.entries.length ||
  !([0, 1, 2, 3].all s.carriersOk) ||
  !([0, 1, 2, 3].all fun e => (List.range 16).all fun n => s.encCfg e n % 2 ^ 14 == 0 || bits (s.encCfg e n) 19 14 != 0) ||
  !([0, 1, 2, 3, 4, 5].all fun e => (List.range 32).all (s.grpOk e)) ||
  decide (s.staticW < 165) || !(s.inService.all fun t => (s.place.carriers t).all fun ck => s.coreOk t ck.1 ck.2)

/-- The refusals with SEG_CONTENT at the end of a load, with the segment: the ADAPT segment where a layer breaks R188, R191 or R361. -/
def State.contentErr (s : State) : Option Nat :=
  if s.storesErr then some 0
  else if s.layersOk then none
  else some ((s.keeper.segs.findIdx? fun g => g.typ == 10).getD 0)

/-! ### Fixed use (R302, R303) -/

/-- The ports, input groups and output groups of a configuration of fabric die `f` that class 0 or class 1 timetable entries,
fixed descriptors or initiator declarations name: kind 0 initiator port, 1 target port, 4 input group, 6 output group. -/
def State.fixedNames (s : State) (f : Nat) (d : RegionDecl) : List (Nat × Nat) :=
  let da := fabricDA f
  let named := fun (kind n : Nat) => s.pacer.entries.any fun e =>
    e.dakind && e.die == da && decide (e.cls < 2) && e.kind == kind && (if kind = 7 then e.obj % 256 == n else e.obj == n)
  let streamed := fun (port : Nat) => s.keeper.streamPorts.contains (da, port)
  (d.ports.filter fun x => decide (64 ≤ x.port) && decide (x.cls < 2)).map (fun x => (0, x.port)) ++
  (d.ports.filter fun x => decide (x.port < 64) && (named 7 x.port || streamed x.port)).map (fun x => (1, x.port)) ++
  (d.inGroups.filter (named 4)).map (fun g => (4, g)) ++ (d.outGroups.filter (named 6)).map fun g => (6, g)

/-- R303: the configuration gives its region a fixed use. -/
def State.fixedUse (s : State) (f : Nat) (d : RegionDecl) : Bool := !(s.fixedNames f d).isEmpty

/-- R303: the target ports that the class 0 and class 1 streams of the image can address: DA and port. -/
def State.findStreamPorts (s : State) (payloads : List (List Byte)) : List (Nat × Nat) :=
  (s.namedStreams payloads).flatMap fun x =>
    match s.namedDesc x with
    | some w =>
      if dTotal w = 0 then []
      else (if dSSP w = 3 then [(dXdie w, dSaddr w % 256)] else []) ++ if dDSP w = 3 then [(dXdie w, dDaddr w % 256)] else []
    | none => []

/-! ### Presence (R367: MISSING) -/

/-- R478: requests that the image can send: source die and port, target die, and the target's port where it answers. -/
structure Use where
  src : Nat
  sport : Nat
  dst : Nat
  rsp : Option Nat

/-- R478: what a core whose class 2 code cannot be bounded can name: every tile die in service, memory die and fabric die. -/
def anywhere (dies : List Nat) (da c : Nat) : List Use :=
  (dies.flatMap fun d => Use.mk da c d (some 9) :: (List.range 9).map fun k => Use.mk da c d (some k)) ++
  ((List.range 6).map fun i => Use.mk da c (memoryDA i) (some 0)) ++ (List.range 24).map fun f => Use.mk da c (fabricDA f) (some 0)

/-- R478: the uses of a fixed descriptor. -/
def descUses (phys : Nat → Option Nat) (da c : Nat) (d : List Word) : List Use :=
  let store := (phys (dXdie d)).toList.map fun x => Use.mk da c x (some 9)
  let side := fun (sp : Nat) => match sp with
    | 1 => if dXdie d = 0xFF then [] else store
    | 2 => (List.range 6).map fun i => Use.mk da c (memoryDA i) (some 0)
    | 3 => [Use.mk da c (dXdie d) (some 0)]
    | _ => []
  (if dTotal d = 0 then [] else side (dSSP d) ++ side (dDSP d)) ++
  if dTen d && dTdie d != 0xFF then (phys (dTdie d)).toList.map fun x => Use.mk da c x none else []

/-- R478: the uses under a binding of logical dies; of a CLEAR entry the digest and verdict messages (R384). -/
def State.uses (s : State) (payloads : List (List Byte)) (bind : List (Option Nat)) : List Use :=
  let phys := fun n => (bind.getD n none).map tileDA
  let dies := (bind.filterMap id).map tileDA
  let ports := fun da => if dieKind da = some .tile then [0, 1, 2, 3, 4, 5, 6, 7, 8, 9] else [0]
  let host := [pcieDA, keeperDA].flatMap fun a => (List.range (if a = pcieDA then 5 else 1)).flatMap fun p =>
    allDAs.flatMap fun da => (ports da).map fun q => Use.mk a p da (some q)
  let cores := (List.range 56).flatMap fun n => (List.range 8).flatMap fun k =>
    match bind.getD n none, s.physCore n k with
    | some t, some (t0, c0) => match s.place.coreOf t k with | some c => [(n, k, tileDA t, c, t0, c0)] | none => []
    | _, _ => []
  let ofCore := fun (x : Nat × Nat × Nat × Nat × Nat × Nat) =>
    let (n, k, da, c, t0, c0) := x
    ((List.range 1024).flatMap fun i => ((s.descriptor t0 c0 0 i).map (descUses phys da c)).getD []) ++
    (if bits (s.reg (tileDA t0) (pgStr c0) 0x040) 20 8 != 0 || s.ringSize t0 c0 != 0 then anywhere dies da c else []) ++
    (s.keeper.segs.zip payloads).flatMap fun g =>
      if g.1.typ = 3 ∧ g.1.die = n ∧ g.1.unit = k then
        (arriveDies ((records 8 (g.2.drop 64)).map leNat)).flatMap fun d => (phys d).toList.map fun x => Use.mk da c x none
      else []
  let groups := [0, 1, 2, 3, 4, 5].flatMap fun e => (List.range 32).flatMap fun g =>
    let x := s.grp e g
    if x.en then [x.dieA, x.dieB].flatMap fun d => (phys d).toList.map fun y => Use.mk (edgeDA e) 0 y (some 9) else []
  let signals := (s.pacer.entries.filter fun e => e.kind == 7).map fun e => Use.mk pacerDA 0 e.die none
  let at_ := fun (n k : Nat) => (cores.find? fun x => x.1 == n && x.2.1 == k).map fun x => (x.2.2.1, x.2.2.2.1)
  let clears := (s.pacer.entries.filter fun e => e.kind == 5).flatMap fun e =>
    let a := at_ e.die e.unit
    let b := at_ (bits e.arg 7 0) (bits e.arg 11 8)
    let digests := match a, b with
      | some x, some y => [Use.mk x.1 x.2 y.1 none, Use.mk y.1 y.2 x.1 none]
      | _, _ => []
    digests ++ (a.toList ++ b.toList).flatMap fun x => (s.pacer.entries.filter fun r => r.kind == 6 && r.arg == e.obj).map fun r =>
      Use.mk x.1 x.2 r.die none
  let fabric := (List.range 24).flatMap fun f => (List.range 16).flatMap fun r =>
    ((s.region f r).decl.ports.filter fun d => decide (64 ≤ d.port)).flatMap fun d =>
      (anywhere dies (fabricDA f) (d.port - 64)).filter fun u => d.cls == 2 || dieKind u.dst != some .memory
  host ++ cores.flatMap ofCore ++ groups ++ signals ++ clears ++ fabric

/-- R478: a used route, of a request or of its response, has no valid entry. -/
def State.routeMissing (s : State) (payloads : List (List Byte)) : Bool :=
  let valid := fun (a p b : Nat) => a == b || (s.routeUnder none a (p * 256 + b)).isSome
  s.bindings.any fun bind => (s.uses payloads bind).any fun u =>
    !valid u.src u.sport u.dst || (u.rsp.any fun q => !valid u.dst q u.src)

/-- R367: a region of a fabric die that the image uses has no variant 0: a SIGNAL, or a class 0 or class 1 stream, names a target port
that no configured region holds; a SAMPLE or RELEASE names a group of a fabric die without any configured region, or a segment gives a
region other variants only. A group that no region of a configured die holds is refused under R47 (notes/assumptions/234.md). -/
def State.regionMissing (s : State) (payloads : List (List Byte)) : Bool :=
  let decls := fun (f : Nat) => ((List.range 16).filter fun r => (s.region f r).phase == .loading).map fun r => (s.region f r).decl
  let port := fun (da p : Nat) => (fabricOf da).any fun f => !((decls f).any fun d => d.ports.any fun x => x.port == p)
  s.pacer.entries.any (fun e => e.kind == 7 && port e.die (e.obj % 256)) ||
  (s.findStreamPorts payloads).any (fun x => port x.1 x.2) ||
  s.pacer.entries.any (fun e => (e.kind == 4 || e.kind == 6) && e.dakind && (fabricOf e.die).any fun f => (decls f).isEmpty) ||
  s.keeper.segs.any fun g => g.typ == 9 && g.variant != 0 &&
    !(s.keeper.segs.any fun x => x.typ == 9 && x.die == g.die && x.unit == g.unit && x.variant == 0)

/-- No TIMETABLE, a START that names an absent program, a used route without an entry, or a used fabric region without variant 0. -/
def State.missing (s : State) (payloads : List (List Byte)) : Bool :=
  !(s.keeper.segs.any fun g => g.typ == 2) || s.routeMissing payloads ||
  s.pacer.entries.any (fun e => e.kind == 1 && (s.physCore e.die e.unit).isSome && (s.entryProg e).isNone) || s.regionMissing payloads

/-- The codes that a proof of the Keeper can end with. -/
def proofCode (c : Nat) : Bool := c == 0x15 || c == 0x16 || c == 0x23 || (decide (0x45 ≤ c) && decide (c ≤ 0x4E))

/-- The lower code of two refusals under R55: the first failing item. -/
def lowerErr (a b : Option (Nat × Nat)) : Option (Nat × Nat) :=
  match a, b with
  | some x, some y => if y.1 < x.1 then some y else some x
  | some x, none => some x
  | none, b => b

/-- R366 step 4: what refuses the loaded image: the code and the segment. -/
def State.verifyErr (s : State) (payloads : List (List Byte)) : Option (Nat × Nat) :=
  if s.missing payloads then some (0x16, 0)
  else if s.contentErr.isSome then s.contentErr.map fun i => (0x15, i)
  else
    let proof := Config.loadProof payloads ((List.range 56).map s.physDie) s.net.failedLink
    lowerErr (lowerErr ((s.timetableErr (s.dieNames payloads) (s.entryWcet payloads)).map fun c => (c, 0)) (s.figureErr payloads))
      (lowerErr (s.streamsErr payloads) (proof.filter fun x => proofCode x.1))

end Sys2Proof.Machine
end

