-- ==== Sys2Proof/Machine/Load.lean ====
section
/-! DEFINITION. The load (R366 to R370): its start, its four steps, its refusal, its commit; the load of a reserve die
(R397). -/

namespace Sys2Proof.Machine

/-- A load is running: from IMG_STATE pass 1 to the end of its unwinding, and while it writes the flash. -/
def State.loadRunning (s : State) : Bool := s.boot.power == .loading || s.imgState == 8

/-- IMG_TIME: milliseconds since the load began. -/
def State.stampLoad (s : State) : State :=
  s.setReg keeperDA pgImg 0x05C ((s.boot.time - s.boot.loadStart) / 1400000 % 2 ^ 32)

/-! ### Start (R366, R393, R397, R451) -/

/-- A logical die that has been left without a die takes a reserve die, where one remains. -/
def State.bindLost (s : State) : State :=
  let s := s.keeper.lost.foldl (fun s x => match s.place.reserveFor x.2 with
    | none => s
    | some r => s.changePlace fun p => { p with state := tput p.state r 1, dieOf := tput p.dieOf x.1 (some r) }) s
  let s := s.keeper.reserveLoads.foldl (fun s x =>
    s.changePlace fun p => { p with dieOf := tput p.dieOf x.1 (some x.2) }) s
  let k := s.keeper
  s.setKeeper { k with lost := k.lost.filter (fun x => (s.physDie x.1).isNone), reserveLoads := [],
                       place := { k.place with unjoined := [] } }

/-- A load begins: the pending retirements of cores and dies, and those that aging has left for a load (R409), are applied, the Pacer's pages are reset, IMG_STATE is pass 1. -/
def State.beginLoad (s : State) (source : Bool) (addr len : Nat) (write : Bool) : State :=
  let s := if s.boot.power = .configured then s.resetDies else s
  let s := [pgTkc, pgTtb, pgMnt].foldl (fun s p => s.resetPage pacerDA p) s
  let s := (((s.pendingUnits true).foldl (fun s r => s.retireUnit r) s)).bindLost.retireAged
  let k := s.keeper
  let s := s.setKeeper { k with
    lifecycle := s.fuseLife, iek := s.fuseIek, source := source, hostAddr := addr, hostLen := len, writeFlash := write, segs := [], digests := [],
    manifestDigest := [], layers := [], proposals := [], configured := [], applying := [], granted := [] }
  let s := s.setPacer { s.pacer with entries := [], resumes := false, ties := [], mismatches := [] }
  let s := s.setMint { s.mint with limit := 0 }
  let s := s.setBoot { s.boot with power := .loading, loadStart := s.boot.time, stepStart := s.boot.time }
  let s := [0x048, 0x04C, 0x050].foldl (fun s o => s.setReg keeperDA pgImg o 0) s
  let v := s.reg keeperDA pgImg 0x040
  s.setReg keeperDA pgImg 0x040 (putBits (putBits v 3 0 1) 4 4 (boolNat source))

/-- R428: no load begins while T_J ≥ 100 °C. -/
def State.tooHot (s : State) : Bool := match hottest s.mint.temps with | some h => decide (800 ≤ h.2) | none => false

/-- RELOAD (R366, R368, R428). -/
def execReload (s : State) : Out :=
  .next <|
    if !s.keeper.started || !s.boot.idle then s
    else if s.loadRunning then s.flag keeperDA pgImg 1
    else if !s.disarmed || s.tooHot then s.flag keeperDA pgImg 2
    else s.beginLoad false 0 0 false

/-- RECOVERY_LOAD (R369): mailbox OP 0x02. The answer follows when the load, and the flash write, have ended. -/
def execRecoveryLoad (s : State) : Out :=
  s.mailboxOp 2 fun s =>
    let a := s.mbxWord 0 + 2 ^ 32 * s.mbxWord 1
    if s.loadRunning || !s.disarmed then s.mbxRespond 2 mbxBusy 0
    else if s.tooHot then (s.flag keeperDA pgImg 2).mbxRespond 2 0x01 0
    else if a % 4096 ≠ 0 ∨ 2 ≤ s.mbxWord 3 then s.mbxRespond 2 0x01 0
    else s.beginLoad true a (s.mbxWord 2) (bit (s.mbxWord 3) 0)

/-! ### Refusal (R367) -/

/-- The image is refused: IMG_ERR, REFUSED, and the unwinding begins. -/
def State.refuseImage (s : State) (code seg : Nat) : State :=
  (((s.setReg keeperDA pgImg 0x048 (code + seg * 2 ^ 8)).flag keeperDA pgImg 0).stampLoad).setImg 7

/-- The unwinding ends: the dies and the Pacer's TKC and TTB pages are reset. -/
def State.unwind (s : State) : State :=
  let s := (s.resetDies.resetPage pacerDA pgTkc).resetPage pacerDA pgTtb
  let s := s.setPacer { s.pacer with entries := [] }
  let s := s.setKeeper { s.keeper with configured := [], segs := [], digests := [], layers := [] }
  let s := (s.setBoot { s.boot with power := .refused }).setImg 6
  if s.keeper.source && s.host.mailbox == some 2 then s.mbxRespond 2 0x03 (s.reg keeperDA pgImg 0x048) else s

/-- R447: a PLL of a die other than a tile die is unusable: IMG_ERR.SEG of ANALOGUE. -/
def State.deadPll (s : State) : Option Nat :=
  allDAs.findSome? fun da =>
    if dieKind da = some .tile then none
    else ([0, 1] ++ (if (fabricOf da).isSome then [8, 9] else [])).findSome? fun i =>
      if s.keeper.unusable.contains (da, 0xD0000 + i) then some (da + i * 2 ^ 8) else none

/-! ### Pass 1 -/

/-- R356, R375: the SHA-384 of the manifest bytes that the signature signs. -/
def State.signedDigest (s : State) : List Byte := sha384 (s.manifest.take (s.manifest.length - 96))

/-- Step 1 of R366. The digest of the manifest stands from the verified signature on (R368). -/
def State.passOne (s : State) (short : Option Nat) : State :=
  match s.deadPll, s.passOneErr short with
  | some x, _ => s.refuseImage 0x24 x
  | none, some (c, i) =>
    let m := s.manifest
    let inSegs := c == 0x12 || (c == 0x03 && decide (2 ≤ short.getD 0)) || (c == 0x11 && (s.placeErr [] 0 (s.entries m)).isNone)
    let s := if (s.signedErr short).isNone then s.setKeeper { s.keeper with manifestDigest := s.signedDigest } else s
    (s.setReg keeperDA pgImg 0x04C (if inSegs then i else 0)).refuseImage c i
  | none, none =>
    let m := s.manifest
    let w := manInfo m
    let l := s.entries m
    let s := s.setKeeper { s.keeper with
      segs := l, digests := l.map (·.digest), manifestDigest := s.signedDigest, lenUnits := s.hdr 4,
      dramcap := bits w 14 12, salt := slice m 0x028 32, secver := bits w 7 0, enc := bit w 10 }
    ((s.setReg keeperDA pgImg 0x050 (bits w 11 0)).setReg keeperDA pgImg 0x04C 0).setImg 2

/-! ### Pass 2: segments by type (R357) -/

/-- A result of writing a segment: the state, and the refusal code. -/
abbrev Wrote := State × Option Nat

def content : Nat := 0x15

/-- R362: the pages that a register write names, none where it is refused. -/
def State.configTargets (s : State) (w : Nat) : Option (List (Nat × Nat)) :=
  let die := bits w 7 0
  let page := bits w 23 16
  if bit w 8 then
    if die = 0xF0 then some ((allDAs.filter fun da => (blkAt da page).isSome && !s.retired da page).map fun da => (da, page))
    else some [(die, page)]
  else
    match s.physDie die with
    | none => none
    | some t =>
      if 0x10 ≤ page ∧ page < 0xA0 then
        (s.place.coreOf t (page / 16 - 1)).bind fun c => if page / 16 - 1 < 8 then some [(tileDA t, 16 * (c + 1) + page % 16)] else none
      else some [(tileDA t, page)]

/-- The bits of a register that are RW or RWL. -/
def rwMask (fs : List Fld) : Nat :=
  (fs.filter fun f => f.acc == .rw || f.acc == .rwl).foldl (fun a f => a + (2 ^ (f.hi + 1 - f.lo) - 1) * 2 ^ f.lo) 0

/-- R362: one write to one page; the register must read back as written. -/
def State.configPage (s : State) (da page off v : Nat) : Wrote :=
  match blkAt da page with
  | none => (s, some content)
  | some b =>
    let m := rwMask (blockFields b off)
    if b = .img ∨ b = .vlt ∨ b = .ldg ∨ b = .ttb ∨ off < 0x040 ∨ off % 4 ≠ 0 ∨ m = 0 ∨ v &&& m ≠ v then (s, some content)
    else
      let s := s.regWrite da page off v true
      let s := s.setKeeper { s.keeper with
        configured := if s.keeper.configured.contains (da * 256 + page) then s.keeper.configured
                      else s.keeper.configured ++ [da * 256 + page] }
      (s, if s.regRead da page off &&& m = v then none else some content)

/-- One 16-byte register write. Its OFFSET holds whether or not a die populates the page of a broadcast. -/
def State.configWrite (s : State) (b : List Byte) : Wrote :=
  let w := fun i => word32At b (4 * i)
  if bits (w 0) 15 9 ≠ 0 ∨ bits (w 0) 31 24 ≠ 0 ∨ w 1 / 2 ^ 12 ≠ 0 ∨ w 3 ≠ 0 ∨ w 1 < 0x040 ∨ w 1 % 4 ≠ 0 then (s, some content)
  else
    match s.configTargets (w 0) with
    | none => (s, some content)
    | some l => l.foldl (fun (x : Wrote) t => match x with
      | (s, some e) => (s, some e)
      | (s, none) => s.configPage t.1 t.2 (w 1) (w 2)) (s, none)

def State.loadConfig (s : State) (p : List Byte) : Wrote :=
  if p.length % 16 ≠ 0 then (s, some content)
  else (records 16 p).foldl (fun (x : Wrote) b => match x with
    | (s, some e) => (s, some e)
    | (s, none) => s.configWrite b) (s, none)

def ttOf (b : List Byte) : TtEntry :=
  let w := fun i => BitVec.ofNat 32 (word32At b (4 * i))
  { w0 := w 0, w1 := w 1, w2 := w 2, w3 := w 3 }

/-- A list with `v` in place from index `i` on, filled up with `d`. -/
def putAt {α : Type} (d : α) (l : List α) (i : Nat) (v : List α) : List α :=
  l.take i ++ List.replicate (i - l.length) d ++ v ++ l.drop (i + v.length)

/-- Timetable entries that TIMETABLE segments before this one give are not given again. -/
def State.loadTimetable (s : State) (i : Nat) (g : SegEnt) (p : List Byte) : Wrote :=
  let n := p.length / 16
  let before := (s.keeper.segs.take i).filter fun x => x.typ == 2
  if p.length % 16 ≠ 0 ∨ 32768 < g.dest + n ∨ !(before.all fun x => apart x.dest (x.length / 16) g.dest n) then (s, some content)
  else
    let zero : TtEntry := { w0 := 0, w1 := 0, w2 := 0, w3 := 0 }
    (s.setPacer { s.pacer with entries := putAt zero s.pacer.entries g.dest ((records 16 p).map ttOf) }, none)

/-- The core that a segment names. -/
def State.segCore (s : State) (g : SegEnt) : Option (Nat × Nat) :=
  if g.dakind ∨ 8 ≤ g.unit then none else (s.physDie g.die).bind fun t => (s.place.coreOf t g.unit).map fun c => (t, c)

/-- R122, R136, R140 to R144, R153, R157, R360: the header's own rules, and those that the code must keep. -/
def progErr (s : State) (t c : Nat) (g : SegEnt) (p : List Byte) : Option Nat :=
  let dest := g.dest
  let words := (records 8 (p.drop 64)).map leNat
  let w := fun i => word32At p (4 * i)
  let n := w 7
  let e := w 1
  let most := maxCount (Config.gateOf g.digest) (Config.countBound g.digest) words
  firstErr [
    (decide (64 ≤ p.length) && p.length == 64 + 8 * n && w 0 / 2 ^ 12 == 0 && bits (w 0) 9 8 != 3 && w 1 / 2 ^ 17 == 0 &&
      w 3 / 2 ^ 16 == 0 && w 5 / 2 ^ 16 == 0 && allZero (slice p 40 24), content),
    (if n = 0 then e == 0 else decide (dest / 8 ≤ e) && decide (e < dest / 8 + n), content),
    (!(bit (w 0) 11 && w 3 == 0xFFFF) && (bits (w 0) 9 8 != 0 || w 9 == 0), content),
    (dest % 8 == 0 && decide (dest + 8 * n ≤ 0x100000) && (tget? (s.core t c).programs (bits (w 0) 7 0)).isNone, content),
    (words.all seqLegal, content),
    (codeLegal (Config.apart g.digest) most (dest / 8) e words, content),
    (decide (w 5 ≤ 512) && decide (spanMax most words ≤ w 5), 0x47),
    (!(decide (bits (w 0) 9 8 < 2) && words.any isGate) || Config.gateBounded g.digest, 0x45)]

def State.loadProgram (s : State) (g : SegEnt) (p : List Byte) : Wrote :=
  match s.segCore g with
  | none => (s, some content)
  | some (t, c) =>
    match progErr s t c g p with
    | some e => (s, some e)
    | none =>
      let s := s.writeAll .core (coreKey t c) g.dest (p.drop 64) false
      (s.updCore t c fun k => { k with programs := tput k.programs (word32At p 0 % 256) (progOf p) }, none)

/-- A segment whose payload is written to a store of a core as it is. -/
def State.loadStore (s : State) (g : SegEnt) (sp : Sp) (addr limit : Nat) (ok : Bool) (p : List Byte) : Wrote :=
  match s.segCore g with
  | none => (s, some content)
  | some (t, c) => if ok && decide (addr + p.length ≤ limit) then (s.writeAll sp (coreKey t c) addr p false, none) else (s, some content)

/-- DIE_DATA: below the reserved area (R412). -/
def State.loadDie (s : State) (g : SegEnt) (p : List Byte) : Wrote :=
  if g.dakind ∨ g.unit ≠ 0 ∨ g.dest % 32 ≠ 0 ∨ dieReserved < g.dest + p.length then (s, some content)
  else
    match s.physDie g.die with
    | none => (s, some content)
    | some t => (s.writeAll .die t g.dest p false, none)

/-- ROUTES (R241). -/
def State.loadRoutes (s : State) (g : SegEnt) (p : List Byte) : Wrote :=
  let n := p.length / 16
  if !g.dakind ∨ (dieKind g.die).isNone ∨ p.length % 16 ≠ 0 ∨ 4096 < g.dest + n then (s, some content)
  else
    (records 16 p).zipIdx.foldl (fun (x : Wrote) y =>
      let (b, j) := y
      let w := fun i => word32At b (4 * i)
      match x with
      | (s, some e) => (s, some e)
      | (s, none) =>
        if routeOk g.die (g.dest + j) (w 0) (w 1) (w 2) (w 3) then
          let v := (BitVec.ofNat 32 (w 0), BitVec.ofNat 32 (w 1), BitVec.ofNat 32 (w 2), BitVec.ofNat 32 (w 3))
          (s.setNet { s.net with routes := tput s.net.routes (g.die * 4096 + g.dest + j) v }, none)
        else (s, some 0x49)) (s, none)

/-- R299, R300: a configuration of region `r` cannot serve: its group has two retired columns, or it uses a retired block
memory. -/
def State.fabricLost (s : State) (f r : Nat) (d : RegionDecl) : Bool :=
  decide (2 ≤ (s.lostColumns (fabricDA f) (r / 2)).length) || d.brams.any fun b => (s.fab f).bramRetired.contains b

/-- R302, R307: the tracks, gated, that a configuration sets; a divider out of range leaves the track its setting (R291). -/
def State.setTracks (s : State) (f r : Nat) (d : RegionDecl) : State :=
  ((d.tracks.take 24).zipIdx).foldl (fun s x =>
    if 1 ≤ x.1.2 ∧ x.1.2 ≤ 256 then s.setReg (fabricDA f) (pgFab r) 0x04C (x.1.1 % 4 + 4 * x.1.2) x.2 else s)
    (s.setRegion f r { s.region f r with switched := [] })

/-- FABRIC: variant 0 of a region is configured; it runs from the commit on. -/
def State.loadFabric (s : State) (g : SegEnt) (p : List Byte) : Wrote :=
  match fabricOf g.die with
  | none => (s, some content)
  | some f =>
    if !g.dakind ∨ 16 ≤ g.unit ∨ g.dest ≠ 0 then (s, some content)
    else
      let d := Config.regionDecl p
      let s := s.setRegion f g.unit { s.region f g.unit with used := true }
      if g.variant ≠ 0 then (s, none)
      else if s.fabricLost f g.unit d then (s, some 0x23)
      else if !declOk g.die p d then (s, some content)
      else
        let s := s.setKeeper { s.keeper with
          configured := s.keeper.configured ++ [fabricDA f * 256 + pgFab g.unit] }
        (((s.setTracks f g.unit d).setLogic f g.unit {}).setRegion f g.unit { s.region f g.unit with phase := .loading, decl := d, base := d, cfg := p, nextCfg := p }, none)

def layerOf (b : List Byte) : Layer :=
  let w := fun i => word32At b (4 * i)
  { index := bits (w 0) 7 0, cgroup := bits (w 0) 23 8, wfmt := bits (w 0) 27 24, size := w 1, prop := w 2,
    dieA := bits (w 3) 7 0, coreA := bits (w 3) 11 8, copy0A := w 4, copy1A := w 5, selA := w 6,
    dieB := bits (w 7) 7 0, coreB := bits (w 7) 11 8, copy0B := w 8, copy1B := w 9, selB := w 10 }

/-- R361: the fixed rules of an entry. -/
def layerOk (b : List Byte) : Bool :=
  let w := fun i => word32At b (4 * i)
  w 0 / 2 ^ 28 == 0 && w 1 % 32 == 0 && decide (32 ≤ w 1) && decide (w 1 ≤ 2 ^ 20) && w 3 / 2 ^ 12 == 0 && w 7 / 2 ^ 12 == 0 &&
  w 11 == 0 && decide (bits (w 0) 27 24 < 10)

/-- ADAPT. -/
def State.loadAdapt (s : State) (i : Nat) (g : SegEnt) (p : List Byte) : Wrote :=
  let l := records 48 p
  let ids := l.map fun b => word32At b 0 % 256
  if p.length % 48 ≠ 0 ∨ g.dest ≠ 0 ∨ g.unit ≠ 0 ∨ !l.all layerOk ∨ ids.eraseDups.length ≠ ids.length ∨
      (s.keeper.segs.take i).any (fun x => x.typ == 10) then (s, some content)
  else (s.setKeeper { s.keeper with layers := l.map layerOf }, none)

/-- R197, R198, R357: a stream descriptor holds no reserved code and no nonzero reserved field. -/
def descFixed (b : List Byte) : Bool :=
  let w := word32At b 0
  decide (bits w 2 0 < 4) && decide (bits w 5 3 < 4) && decide (bits w 8 6 < 4) && decide (bits w 13 12 < 2) &&
  bits (word32At b 28) 31 26 == 0

/-- R356: DIE of a segment that names a die alone: a logical tile die, or a DA (notes/assumptions/136.md). -/
def SegEnt.dieOk (g : SegEnt) : Bool := if g.dakind then (dieKind g.die).isSome else decide (g.die < 56)

/-- The payload of segment `i` is checked against its type's rules and written. -/
def State.loadSegment (s : State) (i : Nat) (g : SegEnt) (p : List Byte) : Wrote :=
  match g.typ with
  | 1 => if g.dieOk ∧ g.unit = 0 ∧ g.dest = 0 then s.loadConfig p else (s, some content)
  | 2 => if g.dieOk ∧ g.unit = 0 then s.loadTimetable i g p else (s, some content)
  | 3 => s.loadProgram g p
  | 4 => s.loadStore g .vis (8 * g.dest) 0x8000 (p.length % 8 == 0 && (records 8 p).all fun b => vecLegal (leNat b)) p
  | 5 => s.loadStore g .core g.dest 0x100000 (g.dest % 32 == 0) p
  | 6 => s.loadDie g p
  | 7 => s.loadStore g .fdesc (64 * g.dest) 0x10000 (p.length % 64 == 0 && (records 64 p).all descFixed) p
  | 8 => s.loadRoutes g p
  | 9 => s.loadFabric g p
  | 10 => if g.dieOk then s.loadAdapt i g p else (s, some content)
  | _ => (s, some content)

/-- R289: the rows of a block memory that fail the march test, physical rows 0 to 1,023 and spare rows 1,024 to 1,027: free. -/
def marchFails (n : Nat) : List Nat := (List.range 1028).filter fun i => Config.freeBool (n + i)

/-- R289, R300: the replacements after the march test, of those recorded before it that hold: the data rows that now need a spare row, in
increasing order, take the spare rows that pass and are not in use, in increasing order. -/
def marchSpares (old : List (Nat × Nat)) (fails : List Nat) : List (Nat × Nat) :=
  let kept := old.filter fun x => !fails.contains (1024 + x.2)
  let rows := (List.range 1024).filter fun i => !(kept.any fun x => x.1 == i) && (fails.contains i || old.any fun x => x.1 == i)
  let spare := (List.range 4).filter fun j => !fails.contains (1024 + j) && !(kept.any fun x => x.2 == j)
  kept ++ rows.zip spare

/-- R289: the failed rows of a block memory: data rows replaced before or failing now, and failing spare rows. -/
def failedRows (old : List (Nat × Nat)) (fails : List Nat) : Nat := ((old.map (·.1)) ++ fails).eraseDups.length

/-- R289: the march test of block memory `b` of a fabric die. One with more than 4 failed rows is retired. -/
def State.marchRam (s : State) (f b : Nat) : State :=
  if (s.fab f).bramRetired.contains b then s
  else
    let fails := marchFails s.free
    let old := s.bramSpares f b
    let s := { s with free := s.free + 1028 }
    if failedRows old fails ≤ 4 then
      let l := marchSpares old fails
      if l = old then s else s.setKeeper { s.keeper with bramRows := tput s.keeper.bramRows (2400 * f + b) l }
    else
      let ref := ledgerRef (fabricDA f) 0x0A b
      let s := s.setFab f { s.fab f with bramRetired := nadd (s.fab f).bramRetired b }
      ((s.setRec ref { s.ledRec ref with cause := 3 }).markRetired ref).flag (fabricDA f) pgFabDie 3

/-- R289: the march test of the block memories of a fabric die. -/
def State.marchTest (s : State) (f : Nat) : State := (List.range 2400).foldl (fun s b => s.marchRam f b) s

/-- R299, R300, R366: the fabric retirements take effect before the segments are written. -/
def State.applyFabric (s : State) : State :=
  let mine := fun r => refKind r == 0x09 || refKind r == 0x0A
  let s := (s.pendingRefs.filter mine).foldl (fun s r => s.markRetired r) s
  (s.keeper.records.filter fun x => mine x.1 && x.2.state == 3).foldl (fun s x =>
    let da := refDA x.1
    if refKind x.1 = 0x09 then
      let u := (da, 0x90000 + refInst x.1)
      s.setKeeper { s.keeper with unusable := if s.keeper.unusable.contains u then s.keeper.unusable else s.keeper.unusable ++ [u] }
    else
      match fabricOf da with
      | some f => s.setFab f { s.fab f with bramRetired := nadd (s.fab f).bramRetired (refInst x.1) }
      | none => s) s

/-- R289: the fabric dies of which the image configures a region. -/
def State.marchTests (s : State) : State :=
  ((List.range 24).filter fun f => s.keeper.segs.any fun g => g.typ == 9 && g.die == fabricDA f).foldl (fun s f => s.marchTest f) s

/-- Step 2 of R366 over the segments: the digest again, the tag, the content; then the segment is written. A variant above 0 is not
read. -/
def State.passTwoSegs (s : State) (short : Option Nat) : Nat → List SegEnt → State × Option (Nat × Nat)
  | _, [] => (s, none)
  | i, g :: r =>
    let b := s.stored g
    if g.typ = 9 ∧ g.variant ≠ 0 then
      match s.loadFabric g [] with
      | (s, some e) => (s, some (e, i))
      | (s, none) => (s.setReg keeperDA pgImg 0x04C (i + 1)).passTwoSegs short (i + 1) r
    else if short = some (i + 2) then (s, some (0x03, i))
    else if sha384 b ≠ s.keeper.digests.getD i [] then (s, some (0x13, i))
    else
      match s.payload i b with
      | none => (s, some (0x14, i))
      | some p =>
        match s.loadSegment i g p with
        | (s, some e) => (s, some (e, i))
        | (s, none) => (s.setReg keeperDA pgImg 0x04C (i + 1)).passTwoSegs short (i + 1) r

/-- R280: step 3 begins: every channel reads its module's SPD. -/
def State.beginTraining (s : State) : State :=
  (List.range 12).foldl (fun s ch => s.setChan ch { s.chan ch with step := 1 }) (s.setImg 3)

/-- Step 2 of R366. The start routes end with it (R478). -/
def State.passTwo (s : State) (short : Option Nat) : State :=
  match s.applyFabric.marchTests.passTwoSegs short 0 s.keeper.segs with
  | (s, some (c, i)) => s.refuseImage c i
  | (s, none) => (s.setNet { s.net with startRoutes := false }).beginTraining

/-! ### Training (R254, R258, R259, R280) -/

/-- R258: MCH_CFG of a module organisation: the codes CAP, DENS and RANKS2. -/
def moduleCfg (n : Nat) : Option (Nat × Nat × Nat) :=
  match n with
  | 0 => some (1, 0, 0)
  | 1 => some (2, 1, 0)
  | 2 => some (3, 2, 0)
  | 3 => some (3, 0, 1)
  | 4 => some (4, 2, 1)
  | _ => none

/-- The organisation that channel `ch` reads in its module, if it trains: what is plugged in and how it trains is free; a PHY
that the Ledger marks unusable never trains. -/
def State.moduleOf (s : State) (ch : Nat) : Option (Nat × Nat × Nat) :=
  if s.keeper.unusable.contains (channelDA ch, 0xD0008 + ch % 2) then none else moduleCfg (Config.freeNat (s.free + ch))

/-- R258, R280: the read of a channel's SPD ends: its module is identified, or does not serve. -/
def State.readSpd (s : State) (ch : Nat) : State :=
  match s.moduleOf ch with
  | none => s.setChan ch { s.chan ch with step := 5 }
  | some (cap, dens, ranks) =>
    (s.setReg (channelDA ch) (0xC0 + ch % 2) 0x040 (cap + 8 * dens + 32 * ranks)).setChan ch { s.chan ch with step := 2 }

/-- R280: a channel is ready; its refreshes, its table clears and its scrub begin. -/
def State.readyChannel (s : State) (ch : Nat) : State :=
  s.setChan ch { step := 4, nextDue := s.boot.time + 2730, tableDue := s.boot.time + 44800000, scrubFrom := s.boot.time,
                 modHot := (s.chan ch).modHot, degC := (s.chan ch).degC, tempDue := (s.chan ch).tempDue }

/-- R280: every burst holds zero data with valid check symbols. -/
def State.zeroDram (s : State) : State :=
  let other := fun (a : Nat) => addrSp a != Sp.dram.code
  { s with mem := s.mem.filter fun x => other x.1, poison := s.poison.filter fun g => other (32 * g) }

/-- R258, R259: what refuses the modules, then the links (R254). -/
def State.trainErr (s : State) : Option Nat :=
  let cfg := fun ch => s.reg (channelDA ch) (0xC0 + ch % 2) 0x040
  firstErr [((List.range 12).all fun ch => (s.chan ch).step == 4 && cfg ch == cfg 0, 0x20),
    (cfg 0 % 8 == s.keeper.dramcap, 0x21), (decide (s.net.failed.length < 2), 0x22)]

/-- The channels whose MCH_STATE.STEP is `n`. -/
def State.channelsAt (s : State) (n : Nat) : List Nat := (List.range 12).filter fun ch => (s.chan ch).step == n

/-- Step 3 of R366, one step of R280 at a time: the SPD reads end, the training ends, the zero fill and the training of the links
end (notes/assumptions/99.md). -/
def State.train (s : State) : State :=
  if s.channelsAt 1 ≠ [] then { ((s.channelsAt 1).foldl State.readSpd s) with free := s.free + 12 }
  else if s.channelsAt 2 ≠ [] then (s.channelsAt 2).foldl (fun s ch => s.setChan ch { s.chan ch with step := 3 }) s
  else
    let s := (s.channelsAt 3).foldl State.readyChannel s
    let s := s.trainLinks.zeroDram
    match s.trainErr with
    | some c => s.refuseImage c 0
    | none => s.setImg 4

/-! ### Verification and commit (R366 step 4, R443, R452) -/

/-- The payloads of the loaded segments. -/
def State.payloads (s : State) : List (List Byte) :=
  s.keeper.segs.zipIdx.map fun x => if x.1.typ = 9 ∧ x.1.variant ≠ 0 then [] else (s.payload x.2 (s.stored x.1)).getD []

/-- R361: every selector word is 0. -/
def State.zeroSelectors (s : State) : State :=
  s.keeper.layers.foldl (fun s x =>
    [(x.dieA, x.coreA, x.selA), (x.dieB, x.coreB, x.selB)].foldl (fun s y => match s.physCore y.1 y.2.1 with
      | some (t, c) => s.writeAll .core (coreKey t c) y.2.2 (leBytes 4 0) false
      | none => s) s) s

/-- R297: the declared cells of a region. -/
def State.declareCells (s : State) (f r : Nat) (d : RegionDecl) : State :=
  d.cells.foldl (fun s x => if x.cell < 8 then
    s.setTrip f x.cell { declared := true, region := r, clampOff := x.clampOff, line := x.line % 32, clamped := (s.trip f x.cell).clamped }
    else s) s

/-- The configured regions run. -/
def State.startRegions (s : State) : State :=
  (List.range 24).foldl (fun s f => (List.range 16).foldl (fun s r =>
    let x := s.region f r
    if x.phase = .loading then
      (s.setRegion f r { x with phase := .running, fixed := s.fixedUse f x.decl }).declareCells f r x.decl
    else s) s) s

/-- R366, R452: the pages that the image configured, in increasing DA and page, the PWM pages last. -/
def State.lockOrder (s : State) : List Nat :=
  let l := (List.range (160 * 256)).filter fun k => s.keeper.configured.contains k
  l.filter (fun k => k % 256 != pgPwm) ++ l.filter fun k => k % 256 == pgPwm

def State.lockPages (s : State) : State :=
  s.lockOrder.foldl (fun s k => s.ctrlWrite ((blkAt (k / 256) (k % 256)).getD .ni) (k / 256) (k % 256) 5 true) s

/-- R412, R443: restore images and both generations of every core in service. -/
def State.imageStates (s : State) : State :=
  s.inService.foldl (fun s t => (s.place.carriers t).foldl (fun s ck =>
    (s.writeRestoreImage t ck.1 ck.2).loadGens t ck.1 ck.2) s) s

/-- R350: the entry of a gate control list in force `pos` ns into its cycle, from entry `i` on, and the time since it began. -/
def gateEntry : Nat → Nat → List (Nat × Nat) → Nat × Nat
  | _, _, [] => (0, 0)
  | i, pos, g :: r => if pos < g.2 then (i, pos) else gateEntry (i + 1) (pos - g.2) r

/-- R350: where a list stands in its cycle, which starts at CYCLE_BASE of port `p` in gPTP time. -/
def State.gateStart (s : State) (p : Nat) (l : List (Nat × Nat)) : Nat × Nat :=
  let base : Nat := s.reg tsnDA pgTsn (0x080 + 8 * p) + 2 ^ 32 * s.reg tsnDA pgTsn (0x084 + 8 * p)
  let cycle : Nat := (l.map (·.2)).sum
  gateEntry 0 (((Config.gptpTime s.boot.time : Int) - (base : Int)) % (cycle : Int)).toNat l

/-- R350: the gate control lists that the image holds. The spec does not say where an image holds them, so that the lists of the
four ports are free values of at most 256 entries. -/
def State.loadGates (s : State) : State :=
  let list := fun p => (List.range (Config.freeNat (s.free + p) % 257)).map fun i =>
    (Config.freeNat (s.free + 4 + 512 * p + 2 * i) % 2 ^ 8, Config.freeNat (s.free + 5 + 512 * p + 2 * i) % 2 ^ 24)
  let at_ := fun p => s.gateStart p (list p)
  { s with
    eths := [0, 1, 2, 3].foldl (fun t p =>
      tput t p { tget t p {} with gcl := list p, gate := (at_ p).1, gateAt := s.boot.time - (at_ p).2 * 7 / 5 }) s.eths
    free := s.free + 2052 }

/-- R331: the lanes that the image switches on start at step 1. -/
def State.startLanes (s : State) : State :=
  [4, 5].foldl (fun s e => (List.range 8).foldl (fun s n =>
    if s.laneOn e n then s.setLane e n { s.lane e n with since := s.boot.time } else s) s) s

/-- The commit. -/
def State.commitLoad (s : State) : State :=
  let s := s.setKeeper { s.keeper with streamPorts := s.findStreamPorts s.payloads }
  let s := (s.imageStates).startRegions.loadGates.lockPages.startLanes
  let s := (s.setReg pacerDA pgTtb 0x044 1).setReg pacerDA pgTtb 0x048 s.period
  let s := s.setReg pacerDA pgMnt 0x064 (min 0xFFFF s.maxDemand)
  let s := s.setKeeper { s.keeper with substitutions := 0 }
  let s := (s.incReg keeperDA pgImg 0x060).stampLoad
  let s := s.setBoot { s.boot with power := .configured }
  if s.keeper.source && s.keeper.writeFlash then s.setImg 8
  else
    let s := s.setImg 5
    if s.keeper.source && s.host.mailbox == some 2 then s.mbxRespond 2 mbxStatusOk 0 else s

/-- Step 4 of R366. -/
def State.verifyLoad (s : State) : State :=
  let s := s.zeroSelectors
  match s.verifyErr s.payloads with
  | some (c, i) => s.refuseImage c i
  | none => (s.setKeeper { s.keeper with named := s.dieNames s.payloads }).commitLoad

/-- A load in one of the four steps. -/
def State.inStep (s : State) : Bool := decide (1 ≤ s.imgState) && decide (s.imgState ≤ 4)

/-- R366: the timeouts of the steps, in core cycles: 2.5, 5, 6 and 3 seconds. -/
def stepLimit (n : Nat) : Nat := match n with | 1 => 3500000000 | 2 => 7000000000 | 3 => 8400000000 | _ => 4200000000

/-- The step in progress has lasted to its timeout. -/
def State.stepExpired (s : State) : Bool := s.inStep && decide (s.boot.stepStart + stepLimit s.imgState ≤ s.boot.time)

/-- LOAD_STEP (R366): the step that IMG_STATE names ends, and the next begins; an unwinding ends (R367). `short` names what a
short or failed read of the source meets: 0 the header, 1 the manifest, 2 + i segment i. -/
def execLoadStep (short : Option Nat) (s : State) : Out :=
  .next <|
    if s.stepExpired then s.refuseImage 0x30 0
    else match s.imgState with
      | 1 => s.passOne short
      | 2 => s.passTwo short
      | 3 => s.train
      | 4 => s.verifyLoad
      | 7 => s.unwind
      | _ => s

/-- LOAD_STEP_TIMEOUT (R366). -/
def execLoadStepTimeout (s : State) : Out := .next (if s.stepExpired then s.refuseImage 0x30 0 else s)

/-- ABORTED: the load in progress is refused. -/
def State.abortLoad (s : State) : State := if s.inStep then (s.refuseImage 0x31 0).flag keeperDA pgImg 3 else s

/-- ABORT (R368). -/
def execImgAbort (s : State) : Out := .next s.abortLoad

/-! ### Writing the flash (R370) -/

/-- R370: the flash is erased: an erased byte reads as one that nothing has written (notes/assumptions/5.md). -/
def State.eraseFlash (s : State) : State :=
  let other := fun (a : Nat) => addrSp a != Sp.flash.code
  { s with mem := s.mem.filter fun x => other x.1, poison := s.poison.filter fun g => other (32 * g) }

/-- The flash is erased and the image programmed in the striping of R354. -/
def State.writeImage (s : State) : State :=
  (List.range (4096 * s.keeper.lenUnits / 256)).foldl (fun t i =>
    t.writeAll .flash (flashPlace (256 * i)).1 (flashPlace (256 * i)).2 (s.imgBytes (256 * i) 256) false) s.eraseFlash

/-- R370: the segments that are read back from the flash have the digests of pass 1. -/
def State.readsBack (s : State) : Bool :=
  let t := s.setKeeper { s.keeper with source := false }
  t.keeper.segs.zipIdx.all fun x => sha384 (t.stored x.1) == t.keeper.digests.getD x.2 []

/-- R352, R370: a flash write that failed or was interrupted leaves no valid image: what the flash then holds is free, but its first
byte is not that of MAGIC (notes/assumptions/142.md). -/
def State.spoilFlash (s : State) : State :=
  let b := (List.range 256).map fun i => Config.freeByte (s.free + i)
  let b := if b.headD 0 = 0x4B then 0 :: b.tail else b
  { s.eraseFlash.writeAll .flash 0 0 b false with free := s.free + 256 }

/-- FLASH_WRITE_DONE (R370): the write and the comparison end; `ok` tells whether the devices took and kept the data. -/
def execFlashWriteDone (ok : Bool) (s : State) : Out :=
  .next <|
    if s.imgState ≠ 8 then s
    else
      let t := s.writeImage
      let ok := ok && t.readsBack
      let s := (if ok then t else s.spoilFlash).setImg 5
      if s.host.mailbox = some 2 then s.mbxRespond 2 (if ok then mbxStatusOk else 0x04) 0 else s

/-! ### The load of a reserve die (R397) -/

/-- A segment of a logical die is written for its reserve die. -/
def State.reserveSegment (s : State) (l : Nat) (x : SegEnt × Nat) : State :=
  let (g, i) := x
  let p := (s.payload i (s.stored g)).getD []
  if g.typ = 1 then
    (records 16 p).foldl (fun s b => if word32At b 0 % 2 ^ 9 = l then (s.configWrite b).1 else s) s
  else if g.dakind ∨ g.die ≠ l ∨ g.typ = 2 ∨ g.typ = 10 then s
  else (s.loadSegment i g p).1

/-- RESERVE_LOAD (R397): the reserve die of logical die `l` has been loaded; its pages are locked, its restore images and
generations written, and its logical cores await their rejoins, one to a tick. -/
def execReserveLoad (l : Nat) (s : State) : Out :=
  .next <|
    match s.keeper.reserveLoads.find? (fun x => x.1 == l) with
    | none => s
    | some (_, r) =>
      if s.place.unjoined.contains (16 * l) then s
      else
        let old := s.place.dieOf
        let held := s.keeper.configured
        let s := s.setPlace { s.place with dieOf := tput old l (some r) }
        let s := s.keeper.segs.zipIdx.foldl (fun s x => s.reserveSegment l x) s
        let s := (s.place.carriers r).foldl (fun s ck => (s.writeRestoreImage r ck.1 ck.2).loadGens r ck.1 ck.2) s
        let s := (s.keeper.configured.filter fun k => k / 256 == tileDA r).foldl (fun s k =>
          s.ctrlWrite ((blkAt (k / 256) (k % 256)).getD .ni) (k / 256) (k % 256) 5 true) s
        let s := s.setKeeper { s.keeper with configured := held ++ s.keeper.configured.filter fun k => k / 256 == tileDA r }
        s.setPlace { s.place with
          dieOf := tput s.place.dieOf l none
          unjoined := s.place.unjoined ++ (List.range 8).map fun k => 16 * l + k }

end Sys2Proof.Machine
end

