-- ==== Sys2Proof/Machine/Vault.lean ====
section
/-! DEFINITION. The Vault (R371 to R375): programming, identity, attestation. -/

namespace Sys2Proof.Machine

/-! ### Programming (R373) -/

/-- VLT_PROG_STATUS: BUSY, DONE, REFUSED, FAIL. -/
def State.progStatus (s : State) (v : Nat) : State := s.setReg keeperDA pgVlt 0x060 v

def State.setVlt (s : State) (v : VltSeq) : State := s.setKeeper { s.keeper with vlt := v }

/-- A command is refused; nothing is blown. -/
def State.refuseProg (s : State) : State := ((s.setVlt .idle).progStatus 4).flag keeperDA pgVlt 0

/-- A KEY that finds fuses being blown breaks its sequence and leaves the blowing as it is. -/
def State.busyProg (s : State) : State :=
  (s.setReg keeperDA pgVlt 0x060 (setBit (s.reg keeperDA pgVlt 0x060) 2)).flag keeperDA pgVlt 0

/-- R371, R372: the bits of a word that the lifecycle in force lets blow. -/
def progMask (lifecycle word : Nat) : Nat :=
  if 2 ≤ lifecycle then 0
  else if word = 4 then 0xF3
  else if word = 5 ∨ word = 6 then 0xFFFFFFFF
  else if lifecycle = 0 ∧ 8 ≤ word ∧ word < 64 then 0xFFFFFFFF
  else 0

/-- The set bits are a run from bit 0. -/
def thermometer (v : Nat) : Bool := (List.range 65).any fun k => v == 2 ^ k - 1

/-- The fuses after a word's bits are blown. -/
def State.blow (s : State) (word v : Nat) : State :=
  s.setKeeper { s.keeper with fuses := tput s.keeper.fuses word (BitVec.ofNat 32 (s.fuse word ||| v)) }

/-- R373: the conditions of a command. -/
def State.progOk (s : State) (word v : Nat) : Bool :=
  let life := s.keeper.lifecycle
  let n := s.blow word v
  let live := (List.range 4).any fun k => n.slotSet k && !n.slotRevoked k
  v &&& progMask life word == v && progMask life word != 0 && s.disarmed && !s.loadRunning &&
  (!(word == 5 || word == 6) || thermometer (n.fuse 5 + 2 ^ 32 * n.fuse 6)) &&
  (!(word == 4 && bit v 0) || (live && s.iekSet)) &&
  (!(word == 4 && life == 1 && v &&& 0xF0 != 0) || bits (n.fuse 4) 7 4 != 15)

/-- KEY_5A: a sequence opens; the status of the last command is cleared. -/
def execKey5a (s : State) : Out :=
  .next <|
    if !s.keeper.started then s
    else match s.keeper.vlt with
      | .blowing _ _ => s.busyProg
      | _ => (s.setVlt (.opened s.boot.time)).progStatus 0

/-- KEY_A5: `us` microseconds after KEY 0x5A. -/
def execKeyA5 (us : Nat) (s : State) : Out :=
  .next <|
    if !s.keeper.started then s
    else
      let word := s.reg keeperDA pgVlt 0x054 % 2 ^ 8
      let v := s.reg keeperDA pgVlt 0x058
      match s.keeper.vlt with
      | .blowing _ _ => s.busyProg
      | .idle => s.refuseProg
      | .opened t =>
        if us ≤ 1000 ∧ s.boot.time ≤ t + 1400000 ∧ s.progOk word v then (s.setVlt (.blowing word (BitVec.ofNat 32 v))).progStatus 1 else s.refuseProg

/-- A KEY other than 0x5A and 0xA5 breaks the sequence. -/
def State.wrongKey (s : State) : State :=
  match s.keeper.vlt with
  | .blowing _ _ => s.busyProg
  | _ => s.refuseProg

/-- Of the bits to blow, those that an interrupted or failed command has blown: some of them, at least one missing. -/
def partBlown (v k : Nat) : Nat :=
  let x := v &&& Config.freeNat k
  if x = v then (match lowestBit 32 v with | some b => clrBit v b | none => 0) else x

/-- R373: once RMA is set, by a command that ended or by one that failed or was interrupted, the Keeper destroys IEK and
DEVICE_SECRET (notes/assumptions/233.md). -/
def State.wipeSecrets (s : State) : State :=
  if bit (s.fuse 4) 1 then (List.range 16).foldl (fun s i => s.blow (56 + i) 0xFFFFFFFF) s else s

/-- FUSE_PROGRAM_DONE: the word is read back: DONE, or FAIL where a bit reads 0. -/
def execFuseProgramDone (ok : Bool) (s : State) : Out :=
  .next <|
    match s.keeper.vlt with
    | .blowing word v =>
      if ok ∨ v = 0 then ((s.blow word v.toNat).wipeSecrets.setVlt .idle).progStatus 2
      else ((((s.blow word (partBlown v.toNat s.free)).wipeSecrets.draw).setVlt .idle).progStatus 8).flag keeperDA pgVlt 1
    | _ => s

/-! ### Identity and attestation (R374, R375) -/

def State.serialBytes (s : State) : List Byte := beBytes 8 (s.fuse 0 + 2 ^ 32 * s.fuse 1)

/-- R374: the value v of the identity key. The label is "KLH-ID". -/
def State.deriveIdentity (s : State) : List Byte :=
  kdf ((List.range 8).flatMap fun i => leBytes 4 (s.fuse (64 + i))) (ascii [0x4B, 0x4C, 0x48, 0x2D, 0x49, 0x44]) s.serialBytes 512

/-- R374: the identity key d, from v taken as a big-endian integer. -/
def State.identityScalar (s : State) : Nat := leNat s.keeper.identity.reverse % (curveOrder - 1) + 1

/-- R335, R374: the PCI Express Device Serial Number. -/
def State.pciSerial (s : State) : Nat := s.fuse 0 + 2 ^ 32 * s.fuse 1

/-- Retired cores of all tile dies. -/
def State.retiredCores (s : State) : Nat :=
  (allTiles.map fun t => ((List.range 9).filter fun c => s.place.roleOf t c == 14).length).sum

def State.diesIn (s : State) (st : Nat) : Nat := (allTiles.filter fun t => s.place.dieState t == st).length

/-- R375: bytes 0x000 to 0x0FF. -/
def State.reportBody (s : State) : List Byte :=
  let info := s.reg keeperDA pgImg 0x050
  let st := s.reg keeperDA pgImg 0x040
  leBytes 4 (1 + 512 * 2 ^ 16) ++ leBytes 4 (s.fuse 0) ++ leBytes 4 (s.fuse 1) ++
  leBytes 4 (s.fuse 2 % 2 ^ 26 + s.fuseLife * 2 ^ 26) ++ leBytes 4 (s.fuse 3) ++
  leBytes 4 (s.secverMin + bits info 7 0 * 2 ^ 8 + bits info 9 8 * 2 ^ 16 + bits st 3 0 * 2 ^ 18 + bits st 4 4 * 2 ^ 22) ++
  leBytes 4 (s.mbxWord 2) ++ leBytes 4 (s.mbxWord 3) ++ fit 48 s.keeper.manifestDigest ++
  leBytes 8 (if s.disarmed then 0 else s.tick) ++ leBytes 4 s.place.gen ++
  leBytes 4 (s.diesIn 2 % 2 ^ 8 + s.retiredCores % 2 ^ 8 * 2 ^ 8 + s.diesIn 0 * 2 ^ 16) ++
  fit 160 (fit 97 (publicKey s.identityScalar))

/-- R375: the 512 bytes of the report. -/
def State.attestReport (s : State) : List Byte :=
  let b := s.reportBody
  b ++ fit 256 (fit 96 (ecdsaSign s.identityScalar (sha384 b)))

/-- ATTESTATION_REPORT (R375): mailbox OP 0x01. -/
def execAttestationReport (s : State) : Out :=
  s.mailboxOp 1 fun s =>
    (s.writeAll .host 0 (s.mbxWord 0 + 2 ^ 32 * s.mbxWord 1) s.attestReport false).mbxRespond 1 mbxStatusOk 512

end Sys2Proof.Machine
end

