-- ==== Sys2Proof/Machine/Power.lean ====
section
/-! DEFINITION. Power (R433 to R448): reset, Keeper start, loss of power, orderly shutdown and BIST. -/

namespace Sys2Proof.Machine

/-! ### Reset and loss of power (R433, R435, R448) -/

/-- R373, R448: fuses that were being blown: some bits are blown. -/
def State.breakProg (s : State) : State :=
  match s.keeper.vlt with
  | .blowing word v => ((s.blow word (v.toNat &&& Config.freeNat s.free)).draw).setVlt .idle
  | _ => s

/-- R370, R448: a flash write that is interrupted leaves no valid image. -/
def State.breakFlash (s : State) : State := if s.imgState = 8 then s.spoilFlash else s

/-- R433: what outlives power: the fuses, the Ledger with the placement that it records, the flash. Host memory is the host's;
the queue and the counter of free values are the model's. -/
def State.withoutPower (s : State) (p : PowerPhase) : State :=
  let s := s.breakProg.breakFlash
  let k := s.keeper
  let kept : Keeper := {
    flash := k.flash, profiles := k.profiles, fuses := k.fuses, records := k.records, spares := k.spares, log := k.log, logCnt := k.logCnt, service := k.serviceSaved,
    serviceSaved := k.serviceSaved, place := { k.place with gen := 0, unjoined := [] }, lost := k.lost,
    reserveLoads := k.reserveLoads, bramRows := k.bramRows }
  { State.reset with
    mem := s.mem.filter fun x => keptSp (addrSp x.1)
    poison := s.poison.filter fun g => keptSp (addrSp (32 * g))
    keeper := kept
    boot := { power := p, trst := s.boot.trst, tap := s.boot.tap }
    free := s.free
    pending := s.pending }

/-- PORST (R435): PORST_N is low for `us` microseconds. -/
def execPorst (us : Nat) (s : State) : Out := .next (if 10 ≤ us then s.withoutPower .reset else s)

/-- POWER_LOSS (R448). -/
def execPowerLoss (s : State) : Out := .next (s.withoutPower .off)

/-! ### Keeper start (R437, R438, R410) -/

/-- The marks of the retired lanes, DRAM devices, columns and analogue blocks, as the Ledger's records give them. -/
def unusableMark (ref : Nat) : Option (Nat × Nat) :=
  match refKind ref with
  | 0x06 => some (refDA ref, 0x60000 + refInst ref)
  | 0x09 => some (refDA ref, 0x90000 + refInst ref)
  | 0x0D => some (refDA ref, 0xD0000 + refInst ref)
  | _ => none

def State.readLedger (s : State) : State :=
  s.setKeeper { s.keeper with
    unusable := (s.keeper.records.filter fun x => x.2.state == 3).filterMap fun x => unusableMark x.1 }

/-- R410: pending retirements of analogue blocks take effect at power-up. -/
def State.retireAnalogue (s : State) : State :=
  (s.pendingRefs.filter fun r => refKind r == 0x0D).foldl (fun s r => s.retireUnit r) s

/-- R414: whether a read of the MRAM is corrected, or a record copy fails its CRC, comes from outside: free. -/
def State.readMram (s : State) : State :=
  let ce := Config.freeBool s.free
  let ue := Config.freeBool (s.free + 1)
  let s := { s with free := s.free + 2 }
  let s := if ce then s.flag keeperDA pgLdg 0 else s
  if ue then s.flag keeperDA pgLdg 1 else s

/-- KEEPER_START (R437): PORST_N is deasserted; the Keeper reads Vault and Ledger, derives the identity key, publishes the
placement map, starts the dies and begins the load. -/
def execKeeperStart (s : State) : Out :=
  .next <|
    if !s.boot.porst then s
    else
      let s := s.setBoot { s.boot with porst := false, power := .unconfigured, time := 0 }
      let s := s.setKeeper { s.keeper with started := true }
      let s := s.wipeSecrets.readLedger.readMram.retireAnalogue
      let s := s.setKeeper { s.keeper with
        identity := s.deriveIdentity, lifecycle := s.fuseLife, place := { s.keeper.place with gen := 2 } }
      let s := (s.setNet { s.net with startRoutes := true }).trainLinks
      let f := s.keeper.flash
      let s := s.setReg keeperDA pgImg 0x040
        (packBits (f.map fun c => c != 0) % 2 ^ 4 * 2 ^ 5 + ((f.find? fun c => c != 0).getD 0) % 2 ^ 3 * 2 ^ 9)
      s.beginLoad false 0 0 false

/-! ### The host link resets (R336, R341) -/

def State.closeSession (s : State) : State := s.setReg pcieDA pgPci 0x04C 0

/-- The effects of R336. An EN that the host writes in the same cycle stays as written (R31). -/
def State.hostReset (s : State) : State :=
  let s := s.closeSession
  let s := (List.range 4).foldl (fun s c =>
    if s.hostHolds (regKey pcieDA pgPci (0x098 + 32 * c) 0) then s
    else s.setReg pcieDA pgPci (0x098 + 32 * c) (clrBit (s.reg pcieDA pgPci (0x098 + 32 * c)) 5)) s
  let s := (s.setHost { s.host with dma := [], d3 := false }).flag pcieDA pgPci 8
  if s.keeper.source then s.abortLoad else s

def State.linkLost (s : State) : State :=
  let s := s.hostReset
  (s.setHost { s.host with linkUp := false }).setReg pcieDA pgPci 0x040 0

/-! ### Orderly shutdown (R445 to R447) -/

/-- R445: what forbids a shutdown. -/
def State.shutdownOk (s : State) : Bool :=
  s.disarmed && s.boot.idle && !s.loadRunning && s.fabs.all (fun x => x.2.queue.isEmpty) &&
  (match s.keeper.vlt with | .blowing _ _ => false | _ => true) && !s.mint.shed && !s.mint.shutdown && !s.mint.cold

/-- R445 item 3: every unit stops; the charges received are applied. -/
def State.quiesce (s : State) : State :=
  let s := allTiles.foldl (fun s t => s.stopTile t) s
  let charges := s.net.arrived.filter fun p => p.opc == opMSG && p.aux.toNat == 6 && formed p && chargeOk p
  let s := charges.foldl (fun s p =>
    s.applyCharge (pword p 0) (bits (pword p 1) 1 0) (bits (pword p 1) 9 2) (pword p 2) (pword p 3)) s
  let s := s.setNet { s.net with queued := [], arrived := [], outstanding := [], heldTags := [] }
  (s.setKeeper { s.keeper with serviceSaved := s.serviceNow }).setBoot { s.boot with power := .quiescing, bistGroup := 0 }

/-- The halt: every die other than the Keeper is in reset. -/
def State.halt (s : State) : State :=
  let k := s.keeper
  let b := s.boot
  { State.reset with
    regs := s.regs.filter fun x => keyDA x.1 == keeperDA
    mem := s.mem.filter fun x => keptSp (addrSp x.1)
    poison := s.poison.filter fun g => keptSp (addrSp (32 * g))
    keeper := k
    boot := { b with power := .halted, bistGroup := 0 }
    free := s.free
    pending := s.pending }

/-- SHUTDOWN in BST_CMD; NOBIST halts without BIST. -/
def State.shutdown (s : State) (nobist : Bool) : State :=
  if !s.keeper.started then s
  else if !s.shutdownOk then s.flag keeperDA pgBst 1
  else if nobist then s.quiesce.halt
  else s.quiesce

/-- SHUTDOWN (R445). -/
def execShutdown (s : State) : Out := .next (s.shutdown false)

/-- NOBIST (R445). -/
def execNobist (s : State) : Out := .next (s.shutdown true)

/-- R446: the group of the BIST order that tests a block of a die. -/
def bistGroupOf (da i : Nat) : Nat :=
  if !analogueOk da i then 0
  else if i = 2 then 1
  else if i < 2 then 2
  else if i < 7 then (if da / 16 < 5 then 3 else 4)
  else match dieKind da with
    | some .pacer => 1
    | some .fabric => 2
    | some .memory => 5
    | some .driveEdge => 6
    | some .linkEdge => 7
    | some .tsnEdge => 8
    | some .pcie => 9
    | _ => 0

/-- R447: the signature of a block: BIST_LAST, BST_SIG, BST_RESULT, and a charge where it differs from BIST_FACT. -/
def State.bistBlock (s : State) (x : BistSig) : State :=
  let ref := ledgerRef x.da 0x0D x.block
  let s := s.setRec ref { s.ledRec ref with bistLast := x.sig }
  let s := s.setReg x.da pgBst 0x04C x.sig.toNat x.block
  let res := s.reg x.da pgBst 0x050
  if x.sig = (s.ledRec ref).bistFact then s.setReg x.da pgBst 0x050 (clrBit res x.block)
  else
    let s := (s.setReg x.da pgBst 0x050 (setBit res x.block)).flag x.da pgBst 0
    s.applyCharge ref ckBist 0x00 noLoc s.tick

/-- R446: the blocks that a group tests: die and block index. -/
def groupBlocks (g : Nat) : List (Nat × Nat) :=
  (allDAs.flatMap fun da => (List.range 16).map fun i => (da, i)).filter fun x => bistGroupOf x.1 x.2 == g

/-- R446: every block of the running group returns a signature: the one that differs and that `sigs` names, else, as a sound block,
its factory value (notes/assumptions/179.md). -/
def State.bistGroup (s : State) (sigs : List BistSig) (g : Nat) : State :=
  (groupBlocks g).foldl (fun s x =>
    s.bistBlock ((sigs.find? fun y => y.da == x.1 && y.block == x.2).getD
      { da := x.1, block := x.2, sig := (s.ledRec (ledgerRef x.1 0x0D x.2)).bistFact })) s

/-- BIST_GROUP_DONE (R447): the running group ends with the signatures of its blocks, and the next begins; before group 1, the
quiescing ends. At the start of group 9 the host link goes down, with the effects of R336; after it the device halts. -/
def execBistGroupDone (sigs : List BistSig) (s : State) : Out :=
  .next <|
    let g := s.boot.bistGroup
    match s.boot.power with
    | .quiescing => s.setBoot { s.boot with power := .testing, bistGroup := 1 }
    | .testing =>
      let s := s.bistGroup sigs g
      if g = 9 then s.halt
      else
        let s := s.setBoot { s.boot with bistGroup := g + 1 }
        if g = 8 then s.linkLost.setHost { s.linkLost.host with mailbox := none } else s
    | _ => s

end Sys2Proof.Machine
end

