-- ==== Sys2Proof/Machine/Host.lean ====
section
/-! DEFINITION. The host link of E6 (R335 to R345, R436): sessions, events, the watchdog, DMA, link resets. -/

namespace Sys2Proof.Machine

/-! ### The configuration space (R335) -/

/-- The items of the configuration space. -/
inductive PciItem where
  | vendor | device | revision | classCode
  /-- size of base address register `n`, of a pair for 0 and 2; 0: not implemented -/
  | bar (n : Nat)
  | msixTable | msixPendingBits | msixVectors | maxPayload | maxRead | maxNonPosted
  /-- ASPM support; 0: none -/
  | aspm
  /-- 0 D0, 3 D3hot -/
  | power
  | serial
deriving DecidableEq, Repr

/-- What the configuration space holds. The power state is the only item that commands change; the host's configuration accesses and its
writes to the MSI-X table are no rows of the table (notes/assumptions/231.md). -/
def State.pciConfig (s : State) : PciItem → Nat
  | .vendor => 0x1EB9
  | .device => 0x0448
  | .revision => bits (s.fuse 2) 23 16
  | .classCode => 0x120000
  | .bar 0 => 2 ^ 28
  | .bar 2 => 2 ^ 16
  | .bar _ => 0
  | .msixTable => 0x0000
  | .msixPendingBits => 0x8000
  | .msixVectors => 32
  | .maxPayload => 512
  | .maxRead => 4096
  | .maxNonPosted => 768
  | .aspm => 0
  | .power => if s.host.d3 then 3 else 0
  | .serial => s.pciSerial

/-! ### Sessions (R341) -/

/-- PCI_HIF_STATE: a session is open; its major version. -/
def State.sessionOpen (s : State) : Bool := s.reg pcieDA pgPci 0x04C % 4 == 1
def State.sessionMajor (s : State) : Nat := bits (s.reg pcieDA pgPci 0x04C) 5 2

/-- R341: the major and minor version that the host's request and the device's 1.4 and 2.2 have in common. -/
def chooseVersion (v : Nat) : Option (Nat × Nat) :=
  let hi := bits v 3 0
  let lo := bits v 7 4
  if lo ≤ 2 ∧ 2 ≤ hi then some (2, min (bits v 23 16) 2)
  else if lo ≤ 1 ∧ 1 ≤ hi then some (1, min (bits v 15 8) 4)
  else none

/-- A write to PCI_HIF_REQ. -/
def State.requestSession (s : State) (v : Nat) : State :=
  if s.sessionOpen then s.flag pcieDA pgPci 6
  else
    match chooseVersion v with
    | none => s.setReg pcieDA pgPci 0x04C 2
    | some (major, minor) =>
      (s.setReg pcieDA pgPci 0x04C (1 + major * 2 ^ 2 + minor * 2 ^ 6)).setHost { s.host with kicked := s.boot.time }

/-- SESSION_REQUEST (R341). -/
def execSessionRequest (v : Word) (s : State) : Out := .next (s.requestSession v.toNat)

/-- CLOSE (R341). -/
def execClose (s : State) : Out := .next s.closeSession

/-- KICK (R342). -/
def State.kick (s : State) : State := s.setHost { s.host with kicked := s.boot.time }

def execKick (s : State) : Out := .next s.kick

/-- WATCHDOG_EXPIRY (R342): PERIOD ms have passed without a KICK. -/
def execWatchdogExpiry (s : State) : Out :=
  .next <|
    let w := s.reg pcieDA pgPci 0x054
    let period := bits w 15 0
    if period ≠ 0 ∧ s.host.kicked + period * 1400000 ≤ s.boot.time then
      let s := (s.closeSession.flag pcieDA pgPci 7).kick
      if bit w 16 then s.requestDisarm else s
    else s

/-! ### Mailbox (R345) -/

/-- An OP that the session's major version offers. -/
def opOffered (major op : Nat) : Bool := op == 1 || op == 3 || ((op == 2 || op == 4) && major == 2)

/-- GO in PCI_MBX_CMD. Without a session no command is accepted. -/
def State.mailboxGo (s : State) (op : Nat) : State :=
  if !s.sessionOpen then s
  else if s.host.mailbox.isSome then s.flag pcieDA pgPci 5
  else if opOffered s.sessionMajor op then s.setHost { s.host with mailbox := some op }
  else s.mbxRespond op 0x01 0

/-! ### Events (R343) -/

def evSlots (ctrl : Nat) : Nat := 2 ^ bits ctrl 3 0

/-- The ring has room: the entry before the next to consume stays empty. -/
def State.evRoom (s : State) : Bool :=
  let n := evSlots (s.reg pcieDA pgPci 0x060)
  (s.reg pcieDA pgPci 0x068 + 1) % n != s.reg pcieDA pgPci 0x064 % n

/-- The words of an event entry: eight under 2.x, four under 1.x. -/
def Event.bytes (e : Event) (phase : Bool) (major : Nat) : List Byte :=
  let w0 := e.code + 2 ^ 8 * boolNat phase + e.src % 2 ^ 8 * 2 ^ 16 + e.unit % 2 ^ 8 * 2 ^ 24
  let all := leBytes 4 w0 ++ [e.tick, e.w2, e.w3, e.w4, e.w5, e.w6, e.w7].flatMap fun w => leBytes 4 w.toNat
  all.take (if major = 2 then 32 else 16)

/-- MSI-X vector `n` is signalled, or pends while it is masked (R335, notes/assumptions/231.md). -/
def State.msix (s : State) (n : Nat) : State :=
  if s.host.msixMask.getLsbD n then s.setHost { s.host with msixPend := s.host.msixPend ||| BitVec.twoPow 32 n }
  else s.setHost { s.host with vectors := tput s.host.vectors n (tget s.host.vectors n 0 + 1) }

/-- The host address in a pair of registers, 4 KiB aligned. -/
def State.hostBase (s : State) (lo : Nat) : Nat :=
  s.reg pcieDA pgPci lo / 4096 * 4096 + 2 ^ 32 * s.reg pcieDA pgPci (lo + 4)

/-- One event is written to the ring. -/
def State.putEvent (s : State) (e : Event) : State :=
  let n := evSlots (s.reg pcieDA pgPci 0x060)
  let size := if s.sessionMajor = 2 then 32 else 16
  let head := s.reg pcieDA pgPci 0x068 % n
  let s := s.writeAll .host 0 (s.hostBase 0x058 + size * head) (e.bytes s.host.phase s.sessionMajor) false
  let next := (head + 1) % n
  let s := s.setReg pcieDA pgPci 0x068 next
  (s.setHost { s.host with phase := if next = 0 then !s.host.phase else s.host.phase }).msix 0

/-- EVENT_WRITE: the oldest held event is written while a session is open and the enabled ring has room. Under 1.x an event of
code 0x10 or above is not written. -/
def execEventWrite (s : State) : Out :=
  .next <|
    match s.host.held with
    | [] => s
    | e :: r =>
      if s.sessionOpen ∧ bit (s.reg pcieDA pgPci 0x060) 4 ∧ s.evRoom then
        let s := s.setHost { s.host with held := r }
        if s.sessionMajor = 2 ∨ e.code < 0x10 then s.putEvent e else s
      else s

/-! ### Link resets (R336, R369, R436) -/

/-- FLR (R336). -/
def execFlr (s : State) : Out := .next s.hostReset
/-- LINK_DOWN (R336). -/
def execLinkDown (s : State) : Out := .next s.linkLost
/-- D3HOT (R336). -/
def execD3hot (s : State) : Out := .next (s.hostReset.setHost { s.hostReset.host with d3 := true })
/-- PERST (R436). -/
def execPerst (s : State) : Out := .next s.linkLost

/-- PCIE_LINK_UP (R335): the link has trained at a generation 1 to 5 and a width of 1 to 16 lanes. From group 9 of the BIST
order on it stays down (R445). -/
def execPcieLinkUp (speed width : Nat) (s : State) : Out :=
  .next <|
    let ends := s.boot.power == .halted || (s.boot.power == .testing && s.boot.bistGroup == 9)
    if s.boot.porst ∨ ends ∨ speed = 0 ∨ 5 < speed ∨ !([1, 2, 4, 8, 16].contains width) then s
    else (s.setHost { s.host with linkUp := true }).setReg pcieDA pgPci 0x040 (speed + width * 2 ^ 3)

/-! ### DMA (R339, R340) -/

/-- Register offset `o` of channel `c`. -/
def dmaOff (c o : Nat) : Nat := 0x090 + 32 * c + o

def dmaOk (w : Nat → Nat) : Bool :=
  decide (bits (w 0) 2 1 < 2) && w 0 / 2 ^ 4 == 0 && w 5 / 2 ^ 24 == 0 && w 6 == 0 &&
  (if bits (w 0) 2 1 = 1 then decide (bits (w 5) 23 16 < 56) else bits (w 5) 23 16 == 0)

def State.dma (s : State) (ch : Nat) : Option DmaRun := tget s.host.dma ch none
def State.setDma (s : State) (ch : Nat) (v : Option DmaRun) : State := s.setHost { s.host with dma := tput s.host.dma ch v }

/-- The end of a descriptor: word 7 is written, the head advances, an error sets DMA_ERR, and with IRQ = 1 the event is posted. -/
def State.dmaEnd (s : State) (ch place index : Nat) (irq : Bool) (st ns : Nat) : State :=
  let size := 2 ^ bits (s.reg pcieDA pgPci (dmaOff ch 0x08)) 4 0
  let w7 := st + ns * 2 ^ 8
  let s := (s.setDma ch none).writeAll .host 0 (place + 28) (leBytes 4 w7) false
  let s := s.setReg pcieDA pgPci (dmaOff ch 0x10) ((index + 1) % size)
  let s := if ns ≠ 0 then s.flag pcieDA pgPci 2 else s
  if irq then
    (s.event { code := 0x01, src := pcieDA, unit := ch, tick := s.tickWord, w2 := BitVec.ofNat 32 index,
               w3 := BitVec.ofNat 32 w7 }).msix (1 + ch)
  else s

/-- A descriptor whose requests have all been answered ends. -/
def State.dmaSettle (s : State) (ch : Nat) (d : DmaRun) : State :=
  if d.run.done then
    s.dmaEnd ch d.place d.index (bit (d.words.getD 0 0) 3)
      (if d.run.status ≠ 0 ∨ d.failed then 2 else if d.run.psn ∨ d.poisoned then 1 else 0) d.run.status
  else s.setDma ch (some d)

/-- R339: the requests of a channel that can leave. -/
def State.dmaPump (s : State) (ch : Nat) : State :=
  match s.dma ch with
  | none => s
  | some d =>
    let r := s.ioSend pcieDA (1 + ch) d.run d.run.left
    r.1.dmaSettle ch { d with run := r.2 }

/-- The requests of a descriptor with words `w`. Host data is read as it is sent: a block whose completion has EP set is written
poisoned; of a completion with UR or CA no byte is stated, and it is written poisoned (R340). -/
def State.dmaReqs (s : State) (w : Nat → Nat) (ep err : List Nat) : List IoReq :=
  let n := w 1
  let h := w 2 + 2 ^ 32 * w 3
  let a := w 4 + 2 ^ 32 * bits (w 5) 15 0
  let die := if bits (w 0) 2 1 = 1 then some (bits (w 5) 23 16) else none
  if bit (w 0) 0 then readsOf die a n
  else (writesOf die a (s.bytesAt .host 0 h n)).zipIdx.map fun r =>
    if err.contains r.2 then { r.1 with psn := true, data := some (freeBytes (s.free + 256 * r.2) r.1.n) }
    else { r.1 with psn := ep.contains r.2 }

/-- DMA_DESCRIPTOR (R340): channel `ch` takes the descriptor at its head. One that is refused, or of length 0, ends at once; the
others move their data by requests. `ep` and `err` are the blocks of host data whose completions come with EP set and with UR or
CA. -/
def execDmaDescriptor (ch : Nat) (ep err : List Nat) (s : State) : Out :=
  .next <|
    let ctrl := s.reg pcieDA pgPci (dmaOff ch 0x08)
    let size := 2 ^ bits ctrl 4 0
    let head := s.reg pcieDA pgPci (dmaOff ch 0x10) % size
    let tail := s.reg pcieDA pgPci (dmaOff ch 0x0C) % size
    if 4 ≤ ch ∨ !bit ctrl 5 ∨ head = tail ∨ (s.dma ch).isSome then s
    else
      let place := s.hostBase (dmaOff ch 0x00) + 32 * head
      let w := fun i => s.word .host 0 (place + 4 * i)
      if !dmaOk w then s.dmaEnd ch place head (bit (w 0) 3) 2 0
      else if w 1 = 0 then s.dmaEnd ch place head (bit (w 0) 3) 0 0
      else
        let reqs := s.dmaReqs w ep err
        let out := !bit (w 0) 0
        let hit := fun (l : List Nat) => out && l.any fun i => decide (i < reqs.length)
        let d : DmaRun := { place := place, index := head, words := (List.range 8).map w, failed := hit err, poisoned := hit ep,
                            run := { left := reqs } }
        let s := if hit err then { s with free := s.free + 256 * reqs.length } else s
        (s.setDma ch (some d)).dmaPump ch

/-- R340: the granules of `n` bytes from device address `a` on that carry poison: where they lie in host memory from `h` on, and their
lengths. They go in TLPs with the EP bit set. -/
def epRuns (a h n : Nat) (psn : List Bool) : List (Nat × Nat) :=
  psn.zipIdx.filterMap fun x =>
    let lo := max a (a / 32 * 32 + 32 * x.2)
    let hi := min (a + n) (a / 32 * 32 + 32 * x.2 + 32)
    if x.1 then some (h + (lo - a), hi - lo) else none

/-- A response reaches a channel: what a read brings is written to host memory, and its poisoned granules with the EP bit (R340). -/
def State.dmaRsp (s : State) (ch : Nat) (p : Packet) : State :=
  match s.dma ch with
  | none => s
  | some d =>
    match d.run.asked p with
    | none => s
    | some a =>
      let w := fun i => d.words.getD i 0
      let base := w 4 + 2 ^ 32 * bits (w 5) 15 0
      let s := if p.opc = opRDR ∧ p.status = 0 then
          (s.writeAll .host 0 (w 2 + 2 ^ 32 * w 3 + (a - base)) p.data false).setHost
            { s.host with ep := epRuns a (w 2 + 2 ^ 32 * w 3 + (a - base)) p.data.length p.psn }
        else s
      s.dmaSettle ch { d with run := { d.run.answer p a with got := [] } }

end Sys2Proof.Machine
end

