-- ==== Sys2Proof/Machine/Tsn.lean ====
section
/-! DEFINITION. The plant Ethernet of E7 (R346 to R350): frames, gPTP, gates. -/

namespace Sys2Proof.Machine

def State.eth (s : State) (p : Nat) : EthPort := tget s.eths p {}
def State.setEth (s : State) (p : Nat) (v : EthPort) : State := { s with eths := tput s.eths p v }

def State.portCfg (s : State) (p : Nat) : Nat := s.reg tsnDA pgTsn (0x040 + 4 * p)

/-- The port is switched on and its link is up. -/
def State.portUp (s : State) (p : Nat) : Bool :=
  decide (p < 4) && s.pageEn tsnDA pgTsn && bits (s.portCfg p) 1 0 != 0 && bit (s.reg tsnDA pgTsn (0x050 + 4 * p)) 0

/-- PORT_LINK_CHANGE (R346). -/
def execPortLinkChange (port : Nat) (up : Bool) (s : State) : Out :=
  .next <|
    if 4 ≤ port ∨ (up ∧ bits (s.portCfg port) 1 0 = 0) then s
    else
      let off := 0x050 + 4 * port
      let v := s.reg tsnDA pgTsn off
      let s := s.setReg tsnDA pgTsn off (if up then setBit v 0 else clrBit v 0)
      if !up ∧ bit v 0 then s.flag tsnDA pgTsn 0 else s

/-! ### Rings (R347) -/

/-- DRAM address and entries of a port's ring; 0 transmit, 1 receive. -/
def State.ringOf (s : State) (p dir : Nat) : Nat × Nat :=
  let r := s.reg tsnDA pgTsn (0x0A0 + 8 * p + 4 * dir)
  (16384 * bits r 27 0, 2 ^ (bits r 31 28 + 4))

/-- The requests of a run of port `p` that can leave: receive is initiator `p`, transmit 4 + `p`. -/
def State.ethSend (s : State) (port : Nat) (x : EthRun) : State × EthRun :=
  let r := s.ioSend tsnDA port x.run x.run.left
  (r.1, { x with run := r.2 })

/-- Phase `phase` of a run begins with requests `l`. -/
def EthRun.go (x : EthRun) (phase : Nat) (l : List IoReq) : EthRun := { x with phase := phase, run := { left := l } }

/-- A word of the descriptor in hand, and the address of its buffer. -/
def EthRun.word (x : EthRun) (i : Nat) : Nat := word32At x.desc (4 * i)
def EthRun.buf (x : EthRun) : Nat := x.word 0 + 2 ^ 32 * bits (x.word 1) 9 0

/-- The address of the head descriptor; 0 transmit, 1 receive. -/
def State.headDesc (s : State) (p dir : Nat) : Nat :=
  (s.ringOf p dir).1 + 16 * (if dir = 1 then (s.eth p).rxHead else (s.eth p).txHead)

/-! Receive -/

/-- The receive run sends what it can. -/
def State.rxPump (s : State) (p : Nat) : State :=
  let x := s.eth p
  match x.rx, x.rxq with
  | none, [] => s
  | none, _ =>
    let r := s.ethSend p { run := { left := readsOf none (s.headDesc p 1) 16 } }
    r.1.setEth p { r.1.eth p with rx := some r.2 }
  | some e, _ =>
    let r := s.ethSend p e
    r.1.setEth p { r.1.eth p with rx := some r.2 }

/-- The frame in hand has left the receive run. -/
def State.rxNext (s : State) (p : Nat) : State := s.setEth p { s.eth p with rx := none, rxq := (s.eth p).rxq.drop 1 }

/-- A phase of the receive run is over: a frame without an owned descriptor is dropped; another is written to its buffer, then LEN,
the time stamp and OWN = 0. -/
def State.rxStep (s : State) (p : Nat) (e : EthRun) : State :=
  let f := ((s.eth p).rxq.head?).getD ([], 0)
  if e.phase = 1 then
    let e := { e with desc := e.run.bytes (s.headDesc p 1) 16 }
    if e.run.status ≠ 0 ∨ !bit (e.word 2) 31 then (s.rxNext p).flag tsnDA pgTsn 2
    else (s.setEth p { s.eth p with rx := some (e.go 2 (writesOf none e.buf f.1)) }).rxPump p
  else if e.phase = 2 then
    let w2 := clrBit (putBits (e.word 2) 13 0 f.1.length) 31
    (s.setEth p { s.eth p with
      rx := some (e.go 3 (writesOf none (s.headDesc p 1 + 8) (leBytes 4 w2 ++ leBytes 4 f.2.toNat))) }).rxPump p
  else
    let s := s.rxNext p
    s.setEth p { s.eth p with rxHead := ((s.eth p).rxHead + 1) % (s.ringOf p 1).2 }

/-- RX_FRAME: a frame without its FCS, and the low word of the gPTP time of its start. -/
def execRxFrame (port : Nat) (frame : List Byte) (time : Word) (s : State) : Out :=
  .next <|
    if !s.portUp port ∨ frame.isEmpty ∨ 9216 < frame.length then s
    else
      let x := s.eth port
      let s := s.setEth port { x with rxq := x.rxq ++ [(frame, time)] }
      if x.rx.isNone then s.rxPump port else s

/-! Transmit -/

/-- R350: core cycles for which the gate of a class stays open from the running entry on: none where it never closes. -/
def gateSpan (tc : Nat) : List (Nat × Nat) → Option Nat
  | [] => none
  | g :: r => if bit g.1 tc then (gateSpan tc r).map (· + g.2 * 7 / 5) else some 0

/-- Core cycles that a frame of `n` bytes takes on its lane: with preamble and FCS, at 10 or 25 Gb/s. -/
def State.frameCycles (s : State) (p n : Nat) : Nat :=
  ((max 60 n + 12) * (if bits (s.portCfg p) 1 0 = 2 then 448 else 1120) + 999) / 1000

/-- R350: a frame of traffic class `tc` may start: its gate is open and does not close before the frame is complete. -/
def State.gateFits (s : State) (p tc n : Nat) : Bool :=
  let x := s.eth p
  match gateSpan tc (x.gcl.drop x.gate ++ x.gcl.take x.gate) with
  | none => true
  | some k => decide (s.boot.time - x.gateAt + s.frameCycles p n ≤ k)

/-- A frame that waits starts once its gate lets it. -/
def State.txStart (s : State) (p : Nat) : State :=
  match (s.eth p).tx with
  | some e =>
    if e.phase = 3 ∧ s.portUp p ∧ s.gateFits p (bits (e.word 2) 16 14) e.data.length then
      s.setEth p { s.eth p with tx := some { e with phase := 4, began := s.boot.time } }
    else s
  | none => s

/-- The transmit run sends what it can. -/
def State.txPump (s : State) (p : Nat) : State :=
  match (s.eth p).tx with
  | some e =>
    let r := s.ethSend (4 + p) e
    (r.1.setEth p { r.1.eth p with tx := some r.2 }).txStart p
  | none => s

/-- A phase of the transmit run is over. A frame of LEN above 9,216 is not carried (R346): like LEN = 0 it only clears OWN
(notes/assumptions/232.md). -/
def State.txStep (s : State) (p : Nat) (e : EthRun) : State :=
  let a := s.headDesc p 0
  let keep := fun (e : EthRun) => (s.setEth p { s.eth p with tx := some e }).txPump p
  if e.phase = 1 then
    let e := { e with desc := e.run.bytes a 16 }
    let n := bits (e.word 2) 13 0
    if e.run.status ≠ 0 ∨ !bit (e.word 2) 31 then s.setEth p { s.eth p with tx := none }
    else if n = 0 ∨ 9216 < n then keep (e.go 5 (writesOf none (a + 8) (leBytes 4 (clrBit (e.word 2) 31))))
    else keep (e.go 2 (readsOf none e.buf n))
  else if e.phase = 2 then keep { e with phase := 3, data := e.run.bytes e.buf (bits (e.word 2) 13 0) }
  else s.setEth p { s.eth p with tx := none, txHead := ((s.eth p).txHead + 1) % (s.ringOf p 0).2 }

/-- TX_POLL: E7 reads the head transmit descriptor, every 1 µs while it finds OWN = 0. -/
def execTxPoll (port : Nat) (s : State) : Out :=
  .next <|
    let x := s.eth port
    if !s.portUp port ∨ x.tx.isSome ∨ s.boot.time < x.pollDue then s
    else
      (s.setEth port { x with
        tx := some { run := { left := readsOf none (s.headDesc port 0) 16 } }, pollDue := s.boot.time + 1400 }).txPump port

/-- TX_DONE: the frame has been sent; E7 writes the time stamp and clears OWN. -/
def execTxDone (port : Nat) (time : Word) (s : State) : Out :=
  .next <|
    match (s.eth port).tx with
    | some e =>
      if port < 4 ∧ e.phase = 4 ∧ e.began + s.frameCycles port e.data.length ≤ s.boot.time then
        let back := writesOf none (s.headDesc port 0 + 8) (leBytes 4 (clrBit (e.word 2) 31) ++ leBytes 4 time.toNat)
        (s.setEth port { s.eth port with tx := some (e.go 5 back) }).txPump port
      else s
    | none => s

/-- A response reaches port `port` of E7: 0 to 3 receive, 4 to 7 transmit. -/
def State.ethRsp (s : State) (port : Nat) (r : Packet) : State :=
  let p := port % 4
  let rx := decide (port < 4)
  match if rx then (s.eth p).rx else (s.eth p).tx with
  | none => s
  | some e =>
    match e.run.asked r with
    | none => s
    | some a =>
      let e := { e with run := e.run.answer r a }
      if e.run.done then if rx then s.rxStep p e else s.txStep p e
      else s.setEth p (if rx then { s.eth p with rx := some e } else { s.eth p with tx := some e })

/-- What the ports of E6 and E7 send in a core cycle. -/
def State.pumpPorts (s : State) : State :=
  let s := [0, 1, 2, 3].foldl (fun s ch => match s.dma ch with
    | some d => if d.run.left.isEmpty then s else s.dmaPump ch
    | none => s) s
  [0, 1, 2, 3].foldl (fun s p => (s.rxPump p).txPump p) s

/-! ### gPTP (R349, R35) -/

/-- NET_LOCK changes, and the host is told (event 0x12). -/
def State.setNetLock (s : State) (on : Bool) : State :=
  if s.pacer.netLock = on then s
  else (s.setPacer { s.pacer with netLock := on }).event
    { code := 0x12, src := pacerDA, unit := 0, tick := s.tickWord, w2 := BitVec.ofNat 32 (boolNat on) }

/-- The tick runs on the network source. -/
def State.onNetwork (s : State) : Bool := s.reg pacerDA pgTkc 0x050 % 2 == 1 && !s.pacer.offNetwork

/-- The network source is lost. -/
def State.sourceLost (s : State) : State :=
  let was := s.pacer.netLock
  let s := ((s.setPacer { s.pacer with syncGood := 0 }).setNetLock false).flag tsnDA pgTsn 1
  if was && s.onNetwork && (s.pacer.phase == .running || s.pacer.phase == .restarting) then
    (s.setPacer { s.pacer with offNetwork := true }).flag pacerDA pgTkc 5
  else s

/-- SYNC_MESSAGE: a Sync has arrived with a phase error of `err` ns. -/
def execSyncMessage (err : Int) (s : State) : Out :=
  .next <|
    let s := s.setReg tsnDA pgTsn 0x06C (wrap 32 err)
    let n := if -20 ≤ err ∧ err ≤ 20 then min 8 (s.pacer.syncGood + 1) else 0
    if err < -1000 ∨ 1000 < err then s.sourceLost
    else
      let s := s.setPacer { s.pacer with syncGood := n }
      if n = 8 then s.setNetLock true else s

/-- SYNC_TIMEOUT: three Sync intervals have passed without Sync. -/
def execSyncTimeout (s : State) : Out := .next s.sourceLost

/-- GATE_INTERVAL (R350): the interval of the running entry ends. -/
def execGateInterval (port : Nat) (s : State) : Out :=
  .next <|
    let x := s.eth port
    let span := ((x.gcl[x.gate]?).getD (0, 0)).2 * 7 / 5
    if 4 ≤ port ∨ x.gcl.isEmpty ∨ s.boot.time < x.gateAt + span then s
    else s.setEth port { x with gate := (x.gate + 1) % x.gcl.length, gateAt := s.boot.time }

end Sys2Proof.Machine
end

