-- ==== Sys2Proof/Machine/Dram.lean ====
section
/-! DEFINITION. The memory channels (R263 to R282): requests, service order, overdrafts, refresh, errors, scrub. -/

namespace Sys2Proof.Machine

/-! ### Channels -/

/-- A counter of a channel's page goes up by one. -/
def State.chCount (s : State) (ch off : Nat) : State := s.incReg (channelDA ch) (pgMch ch) off

def State.chFlag (s : State) (ch n : Nat) : State := s.flag (channelDA ch) (pgMch ch) n

/-- The meaning of a channel's own step. -/
def State.chStep (s : State) (ch : Nat) (body : Chan → State) : Out := .next (if s.chReady ch then body (s.chan ch) else s)

/-! ### Errors of a read (R274, R275, R278, R282) -/

/-- R275: an uncorrectable read of the burst at channel-local `l`: counted, recorded, charged to the channel; the kind of
the charge is not stated and is free. -/
def State.uncorrectable (s : State) (ch l : Nat) (scrub : Bool) : State :=
  let da := channelDA ch
  let pg := pgMch ch
  let s := (s.chFlag ch 1).chCount ch 0x084
  let s := if bit (s.reg da pg 0x098) 31 then s
    else (s.setReg da pg 0x094 (l % 2 ^ 32 / 64 * 64)).setReg da pg 0x098 (bits l 41 32 + 2 ^ 10 * boolNat scrub + 2 ^ 31)
  (s.charge da (ledgerRef da 0x08 (ch % 2)) (Config.freeNat s.free % 3) 0 noLoc).draw

/-- R275, R405: a corrected read charges each device located. -/
def State.chargeDevice (s : State) (ch l d : Nat) : State :=
  let inst := (8 * (ch % 2) + s.groupOf ch l) * 10 + d
  let loc := s.rowOf ch l % 2 ^ 17 + bits l 11 9 * 2 ^ 17 + bits l 8 7 * 2 ^ 20
  s.charge (channelDA ch) (ledgerRef (channelDA ch) 0x07 inst) ckCorrected 0 loc

def State.corrected (s : State) (ch l : Nat) (devs : List Nat) : State :=
  devs.foldl (fun s d => s.chargeDevice ch l d) ((s.chFlag ch 0).chCount ch 0x080)

/-- What a read of a burst gives: its data, nothing but poison, or wrong data. -/
inductive Found where
  | good | lost | wrong
deriving DecidableEq, Repr

/-- R274, R275, R278: a read of a burst whose symbols `bad` are delivered wrong. Where the spec says nothing of the errors, the decoder
detects them or takes them for those of some device, whose data then are free (notes/assumptions/200.md). -/
def State.readBurst (s : State) (ch l : Nat) (bad : List Nat) (scrub : Bool) : State × Found :=
  match decodeBurst (s.sparedDev (channelDA ch) (ch % 2) (s.groupOf ch l)) bad with
  | .clean => (s, .good)
  | .corrected devs => (s.corrected ch l devs, .good)
  | .detected => (s.uncorrectable ch l scrub, .lost)
  | .unstated =>
    if Config.freeBool s.free then (s.draw.uncorrectable ch l scrub, .lost)
    else (s.draw.draw.corrected ch l [Config.freeNat (s.free + 1) % 10], .wrong)

/-- R282: the injection that a page has armed: its kind and device. -/
def State.armedInject (s : State) (ch : Nat) : Nat × Nat :=
  let v := s.reg (channelDA ch) (pgMch ch) 0x01C
  if s.injectable && bit v 6 && !s.hostHolds (regKey (channelDA ch) (pgMch ch) 0x01C 0) then (bits v 1 0, bits v 5 2) else (0, 0)

/-- The injection has taken place. -/
def State.disarmInject (s : State) (ch : Nat) : State :=
  s.setReg (channelDA ch) (pgMch ch) 0x01C (clrBit (s.reg (channelDA ch) (pgMch ch) 0x01C) 6)

/-- The bursts of an access from channel-local `l` on: `bad` are the symbols delivered wrong in each of them; those for which `skip`
says so are not read. -/
def State.readBursts (s : State) (ch : Nat) : Nat → Nat → List (List Nat) → List Bool → State × List Found
  | 0, _, _, _ => (s, [])
  | n + 1, l, bad, skip =>
    let r := if skip.headD false then (s, .good) else s.readBurst ch l (bad.headD []) false
    let q := r.1.readBursts ch n (l + 64) bad.tail skip.tail
    (q.1, r.2 :: q.2)

/-- R282: the symbols that an armed injection makes wrong in the next burst read. -/
def State.injected (s : State) (ch : Nat) : List Nat :=
  match s.armedInject ch with
  | (1, d) => [8 * d]
  | (2, d) => [8 * d, 8 * ((d + 1) % 10)]
  | _ => []

/-- Symbols added to those wrong in the first burst that is read. -/
def injectInto (inj : List Nat) : List (List Nat) → List Bool → List (List Nat)
  | bad, true :: r => bad.headD [] :: injectInto inj bad.tail r
  | bad, _ => (bad.headD [] ++ inj) :: bad.tail

/-- R275, R282: what the bursts of an access of `n` bytes that are not skipped meet. -/
def State.readErrors (s : State) (ch l n : Nat) (bad : List (List Nat)) (skip : List Bool) : State × List Found :=
  let inj := s.injected ch
  let s := if inj.isEmpty || n == 0 || (skip != [] && skip.all id) then s else s.disarmInject ch
  s.readBursts ch ((l % 64 + n + 63) / 64) (l / 64 * 64) (injectInto inj bad skip) skip

/-- The answer of a read: its bytes, free in the bursts that were read wrong, and its marks. -/
def State.readAnswer (s : State) (m : MemReq) (f : List Found) : List Byte × List Bool :=
  let o := m.addr % 64
  (m.data.zipIdx.map fun x => if f.getD ((o + x.2) / 64) .good = .wrong then Config.freeByte (s.free + x.2) else x.1,
   m.psn.zipIdx.map fun x => x.1 || f.getD ((o / 32 + x.2) / 2) .good == .lost)

/-! ### Arrival (R263, R264, R266) -/

/-- R267: a valid MCH_RTP entry names a port. -/
def State.realTime (s : State) (ch da sport : Nat) : Bool :=
  (List.range 8).any fun i =>
    let v := s.reg (channelDA ch) (pgMch ch) (0x060 + 4 * i)
    bit v 12 && bits v 7 0 == da && bits v 11 8 == sport

/-- A request joins its queue. -/
def Chan.enqueue (x : Chan) (m : MemReq) (rt : Bool) : Chan :=
  let m := { m with order := x.nextOrder }
  let x := { x with nextOrder := x.nextOrder + 1 }
  if rt then { x with qr := x.qr ++ [m] }
  else if m.p.cls = 1 then { x with q1 := x.q1 ++ [{ m with first := x.q1.isEmpty }] }
  else { x with q2 := x.q2 ++ [m] }

/-- The bytes that a WR writes, none where its enable is 0. -/
def enabled (p : Packet) : List (Option Byte) :=
  p.data.zipIdx.map fun x => if p.byteEn.getLsbD (p.addr.toNat % 64 + x.2) then some x.1 else none

/-- R266: a request takes effect at its channel: a write is answered; a read takes its data; both await their commit. A failed channel
answers nothing (R277). -/
def State.memTake (s : State) (p : Packet) : State :=
  let a := p.addr.toNat
  let ch := s.channelOf a
  if !s.chReady ch then s
  else
    let l := s.localAddr a
    let rt := s.realTime ch p.src.toNat p.sport.toNat
    let m : MemReq := { order := 0, since := s.boot.time, p := p, addr := l, data := [], psn := [] }
    if p.opc = opWR then
      let m := { m with psn := s.psnList .dram 0 a p.len.toNat }
      let s := (s.dramWrite a (enabled p) p.psn).respond p 0 [] []
      s.setChan ch ((s.chan ch).enqueue m rt)
    else
      let n := p.len.toNat
      let m := { m with data := s.bytesAt .dram 0 a n, psn := s.psnList .dram 0 a n }
      s.setChan ch ((s.chan ch).enqueue m rt)

/-- R266: of requests that reach the ports in one cycle the lower SRC goes first, then the lower SPORT. -/
def insertMem (p : Packet) : List Packet → List Packet
  | [] => [p]
  | q :: r =>
    if p.src.toNat * 16 + p.sport.toNat < q.src.toNat * 16 + q.sport.toNat then p :: q :: r else q :: insertMem p r

/-- R266: the requests of the cycle take effect. -/
def State.takeMem (s : State) : State := s.memIn.foldl State.memTake { s with memIn := [] }

/-- R263, R266: a RD or WR with SPACE = DRAM reaches a memory die's port. It takes effect at the end of the cycle. -/
def State.memArrive (s : State) (p : Packet) : State :=
  let a := p.addr.toNat
  let ch := s.channelOf a
  let mine := decide (channelDA ch = p.dst.toNat)
  if p.cls = 0 then (if mine then s.chFlag ch 4 else s).respond p 4 [] []
  else if s.dramSize ≤ a ∨ !mine then s.respond p 4 [] []
  else { s with memIn := insertMem p s.memIn }

/-! ### Commit (R264, R265, R272, R273) -/

/-- A row is open in its bank. -/
def Chan.isOpen (x : Chan) (k : Nat) : Bool := tget x.openRows (k / 2 ^ 20) (2 ^ 20) == k % 2 ^ 20

/-- R273: the banks of rows that found the neighbour queue full take no further activate of Q2, QR or the scrub. -/
def Chan.held (x : Chan) (k : Nat) : Bool := !x.isOpen k && x.heldBanks.contains (k / 2 ^ 20)

/-- R272: the row of a bank's table with the lowest count, the lower row of two; and the rows that the bank's table holds. -/
def Chan.bankRows (x : Chan) (bank : Nat) : Table Nat := x.activates.filter fun e => e.1 / 2 ^ 20 == bank

def lowestRow (l : Table Nat) : Option (Nat × Nat) :=
  l.foldl (fun b e => match b with
    | none => some e
    | some y => if e.2 < y.2 then some e else some y) none

/-- R272: an activate of a row; a row that enters its bank's table takes the lowest count held plus one. The flag says that the row reached NRT with the queue full. -/
def Chan.activate (x : Chan) (nrt k : Nat) : Chan × Bool :=
  let x := { x with openRows := tput x.openRows (k / 2 ^ 20) (k % 2 ^ 20) }
  let rows := x.bankRows (k / 2 ^ 20)
  let (drop, count) := match tget? x.activates k with
    | some n => (none, n + 1)
    | none => match lowestRow rows with
      | some (r, n) => (if rows.length < 64 then none else some r, n + 1)
      | none => (none, 1)
  let t := match drop with | some r => x.activates.filter (fun e => e.1 != r) | none => x.activates
  if count < nrt then ({ x with activates := tput t k count }, false)
  else
    let x := { x with activates := t.filter fun e => e.1 != k }
    if x.neigh.length < 8 then ({ x with neigh := x.neigh ++ [k] }, false)
    else ({ x with throttled := if x.throttled.contains k then x.throttled else x.throttled ++ [k],
                   heldBanks := nadd x.heldBanks (k / 2 ^ 20) }, true)

/-- R276: the retry buffer keeps the last 64 commands; `o` is the arrival order of the request that these belong to. -/
def Chan.log (x : Chan) (o : Option Nat) (l : List DramCmd) : Chan :=
  let l := l.map fun c => (o, c)
  { x with issued := (x.issued ++ l).drop ((x.issued ++ l).length - 64), unsure := min 64 (x.unsure + l.length) }

/-- R276: a request has completed, and with it every command up to its last one. -/
def Chan.sure (x : Chan) (o : Nat) : Chan :=
  { x with unsure := ((x.issued.reverse.take x.unsure).takeWhile fun c => c.1 != some o).length }

/-- A row that is not open is activated, for the request `o`. -/
def State.openRow (s : State) (ch k : Nat) (o : Option Nat) : State :=
  let x := s.chan ch
  if x.isOpen k then s
  else
    let (x, full) := x.activate (s.reg (channelDA ch) (pgMch ch) 0x050) k
    let s := s.setChan ch (x.log o [.act k])
    if full then s.chFlag ch 6 else s

/-- The burst of a WR at channel-local `b` that is not written whole (R264). -/
def partialBurst (m : MemReq) (b : Nat) : Bool :=
  let e := enabled m.p
  (List.range 64).any fun j => !(decide (m.addr ≤ b + j) && (e.getD (b + j - m.addr) none).isSome)

/-- The bursts of a request, by channel-local address. -/
def MemReq.bursts (m : MemReq) : List Nat :=
  (List.range ((m.addr % 64 + max 1 m.p.len.toNat + 63) / 64)).map fun i => m.addr / 64 * 64 + 64 * i

/-- R264: the committed accesses that a request counts as. -/
def MemReq.weight (m : MemReq) : Nat :=
  (m.bursts.map fun b => if m.p.opc = opWR ∧ partialBurst m b then 2 else 1).sum

/-- R276: the commands of a request are issued: each of its bursts in its open row. -/
def State.issueReq (s : State) (ch : Nat) (m : MemReq) : State :=
  m.bursts.foldl (fun s b =>
    let s := s.openRow ch (s.rowKey ch b) (some m.order)
    let rmw := if partialBurst m b then [DramCmd.rd b] else []
    s.setChan ch ((s.chan ch).log (some m.order) (if m.p.opc = opWR then rmw ++ [.wr b] else [.rd b]))) s

/-- R276: the data of the last 32 writes. -/
def Chan.keepWrite (x : Chan) (m : MemReq) : Chan :=
  if m.p.opc = opWR then { x with written := (x.written ++ [(m.addr, m.p.data)]).drop (x.written.length + 1 - 32) } else x

/-- The rows of a request: one for each of its bursts. -/
def State.rowsOf (s : State) (ch : Nat) (m : MemReq) : List Nat := m.bursts.map (s.rowKey ch)

/-- The oldest of a list of requests. -/
def oldest (l : List MemReq) : Option MemReq :=
  l.foldl (fun b m => match b with
    | none => some m
    | some y => if m.order < y.order then some m else some y) none

/-- R264: the oldest candidate, or the oldest younger one that hits open rows: which of the two is free, four times in a row at
most. The flag says that a hit went first. -/
def State.pick (s : State) (ch hits : Nat) (l : List MemReq) : Option (MemReq × Bool) :=
  match oldest l with
  | none => none
  | some m =>
    match oldest (l.filter fun y => decide (m.order < y.order) && (s.rowsOf ch y).all (s.chan ch).isOpen) with
    | some y => if hits < 4 ∧ Config.freeBool s.free then some (y, true) else some (m, false)
    | none => some (m, false)

/-- R264, R265: the request that is committed next, the rule that commits it, and whether it went ahead of an older one. -/
def State.nextCommit (s : State) (ch : Nat) : Option (MemReq × Nat × Bool) :=
  let x := s.chan ch
  let may := fun (m : MemReq) => !(s.rowsOf ch m).any x.held
  let by_ := fun (n : Nat) (o : Option MemReq) => o.map fun m => (m, n, false)
  let from_ := fun (n : Nat) (o : Option (MemReq × Bool)) => o.map fun m => (m.1, n, m.2)
  let qr := x.qr.filter may
  let q2 := x.q2.filter may
  let ovd := qr.filter fun m => match x.granted with
    | some o => m.p.src.toNat == o.da && m.p.sport.toNat == o.sport
    | none => false
  (by_ 1 (oldest ovd)).orElse fun _ => (by_ 2 (oldest x.q1)).orElse fun _ =>
  (from_ 3 (s.pick ch x.hits (qr ++ q2.filter (·.aged)))).orElse fun _ => from_ 4 (s.pick ch x.hits4 q2)

/-- R264: at most 16 committed accesses go ahead of a request that is committed. -/
def Chan.hasRoom (x : Chan) : Bool := decide ((x.committed.map MemReq.weight).sum ≤ 16)

/-- A request leaves its queue for the committed ones; the younger hits of rules 3 and 4 are counted, each rule's apart. -/
def Chan.commit (x : Chan) (m : MemReq) (rule : Nat) (hit : Bool) : Chan :=
  let gone := fun (l : List MemReq) => l.filter fun y => y.order != m.order
  let count := fun (n : Nat) => if hit then n + 1 else 0
  { x with
    q1 := gone x.q1, qr := gone x.qr, q2 := gone x.q2, committed := x.committed ++ [m],
    hits := if rule = 3 then count x.hits else x.hits, hits4 := if rule = 4 then count x.hits4 else x.hits4,
    barrier := x.barrier.filter (· != m.order) }

/-- R268: an overdraft ends; the Q1 requests then queued go before the next grant. -/
def Chan.endOverdraft (x : Chan) : Chan := { x with granted := none, barrier := x.q1.map (·.order) }

/-- R269: the longest wait of a class 1 request that found Q1 empty. -/
def State.recordWait (s : State) (ch : Nat) (m : MemReq) : State :=
  let w := min 0xFFFF (s.boot.time - m.since)
  if m.first && decide (s.reg (channelDA ch) (pgMch ch) 0x0A0 < w) then s.setReg (channelDA ch) (pgMch ch) 0x0A0 w else s

/-- R282: the next command carries a CA parity error that the page has armed: the module asserts ALERT_n. -/
def State.injectCommand (s : State) (ch : Nat) : State :=
  if (s.armedInject ch).1 = 3 then
    let s := s.disarmInject ch
    s.setChan ch { s.chan ch with alerted := true, openRows := [] }
  else s

/-- A write writes the byte at a channel-local address. -/
def MemReq.writes (m : MemReq) (l : Nat) : Bool := decide (m.addr ≤ l) && ((enabled m.p).getD (l - m.addr) none).isSome

/-- R266, R275: the burst `b` that the partial write `m` read was lost: a request behind it, with no write of the whole burst between
them, finds it poisoned. -/
def MemReq.loses (m : MemReq) (b : Nat) (r : MemReq) : MemReq :=
  if m.order < r.order ∧ !(m.whole.any fun e => e.1 == b && decide (e.2 ≤ r.order)) then
    { r with psn := r.psn.zipIdx.map fun x => x.1 || (r.addr / 32 + x.2) / 2 == b / 64 }
  else r

/-- R266, R275: the burst `b` that the partial write `m` read was wrong: of the bytes that neither `m` nor a write between them gave, a
request behind it has read the free values `v`. -/
def MemReq.misreads (m : MemReq) (b : Nat) (v : Nat → Byte) (r : MemReq) : MemReq :=
  if m.order < r.order then
    { r with data := r.data.zipIdx.map fun x =>
        let l := r.addr + x.2
        if l / 64 = b / 64 && !m.writes l && !(m.later.any fun e => e.1 == l && decide (e.2 ≤ r.order)) then v (l % 64) else x.1 }
  else r

/-- R266, R275: a burst that a partial write read wrong keeps none of the bytes that neither it nor a later write has written: lost, it
is poisoned, but where a later write has written it whole; wrong, those bytes are free and its marks stay. -/
def State.spoilBurst (s : State) (ch : Nat) (m : MemReq) (b : Nat) (f : Found) : State :=
  let a := s.physAddr ch b
  match f with
  | .good => s
  | .lost =>
    let s := s.setChan ch ((s.chan ch).mapReqs (m.loses b))
    if m.whole.any fun e => e.1 == b then s
    else { s with poison := nadd (nadd s.poison (gGran .dram 0 a)) (gGran .dram 0 (a + 32)) }
  | .wrong =>
    let v := fun j => Config.freeByte (s.free + j)
    let s := s.setChan ch ((s.chan ch).mapReqs (m.misreads b v))
    let keep := fun j => m.writes (b + j) || m.later.any fun e => e.1 == b + j
    (s.write .dram 0 a ((List.range 64).map fun j => if keep j then none else some (v j)) (s.psnList .dram 0 a 64)).draw

/-- The oldest committed request completes: a read is answered (R266); a partial write has read its bursts (R264, R275), and a burst
with the poison pattern among them sets UE (R282). `bad` are the
symbols delivered wrong in each of its bursts. -/
def State.completeReq (s : State) (ch : Nat) (bad : List (List Nat)) : State :=
  let x := s.chan ch
  match x.committed with
  | [] => s
  | m :: r =>
    let s := (s.setChan ch (({ x with committed := r } : Chan).sure m.order)).recordWait ch m
    let n := m.p.len.toNat
    if m.p.opc = opRD then
      let q := s.readErrors ch m.addr n bad []
      let s := if m.psn.any id then q.1.chFlag ch 1 else q.1
      let a := s.readAnswer m q.2
      s.draw.respond m.p 0 a.1 a.2
    else if n = 0 then s
    else
      let q := s.readErrors ch m.addr n bad (m.bursts.map fun b => !partialBurst m b)
      let marked := fun b => m.psn.zipIdx.any fun x => x.1 && (m.addr / 32 + x.2) / 2 == b / 64
      let s := if m.bursts.any fun b => partialBurst m b && marked b then q.1.chFlag ch 1 else q.1
      (m.bursts.zip q.2).foldl (fun s y => s.spoilBurst ch m y.1 y.2) s

/-- DRAM_COMMIT: the oldest committed requests complete, one for each element of `done`; then the next request is committed where the
committed ones leave room. -/
def execDramCommit (ch : Nat) (done : List (List (List Nat))) (s : State) : Out :=
  s.chStep ch fun x =>
    if x.alerted then s
    else
      let s := done.foldl (fun s bad => s.completeReq ch bad) s
      let x := s.chan ch
      match if x.hasRoom then s.nextCommit ch else none with
      | none => s
      | some (m, rule, hit) =>
        let x := (x.commit m rule hit).keepWrite m
        let more := fun (o : Overdraft) => x.qr.any fun y => y.p.src.toNat == o.da && y.p.sport.toNat == o.sport
        let x := match x.granted with | some o => if more o then x else x.endOverdraft | none => x
        ((s.setChan ch x).draw.issueReq ch m).injectCommand ch

/-- REQUEST_AGED (R264): request `i` of Q2. -/
def execRequestAged (ch i : Nat) (s : State) : Out :=
  s.chStep ch fun x =>
    let age := 64 * (s.reg (channelDA ch) (pgMch ch) 0x04C % 2 ^ 8)
    match x.q2[i]? with
    | some m => if age ≠ 0 ∧ m.since + age ≤ s.boot.time then s.setChan ch { x with q2 := x.q2.set i { m with aged := true } } else s
    | none => s

/-! ### Overdrafts (R267, R268) -/

/-- RAISE in MCH_OVD. -/
def State.raiseOverdraft (s : State) (ch da sport : Nat) : State :=
  let x := s.chan ch
  let same := fun (o : Overdraft) => o.da == da && o.sport == sport
  if !s.realTime ch da sport || (x.granted.map same).getD false || x.pendOvd.any same then s.chFlag ch 5
  else s.setChan ch { x with pendOvd := x.pendOvd ++ [{ da := da, sport := sport }] }

/-- END in MCH_OVD. -/
def State.endOverdraft (s : State) (ch da sport : Nat) : State :=
  let x := s.chan ch
  match x.granted with
  | some o => if o.da = da ∧ o.sport = sport then s.setChan ch x.endOverdraft else s
  | none => s

/-- RAISE (R267). -/
def execOvdRaise (ch da sport : Nat) (s : State) : Out := .next (if ch < 12 then s.raiseOverdraft ch da sport else s)
/-- OVERDRAFT_END (R268). -/
def execOverdraftEnd (ch da sport : Nat) (s : State) : Out := .next (if ch < 12 then s.endOverdraft ch da sport else s)

/-- OVERDRAFT_GRANT (R268). -/
def execOverdraftGrant (ch : Nat) (s : State) : Out :=
  s.chStep ch fun x =>
    match x.pendOvd with
    | [] => s
    | o :: r =>
      if x.granted.isNone ∧ x.barrier = [] then
        (s.setChan ch { x with granted := some { o with since := s.boot.time }, pendOvd := r }).chCount ch 0x08C
      else s

/-- OVERDRAFT_EXPIRY (R268): 800 ns, 1,120 core cycles, after the grant. -/
def execOverdraftExpiry (ch : Nat) (s : State) : Out :=
  s.chStep ch fun x =>
    match x.granted with
    | some o => if o.since + 1120 ≤ s.boot.time then s.setChan ch x.endOverdraft else s
    | none => s

/-! ### Refresh (R271, R272) -/

/-- The debt rises by one; MCH_DEBT_MAX keeps the highest. -/
def State.addDebt (s : State) (ch : Nat) : State :=
  let x := s.chan ch
  let d := x.debt + 1
  let s := s.setChan ch { x with debt := d }
  if s.reg (channelDA ch) (pgMch ch) 0x09C < d then s.setReg (channelDA ch) (pgMch ch) 0x09C (min 7 d) else s

/-- tREFI (R260): 1,950 ns in core cycles. -/
def tRefi : Nat := 2730

/-- REFRESH_DUE: a refresh falls due, every tREFI. -/
def execRefreshDue (ch : Nat) (s : State) : Out :=
  s.chStep ch fun x =>
    if x.nextDue ≤ s.boot.time then
      (s.setChan ch { x with dueRefresh := x.dueRefresh + 1, nextDue := x.nextDue + tRefi }).addDebt ch
    else s

/-- R271: a refresh-class operation may start. -/
def Chan.mayRefresh (x : Chan) : Bool :=
  !x.alerted && ((x.q1.isEmpty && x.committed.isEmpty && decide (0 < x.debt)) || decide (4 ≤ x.debt))

/-- R272, R273: the oldest queued row is served: a row that found the queue full takes its place, and the held banks are free. -/
def Chan.serveRow (x : Chan) : Chan :=
  { x with neigh := x.neigh.drop 1 ++ x.throttled.take 1, throttled := x.throttled.drop 1, heldBanks := [] }

/-- R271: a refresh-class operation starts, a due refresh before a granted neighbour refresh; the rows are closed. -/
def State.startRefresh (s : State) (ch : Nat) : State :=
  let x := s.chan ch
  let x' := ({ x with debt := x.debt - 1, openRows := [] } : Chan).log none [.ref]
  if !x.mayRefresh then s
  else if 0 < x.dueRefresh then (s.setChan ch { x' with dueRefresh := x.dueRefresh - 1 }).injectCommand ch
  else if 0 < x.granting then
    ((s.setChan ch { x'.serveRow with granting := x.granting - 1 }).chCount ch 0x090).injectCommand ch
  else s

/-- REFRESH_START. -/
def execRefreshStart (ch : Nat) (s : State) : Out := s.chStep ch fun _ => s.startRefresh ch

/-- NEIGHBOUR_REFRESH: a queued row is granted its DRFMab, one in tREFI; it is issued at once where no due refresh goes before it and
it may start. -/
def execNeighbourRefresh (ch : Nat) (s : State) : Out :=
  s.chStep ch fun x =>
    let spaced := match x.lastNeigh with | some n => decide (n + tRefi ≤ s.boot.time) | none => true
    if x.granting < x.neigh.length ∧ spaced = true then
      let s := (s.setChan ch { x with granting := x.granting + 1, lastNeigh := some s.boot.time }).addDebt ch
      if x.dueRefresh = 0 then s.startRefresh ch else s
    else s

/-- ACTIVATE_TABLE_CLEAR (R272): every 32 ms, 44,800,000 core cycles. -/
def execActivateTableClear (ch : Nat) (s : State) : Out :=
  s.chStep ch fun x =>
    if x.tableDue ≤ s.boot.time then s.setChan ch { x with activates := [], tableDue := x.tableDue + 44800000 } else s

/-! ### Replays (R276, R277) -/

/-- ALERT: the module asserts ALERT_n; every bank is precharged. -/
def execAlert (ch : Nat) (s : State) : Out :=
  s.chStep ch fun x => s.setChan ch { x with alerted := true, openRows := [] }

/-- R276: a command of the retry buffer is issued again: a read or a write in its row, which the precharge has closed, an activate, or a
refresh-class operation. -/
def State.reissue (s : State) (ch : Nat) (c : Option Nat × DramCmd) : State :=
  match c.2 with
  | .act k => s.openRow ch k c.1
  | .rd b => let s := s.openRow ch (s.rowKey ch b) c.1; s.setChan ch ((s.chan ch).log c.1 [.rd b])
  | .wr b => let s := s.openRow ch (s.rowKey ch b) c.1; s.setChan ch ((s.chan ch).log c.1 [.wr b])
  | .ref => s.setChan ch (({ s.chan ch with openRows := [] } : Chan).log c.1 [.ref])

/-- R276: every command from the oldest one not known to have completed is issued again. -/
def State.reissueAll (s : State) (ch : Nat) : State :=
  let x := s.chan ch
  (x.issued.drop (x.issued.length - x.unsure)).foldl (fun s c => s.reissue ch c)
    (s.setChan ch { x with issued := x.issued.take (x.issued.length - x.unsure), unsure := 0 })

/-- REPLAY: a replay ends: every command that is not known to be complete has been issued again, from banks that were precharged, and the
command that failed has gone through or has failed again; it fails where the page has armed a parity error of the next command (R282).
The third failure in a row fails the channel. -/
def execReplay (ch : Nat) (ok : Bool) (s : State) : Out :=
  s.chStep ch fun x =>
    if !x.alerted then s
    else
      let s := (s.chFlag ch 2).chCount ch 0x088
      let s := s.setChan ch { s.chan ch with replayed := s.tick :: (s.chan ch).replayed }
      let hit := (s.armedInject ch).1 == 3 && x.unsure != 0
      let s := (if hit then s.disarmInject ch else s).reissueAll ch
      let x := s.chan ch
      if ok && !hit then s.setChan ch { x with alerted := false, replays := 0 }
      else if x.replays < 2 then s.setChan ch { x with replays := x.replays + 1, openRows := [] }
      else
        let da := channelDA ch
        ((s.setChan ch { x with step := 6, alerted := false, replays := 0 }).chFlag ch 3).report da 2 0x0B
          (ledgerRef da 0x08 (ch % 2)) ch

/-! ### Patrol scrub (R279) and temperature (R281, R429) -/

/-- Bytes of one module. -/
def State.moduleSize (s : State) : Nat := s.dramSize / 12

/-- R279: the time at which the scrub's next burst is due: the bursts of a pass lie evenly over SCRUB hours. -/
def State.scrubDue (s : State) (ch : Nat) : Nat :=
  let x := s.chan ch
  let hours := s.reg (channelDA ch) (pgMch ch) 0x054 % 2 ^ 8
  x.scrubFrom + x.scrubNext * (hours * 5040000000000) / (s.moduleSize / 64)

/-- The scrub goes on to its next burst; after the last one its next pass begins. -/
def State.scrubNext (s : State) (ch : Nat) : State :=
  let x := s.chan ch
  if x.scrubNext + 1 < s.moduleSize / 64 then s.setChan ch { x with scrubNext := x.scrubNext + 1 }
  else
    let hours := s.reg (channelDA ch) (pgMch ch) 0x054 % 2 ^ 8
    s.setChan ch { x with scrubNext := 0, scrubFrom := x.scrubFrom + hours * 5040000000000 }

/-- PATROL_SCRUB: the scrub reads its next burst, in which the symbols `bad` are delivered wrong. -/
def execPatrolScrub (ch : Nat) (bad : List Nat) (s : State) : Out :=
  s.chStep ch fun x =>
    let l := 64 * x.scrubNext
    let k := s.rowKey ch l
    if x.alerted || !x.q1.isEmpty || !x.qr.isEmpty || !x.q2.isEmpty || x.held k ||
        s.reg (channelDA ch) (pgMch ch) 0x054 % 2 ^ 8 == 0 || decide (s.boot.time < s.scrubDue ch) then s
    else
      let a := s.physAddr ch l
      let s := (s.scrubNext ch).openRow ch k none
      let s := (s.setChan ch ((s.chan ch).log none [.rd l])).injectCommand ch
      let inj := s.injected ch
      let s := if inj.isEmpty then s else s.disarmInject ch
      let (s, f) := s.readBurst ch l (bad ++ inj) true
      let s := if s.psn .dram 0 a then s.chFlag ch 1 else s
      match f with
      | .good => s
      | .lost => { s with poison := nadd (nadd s.poison (gGran .dram 0 a)) (gGran .dram 0 (a + 32)) }
      | .wrong =>
        (s.write .dram 0 a ((List.range 64).map fun j => some (Config.freeByte (s.free + j))) (s.psnList .dram 0 a 64)).draw

/-- MODULE_TEMPERATURE: every 16 ms, 22,400,000 core cycles, the memory die reads `degC` degrees. -/
def execModuleTemperature (ch : Nat) (degC : Int) (s : State) : Out :=
  .next <|
    let x := s.chan ch
    if 12 ≤ ch ∨ s.boot.time < x.tempDue then s
    else
      let hot := decide (95 < degC)
      let s := s.setChan ch { x with degC := degC, modHot := hot, tempDue := s.boot.time + 22400000 }
      let s := if hot then s.chFlag ch 7 else s
      if hot && !x.modHot then s.warnEvent (channelDA ch) (8 * degC) else s

end Sys2Proof.Machine
end

