-- ==== Sys2Proof/Machine/Fabric.lean ====
section
/-! DEFINITION. The logic fabric (R283 to R308): partial reconfiguration, ports, block memories, configuration scrub. What the
logic of a region does reaches the model as the operands of the commands (notes/assumptions/30.md). -/

namespace Sys2Proof.Machine

/-- Region `r` of fabric die `f` exists. -/
def regionOk (f r : Nat) : Bool := decide (f < 24) && decide (r < 16)

def State.fabStep (s : State) (f r : Nat) (body : Region → State) : Out :=
  .next (if regionOk f r && s.pageEn (fabricDA f) (pgFab r) && s.pageEn (fabricDA f) pgFabDie then body (s.region f r) else s)

/-! ### Commands (R302, R303) -/

/-- CMD_REFUSED. -/
def State.fabRefuse (s : State) (f r : Nat) : State := s.flag (fabricDA f) (pgFab r) 0

/-- The segment of a variant that the image holds, with its number. -/
def State.variantSeg (s : State) (f r v : Nat) : Option (SegEnt × Nat) :=
  s.keeper.segs.zipIdx.find? fun x =>
    x.1.typ == 9 && x.1.dakind && x.1.die == fabricDA f && x.1.unit == r && x.1.variant == v

/-- R370: a variant is read from flash, or from the host address of an image that was not written to flash. -/
def State.variantBytes (s : State) (g : SegEnt) : List Byte :=
  (s.setKeeper { s.keeper with source := s.keeper.source && !s.keeper.writeFlash }).stored g

/-- What the segment of a variant declares, and its bytes, where it passes its check (R304 step 1). -/
def State.variantDecl (s : State) (x : SegEnt × Nat) : Option (RegionDecl × List Byte) :=
  let b := s.variantBytes x.1
  if sha384 b = s.keeper.digests.getD x.2 [] then
    (s.payload x.2 b).bind fun p =>
      let d := Config.regionDecl p
      if declOk x.1.die p d then some (d, p) else none
  else none

/-- R303: the configuration gives region `r` no fixed use that variant 0 does not have. -/
def State.keepsUse (s : State) (f r : Nat) (d : RegionDecl) : Bool :=
  (s.fixedNames f d).all (s.fixedNames f (s.region f r).base).contains

/-- R303: commands that are refused whatever they ask: a full queue, a load, and while the tick is not disarmed those of a
region with fixed use. -/
def State.fabBusy (s : State) (f r : Nat) : Bool :=
  decide (5 ≤ (s.fab f).queue.length) || s.loadRunning || (!s.disarmed && (s.region f r).fixed)

/-- R300, R303: the variant uses a retired block memory. -/
def State.usesRetired (s : State) (f : Nat) (x : SegEnt × Nat) : Bool :=
  match s.variantDecl x with
  | some (d, _) => d.brams.any fun b => (s.fab f).bramRetired.contains b
  | none => false

/-- R304 step 2: isolation begins. -/
def State.isolate (s : State) (f r : Nat) : State :=
  s.setRegion f r { s.region f r with phase := .isolating, isolated := s.boot.time, ran := (s.region f r).runs, drained := none }

/-- R304: cycle 2 of the isolation: the stop-source nets are clamped, and every request that the logic has not answered is answered
REGION_ABSENT. -/
def State.isolateOutputs (s : State) (f r : Nat) : State :=
  ((s.region f r).decl.ports.filter fun d => decide (d.port < 64)).foldl (fun s d =>
    let s := (s.fport f d.port).reqs.foldl (fun s q => s.respond q.p 3 [] []) s
    s.setFport f d.port { s.fport f d.port with reqs := [] }) (s.clampCells f r true)

/-- The configuration port takes the command at the front of its queue. -/
def State.serve (s : State) (f : Nat) : State :=
  match (s.fab f).queue with
  | [] => s
  | (r, some v) :: _ =>
    let x := s.region f r
    s.setRegion f r { x with phase := .verifying, before := x.phase, target := some v }
  | (r, none) :: _ => (s.setRegion f r { s.region f r with target := none }).isolate f r

/-- A command is queued, and served at once where the port is free. -/
def State.fabQueue (s : State) (f : Nat) (c : Nat × Option Nat) : State :=
  let q := (s.fab f).queue
  let s := s.setFab f { s.fab f with queue := q ++ [c] }
  if q.isEmpty then s.serve f else s

/-- The command in service ends. -/
def State.fabNext (s : State) (f : Nat) : State :=
  (s.setFab f { s.fab f with queue := (s.fab f).queue.drop 1 }).serve f

/-- LOAD (R302 to R304). -/
def State.fabLoadCmd (s : State) (f r v : Nat) : State :=
  match s.variantSeg f r v with
  | none => s.fabRefuse f r
  | some x => if s.fabBusy f r || s.usesRetired f x then s.fabRefuse f r else s.fabQueue f (r, some v)

def execFabLoad (f r v : Nat) (s : State) : Out := s.fabStep f r fun _ => s.fabLoadCmd f r v

/-- UNLOAD (R302 to R304). -/
def State.fabUnloadCmd (s : State) (f r : Nat) : State :=
  if s.fabBusy f r then s.fabRefuse f r else s.fabQueue f (r, none)

def execFabUnload (f r : Nat) (s : State) : Out := s.fabStep f r fun _ => s.fabUnloadCmd f r

/-! ### Phases (R304) -/

/-- The region that the configuration port serves is in a phase. -/
def State.servingIn (s : State) (f r : Nat) (ph : RegPhase) : Bool :=
  ((s.fab f).queue.head?.map (·.1)) == some r && (s.region f r).phase == ph

/-- VARIANT_VERIFIED: the check of the segment ends; `read` says that its bytes could be read (R370). A variant with a fixed use that
variant 0 does not have fails it (R303). -/
def execVariantVerified (f r : Nat) (read : Bool) (s : State) : Out :=
  s.fabStep f r fun x =>
    if !s.servingIn f r .verifying then s
    else
      match ((if read then x.target.bind fun v => s.variantSeg f r v else none).bind s.variantDecl).filter fun y => s.keepsUse f r y.1 with
      | some (d, b) => ((s.setRegion f r { x with phase := x.before, next := d, nextCfg := b }).isolate f r)
      | none => ((s.flag (fabricDA f) (pgFab r) 1).setRegion f r { x with phase := x.before, target := none }).fabNext f

/-- The initiator ports of a region. -/
def Region.initiators (x : Region) : List Nat := (x.decl.ports.filter fun d => decide (64 ≤ d.port)).map (·.port)

/-- R304: 12 cycles after the drain the isolation is complete: the border inputs are clamped; a variant is loaded next, and an unloaded
region is absent. -/
def State.isolationDone (s : State) (f r : Nat) : State :=
  let x := s.region f r
  match x.target with
  | some _ => s.setRegion f r { x with phase := .loading, loading := s.boot.time, strobes := [], drained := none }
  | none => ((s.setRegion f r { x with phase := .absent, strobes := [], drained := none }).dropCells f r).fabNext f

/-- DRAIN_END: no initiator request of the region is outstanding, or NI_TIMEOUT has passed since the drain began. The ports of the region
lose what they held; its tracks are gated 4 cycles and its inputs are clamped 12 cycles later. -/
def execDrainEnd (f r : Nat) (s : State) : Out :=
  s.fabStep f r fun x =>
    let idle := x.initiators.all fun p => (s.fport f p).reqs.isEmpty
    if s.servingIn f r .isolating && x.drained.isNone && decide (x.isolated + 2 ≤ s.boot.time) &&
        (idle || decide (x.isolated + 2 + s.niTimeout (fabricDA f) ≤ s.boot.time)) then
      let s := x.decl.ports.foldl (fun s d => s.setFport f d.port { s.fport f d.port with reqs := [], rsp := [] }) s
      s.setRegion f r { x with drained := some s.boot.time }
    else s

/-- Core cycles that `n` bytes take at 6.4 GB/s. -/
def loadCycles (n : Nat) : Nat := (7 * n + 31) / 32

/-- 50 ms. -/
def loadLimit : Nat := 70000000

/-- The bytes of the segment that is loaded. -/
def State.targetLen (s : State) (f r : Nat) : Nat :=
  (((s.region f r).target.bind fun v => s.variantSeg f r v).map fun g => g.1.length).getD 0

/-- LOADING_DONE: the segment is written: every flip-flop holds its INIT value, every block memory its contents; the tracks take the settings of the variant. -/
def execLoadingDone (f r : Nat) (s : State) : Out :=
  s.fabStep f r fun x =>
    if s.servingIn f r .loading && decide (x.loading + loadCycles (s.targetLen f r) ≤ s.boot.time) &&
        decide (s.boot.time ≤ x.loading + loadLimit) then
      ((s.setRegion f r { x with phase := .releasing, releasing := s.boot.time }).setLogic f r {
        sampled := (s.regionLogic f r).sampled }).setTracks f r x.next
    else s

/-- LOAD_TIMEOUT: loading has not ended after 50 ms; the region has failed and stays isolated. -/
def execLoadTimeout (f r : Nat) (s : State) : Out :=
  s.fabStep f r fun x =>
    if s.servingIn f r .loading && decide (x.loading + loadLimit < s.boot.time) then
      (((s.setRegion f r { x with phase := .failed }).dropCells f r).flag (fabricDA f) (pgFab r) 2).fabNext f
    else s

/-- Core cycles from the start of the release to its end: 4 + W. -/
def State.releaseCycles (s : State) (f r : Nat) : Nat :=
  let d := (s.region f r).next
  4 + s.trackCycles f r (d.strobeTrack % 32) d.releaseWait

/-- FAB_PR_TIME: an isolated interval of `n` core cycles in ns, saturating. -/
def prTime (n : Nat) : Nat := min (2 ^ 32 - 1) (5 * n / 7)

/-- RELEASE_WAIT: the clamps lift and the region runs. -/
def execReleaseWait (f r : Nat) (s : State) : Out :=
  s.fabStep f r fun x =>
    if s.servingIn f r .releasing && decide (x.releasing + s.releaseCycles f r ≤ s.boot.time) then
      let s := (s.dropCells f r).declareCells f r x.next
      let s := s.setReg (fabricDA f) (pgFab r) 0x050 (prTime (s.boot.time - x.isolated))
      let x := { x with phase := .running, variant := x.target.getD 0, target := none, decl := x.next, cfg := x.nextCfg }
      (s.setRegion f r x).fabNext f
    else s

/-! ### Configuration upsets (R301) -/

/-- CONFIG_SCRUB: the scrubber reads word `word` of a running region and finds `errs` wrong bits. -/
def execConfigScrub (f r word errs : Nat) (s : State) : Out :=
  s.fabStep f r fun x =>
    let da := fabricDA f
    if !x.runs ∨ errs = 0 then s
    else if errs = 1 then
      ((s.incReg da (pgFab r) 0x054).flag da (pgFab r) 3).charge da (ledgerRef da 0x0B r) ckCorrected 0 word
    else
      let s := s.flag da (pgFab r) 4
      if x.fixed then s.report da 0 0x0C noRef r else s.fabQueue f (r, none)

/-! ### Ports (R293 to R296) -/

/-- A target port's answer to a request that has reached its die (R293, R294, R306). -/
def State.portArrive (s : State) (f : Nat) (p : Packet) : State :=
  let port := p.addr.toNat % 256
  match if port < 64 then s.portOwner f port else none with
  | none => s.respond p 4 [] []
  | some (r, _) =>
    let x := s.region f r
    let q := s.fport f port
    if x.isolatedNow then s.respond p 3 [] []
    else if p.len = 0 then s.respond p 0 [] []
    else
      match (List.range 64).find? fun t => !(q.reqs.map (·.tag)).contains t with
      | none => s.arrive p
      | some tag => s.setFport f port { q with reqs := q.reqs ++ [{ tag := tag, p := p, since := s.boot.time }] }

/-- The cycles that a port has for its answer: RESP of its port clock. -/
def State.respCycles (s : State) (f r : Nat) (d : PortDecl) : Nat := s.trackCycles f r (d.track % 32) d.value

/-- R295: a request has waited longer than RESP, and its port has not said so yet. -/
def State.overdue (s : State) (f r : Nat) (d : PortDecl) (q : PortReq) : Bool :=
  !q.late && decide (q.since + s.respCycles f r d < s.boot.time)

/-- PORT_LATE is set for a request; one of class 0 or 1 is reported. -/
def State.markLate (s : State) (f r port : Nat) (q : PortReq) : State :=
  let s := s.flag (fabricDA f) (pgFab r) 5
  let x := s.fport f port
  let s := s.setFport f port { x with reqs := x.reqs.map fun y => if y.tag = q.tag then { y with late := true } else y }
  if q.p.cls.toNat < 2 then s.report (fabricDA f) q.p.cls.toNat 0x08 noRef port else s

/-- PORT_LATE: the oldest overdue request of a target port. -/
def execPortLate (f port : Nat) (s : State) : Out :=
  .next <|
    match if f < 24 ∧ port < 64 then s.portOwner f port else none with
    | none => s
    | some (r, d) =>
      match (s.fport f port).reqs.find? fun q => s.overdue f r d q with
      | some q => s.markLate f r port q
      | none => s

/-- PORT_RESPONSE: the logic gives the last beat of the response to the request of tag `tag`; a read's data are `data`,
with RSP_PSN for each granule, or RSP_ERR (`none`). -/
def execPortResponse (f port tag : Nat) (data : List Byte) (rsp : Option (List Bool)) (s : State) : Out :=
  .next <|
    match if f < 24 ∧ port < 64 then s.portOwner f port else none with
    | none => s
    | some (r, d) =>
      match (s.fport f port).reqs.find? fun q => q.tag == tag with
      | none => s
      | some q =>
        let n := if q.p.opc = opRD ∧ rsp.isSome then q.p.len.toNat else 0
        let psn := rsp.getD []
        if data.length ≠ n ∨ psn.length ≠ (if n = 0 then 0 else (byteAddr q.p % 32 + n + 31) / 32) ∨ (s.region f r).outClamped s.boot.time then s
        else
          let s := if s.overdue f r d q then s.markLate f r port q else s
          let x := s.fport f port
          let s := s.setFport f port { x with reqs := x.reqs.filter fun y => y.tag != tag }
          s.respond q.p (if rsp.isSome then 0 else 4) data psn

/-- The packet that an initiator port makes of a request: SRC, SPORT and CLASS are its own, and DRAM is interleaved (R261). -/
def State.portPacket (s : State) (f port cls : Nat) (p : Packet) : Packet :=
  let dst := if p.space = 3 ∧ p.isRequest then BitVec.ofNat 8 (channelDA (s.channelOf p.addr.toNat)) else p.dst
  { p with src := BitVec.ofNat 8 (fabricDA f), sport := BitVec.ofNat 4 port, cls := BitVec.ofNat 2 cls, dst := dst, tag := 0,
           status := 0, rsv := false }

/-- R296: a class 0 or class 1 port sends within its window and budget only. -/
def State.mayOffer (s : State) (d : PortDecl) (used : Nat) : Bool :=
  decide (2 ≤ d.cls) || (decide (d.wstart ≤ s.pacer.cycle) && decide (s.pacer.cycle ≤ d.wend) && decide (used < d.value))

/-- R296: the destinations of a class 0 or class 1 port of the die at `da`. -/
def portMayAddress (da cls : Nat) (p : Packet) : Bool :=
  decide (2 ≤ cls) || p.opc == opARR || p.opc == opSIG ||
    (p.isRequest && (p.space == 2 || (p.space == 4 && p.dst.toNat != da)))

/-- INITIATOR_REQUEST: the logic of a running region offers a request on initiator port `port`; the tag of `p` is the logic's own. -/
def execInitiatorRequest (f port : Nat) (p : Packet) (s : State) : Out :=
  .next <|
    match if f < 24 ∧ port < 16 then s.portOwner f (64 + port) else none with
    | none => s
    | some (r, d) =>
      let da := fabricDA f
      let x := s.fport f (64 + port)
      let tag := p.tag.toNat
      let posted := p.opc = opARR ∨ p.opc = opSIG
      if (s.region f r).isolatedNow ∨ !(p.isRequest || p.opc == opARR || p.opc == opSIG) ∨ !portMayAddress da d.cls p then s
      else if !s.mayOffer d x.used then
        let s := s.setFport f (64 + port) { x with rsp := x.rsp ++ [(tag, [], [], true)] }
        (s.flag da pgFabDie 0).report da d.cls 0x08 noRef port
      else
        let q := s.portPacket f port (d.cls % 4) p
        if posted then (s.setFport f (64 + port) { x with used := x.used + 1 }).post q
        else if 64 ≤ tag ∨ (x.reqs.any fun y => y.tag == tag) ∨ !s.hasTokens da port (d.cls % 4) p.len.toNat then s
        else
          match s.freeTag da port with
          | none => s
          | some t =>
            let s := s.takeTokens da port (d.cls % 4) p.len.toNat
            let y : PortReq := { tag := tag, p := { q with tag := BitVec.ofNat 10 t }, since := s.boot.time }
            (s.setFport f (64 + port) { x with used := x.used + 1, reqs := x.reqs ++ [y] }).request q t

/-- A response reaches an initiator port (R293); that of an isolated region is discarded (R304). -/
def State.portRsp (s : State) (f : Nat) (p : Packet) : State :=
  let port := 64 + p.dport.toNat
  let x := s.fport f port
  match x.reqs.find? fun q => q.p.tag == p.tag with
  | none => s
  | some q =>
    let live := match s.portOwner f port with | some (r, _) => !(s.region f r).isolatedNow | none => false
    s.setFport f port { x with
      reqs := x.reqs.filter fun y => y.tag != q.tag
      rsp := if live then x.rsp ++ [(q.tag, p.data, p.psn, p.status != 0)] else x.rsp }

/-- R292, R306: a signal packet reaches a fabric die: the region of its port sees the strobe with the tag. -/
def State.signalArrive (s : State) (f : Nat) (p : Packet) : State :=
  let port := p.addr.toNat % 256
  match if port < 64 then s.portOwner f port else none with
  | some (r, _) => s.strobe f r 3 (p.aux.toNat % 2 ^ 16)
  | none => s

/-! ### Block memories (R286, R287) -/

/-- The configuration whose logic a region holds. -/
def Region.logicCfg (x : Region) : List Byte := if x.phase == .releasing then x.nextCfg else x.cfg

/-- The number that bits spell, bit 0 first. -/
def spell (l : List Bool) : Nat := l.foldr (fun b n => boolNat b + 2 * n) 0

/-- The physical row of a data row: a spare row where it is replaced (R289). -/
def State.physRow (s : State) (f r b i : Nat) : Nat :=
  match (s.bramSpares f (150 * r + b)).find? fun x => x.1 == i with
  | some x => 1024 + x.2
  | none => i

/-- A data row of a block memory. -/
def State.ramRow (s : State) (f r b : Nat) (m : Bram) (i : Nat) : BitVec 36 :=
  tget m.rows (s.physRow f r b i) (Config.ramInit (s.region f r).logicCfg b i)

/-- The place of bit `j` of word `a` of a port of a width: data row and bit. The ratios below 9 use 32 bits of a row. -/
def ramPlace (width a j : Nat) : Nat × Nat :=
  let per := if width < 9 then 32 else 36
  let n := a * width + j
  (n / per % 1024, n % per)

def State.ramRead (s : State) (f r b : Nat) (m : Bram) (width a : Nat) : BitVec 72 :=
  BitVec.ofNat 72 (spell ((List.range width).map fun j =>
    let p := ramPlace width a j
    (s.ramRow f r b m p.1).getLsbD p.2))

def State.ramWrite (s : State) (f r b : Nat) (m : Bram) (width a : Nat) (v : List Bool) : Bram :=
  (List.range width).foldl (fun m j =>
    let p := ramPlace width a j
    let row := s.ramRow f r b m p.1
    let bitp := BitVec.twoPow 36 p.2
    { m with rows := tput m.rows (s.physRow f r b p.1) (if v.getD j false then row ||| bitp else row &&& ~~~bitp) }) m

/-! ### ECC (R288) -/

/-- R288: the word of a row with two of its bits wrong; which ones comes from outside: free. -/
def doubleBit (n : Nat) (w : BitVec 72) : BitVec 72 :=
  let i := Config.freeNat n % 72
  w ^^^ BitVec.twoPow 72 i ^^^ BitVec.twoPow 72 ((i + 1 + Config.freeNat (n + 1) % 71) % 72)

/-- BLOCK_MEMORY_READ: the logic of a running region reads row `row` of block memory `b` of its column, in 512 × 72 mode with ECC,
and `errs` of its bits are wrong; a double-bit error leaves the data uncorrected and drives the block's DED output high for that read. -/
def execBlockMemoryRead (f r b row errs : Nat) (s : State) : Out :=
  s.fabStep f r fun x =>
    let da := fabricDA f
    let k := Config.ramCfg x.logicCfg b
    if !x.runs ∨ 150 ≤ b ∨ 512 ≤ row ∨ errs = 0 ∨ !(k.simple && k.ecc) then s
    else if errs = 1 then (s.flag da pgFabDie 1).charge da (ledgerRef da 0x0A (150 * r + b)) ckCorrected 0 row
    else
      let y := s.regionLogic f r
      let m := tget y.rams b {}
      let m := { m with ded := true, outB := doubleBit s.free (s.ramRead f r b m 72 row) }
      { (s.flag da pgFabDie 2).setLogic f r { y with rams := tput y.rams b m } with free := s.free + 2 }

end Sys2Proof.Machine
end

