-- ==== Sys2Proof/Machine/Registers.lean ====
section
/-! DEFINITION. Register accesses (R7, R26 to R31, R337, R338, R449, R457 to R460): writes with the registers that command an action,
reads with their side effects, soft resets. -/

namespace Sys2Proof.Machine

/-- The state that a command leaves. -/
def State.after (s : State) (f : State → Out) : State := match f s with | .next t => t | _ => s

/-- A die answers register accesses: it is out of reset (R435, R447). -/
def State.answers (s : State) : Bool := !s.boot.porst && s.boot.power != .off && s.boot.power != .halted

/-! ### Maximum registers (R158) -/

/-- The cleared value of a register that records a maximum. -/
def maxCleared (b : Blk) (off : Nat) : Option Nat :=
  match b, off with
  | .seq, 0x084 => some 0
  | .strDie, 0x05C => some 0
  | .noc, 0x090 => some 0
  | .mch, 0x09C => some 0
  | .mch, 0x0A0 => some 0
  | .thm, 0x044 => some 0x8000
  | _, _ => none

/-- A CLR bit. -/
def State.clearMax (s : State) (b : Blk) (da page off : Nat) : State :=
  match maxCleared b off with | some v => s.setReg da page off v | none => s

/-! ### Command registers -/

/-- TKC_CMD (R41, R42). -/
def State.tkcCmd (s : State) (v : Nat) : State :=
  if bit v 0 && bit v 1 then (s.flag pacerDA pgTkc 1).requestDisarm
  else if bit v 0 then s.after execArm
  else if bit v 1 then s.after execDisarm
  else s

/-- FAB_REG_CMD (R302, R303): LOAD and UNLOAD together are refused. -/
def State.fabCmd (s : State) (f r v : Nat) : State :=
  if bit v 0 && bit v 1 then s.fabRefuse f r
  else if bit v 0 then s.fabLoadCmd f r (bits v 4 2)
  else if bit v 1 then s.fabUnloadCmd f r
  else s

/-- VLT_PROG_CMD (R373). -/
def State.keyCmd (s : State) (key : Nat) : State :=
  let us := match s.keeper.vlt with | .opened t => (s.boot.time - t) / 1400 | _ => 0
  if !s.keeper.started then s
  else if key = 0x5A then s.after execKey5a
  else if key = 0xA5 then s.after (execKeyA5 us)
  else s.wrongKey

/-- PCI_HIF_CMD (R341, R342). -/
def State.hifCmd (s : State) (v : Nat) : State :=
  let s := if bit v 0 then s.closeSession else s
  if bit v 1 then s.kick else s

/-- IMG_CMD (R366, R368). -/
def State.imgCmd (s : State) (v : Nat) : State :=
  let s := if bit v 0 then s.after execReload else s
  if bit v 1 then s.abortLoad else s

/-- MCH_OVD of channel `ch`, written by port `sport` of die `src` (R267, R268); a write with both bits set is ignored (R282). -/
def State.ovdCmd (s : State) (ch v src sport : Nat) : State :=
  if bit v 0 && bit v 1 then s
  else if bit v 0 then s.raiseOverdraft ch src sport
  else if bit v 1 then s.endOverdraft ch src sport else s

/-- A write of `v` to a register that commands an action, from port `sport` of die `src`; none for any other register. -/
def State.commandWrite (s : State) (b : Blk) (da page off v src sport : Nat) : Option State :=
  let t := tileOfDA da
  let c := page / 16 - 1
  let e := (edgeOf da).getD 0
  let f := (fabricOf da).getD 0
  match b, off with
  | .tkc, 0x054 => some (s.tkcCmd v)
  | .str, 0x04C => some (if bit v 0 then s.after (execStrCancel t c) else s)
  | .str, 0x05C => some (if bit v 0 then s.after (execStrXresume t c) else s)
  | .strDie, 0x04C => some (if bit v 0 then s.after (execStrXinv t) else s)
  | .edg, 0x044 => some (s.sgCommand e (bits v 15 0) (bits v 31 16))
  | .dlk, 0x0A4 => some (s.sgCommand e (bits v 7 0) (bits v 15 8))
  | .mch, 0x05C => some (s.ovdCmd (chanOf da page) v src sport)
  | .fab, 0x044 => some (s.fabCmd f (page - 0xA0) v)
  | .pci, 0x048 => some (s.requestSession v)
  | .pci, 0x050 => some (s.hifCmd v)
  | .pci, 0x070 => some (if bit v 31 then s.mailboxGo (v % 2 ^ 8) else s)
  | .img, 0x044 => some (s.imgCmd v)
  | .vlt, 0x05C => some (s.keyCmd (v % 2 ^ 8))
  | .bst, 0x040 => some (if da = keeperDA ∧ bit v 0 then s.shutdown (bit v 1) else s)
  | _, _ => if (maxCleared b off).isSome then some (if bit v 31 then s.clearMax b da page off else s) else none

/-- A write from port `sport` of die `src` reaches a page (R7, R30). R35: a write of TKC_SOURCE while the tick is disarmed chooses
the source anew. -/
def State.pageWrite (s : State) (da page off v src sport : Nat) : State :=
  match blkAt da page with
  | none => s
  | some b =>
    if s.retired da page && off != 0x014 then s
    else
      match s.commandWrite b da page off v src sport with
      | some s' => s'
      | none =>
        let s' := s.regWrite da page off v false
        if b = .tkc ∧ off = 0x050 ∧ s.disarmed then s'.setPacer { s'.pacer with offNetwork := false } else s'

/-! ### Reads -/

/-- A register whose read clears its VALID bit (R256, R338, R282). -/
def clearsOnRead (b : Blk) (off : Nat) : Bool :=
  (b == .ni && off == 0x060) || (b == .pci && off == 0x044) || (b == .mch && off == 0x098)

/-- The high word that a read of a LO register latches (R457). -/
def State.latchWord (s : State) (b : Blk) (da page off : Nat) : Option Nat :=
  match b, off with
  | .tkc, 0x05C => some (s.tick / 2 ^ 32 % 2 ^ 32)
  | .mq, 0x058 => some (s.reg da page 0x05C 1)
  | .seq, 0x074 => some (s.reg da page 0x078 1)
  | .prc, 0x040 => some (s.boot.time / 2 ^ 32 % 2 ^ 32)
  | .prc, 0x048 => some (s.pacer.edgeTime / 2 ^ 32 % 2 ^ 32)
  | .tsn, 0x070 => some (s.reg da page 0x074 1)
  | _, _ => none

/-- A read of TSN_TIME_LO takes the gPTP time of the cycle. Which port, if any, the best master clock algorithm makes the slave port of the
domain, and whether a port's preemption was verified, comes from outside: free, one slave port at most (R348, R350). -/
def State.takeTime (s : State) (b : Blk) (da page off : Nat) : State :=
  if b = .tsn ∧ off = 0x070 then
    let t := Config.gptpTime s.boot.time
    (s.setReg da page 0x070 (t % 2 ^ 32)).setReg da page 0x074 (t / 2 ^ 32 % 2 ^ 32) 1
  else if b = .tsn ∧ inArr off 0x050 4 4 then
    let slave := Config.freeNat s.free % 5
    ([0, 1, 2, 3].foldl (fun s p =>
      let up := bit (s.reg da page (0x050 + 4 * p)) 0
      s.setReg da page (0x050 + 4 * p)
        (if up then 1 + 2 * boolNat (slave == p) + 4 * boolNat (Config.freeBool (s.free + 1 + p)) else 0)) s).draw
  else s

/-- CLEARING_READ and LATCHING_READ: what a read changes. -/
def State.readEffect (s : State) (b : Blk) (da page off : Nat) : State :=
  if clearsOnRead b off then s.setReg da page off (clrBit (s.reg da page off) 31)
  else match s.latchWord b da page off with
    | some v => s.setReg da page (off + 4) v
    | none => s

/-- A read that reaches a page: its value, and the state that it leaves. -/
def State.pageRead (s : State) (da page off : Nat) : Nat × State :=
  match blkAt da page with
  | none => (0, s)
  | some b =>
    let s := s.takeTime b da page off
    (s.regRead da page off, s.readEffect b da page off)

/-! ### The host's accesses through BAR0 (R26, R337, R338) -/

/-- PCI_BAR_ERR takes a failed access where it holds none. -/
def State.barErr (s : State) (da page status : Nat) : State :=
  if bit (s.reg pcieDA pgPci 0x044) 31 then s
  else s.setReg pcieDA pgPci 0x044 (da + page * 2 ^ 8 + status * 2 ^ 16 + 2 ^ 31)

/-- A class 2 request of BAR0 to a die, as the NI records it. -/
def barPkt (da : Nat) : Packet := { Packet.blank with opc := opWR, cls := 2, src := BitVec.ofNat 8 pcieDA, dst := BitVec.ofNat 8 da }

/-- The links of the route from one die to another carry flits or will again, and the route ends there. A die that E6 cannot reach, or
whose answers cannot come back, does not answer within the timeout (R27). -/
def State.pathUp (s : State) (a b : Nat) : Bool :=
  match s.routeTo a 0 b with
  | some r => (routeLinks r.1 a r.2.1).all (fun l => !s.net.failed.contains l) && (r.1 != 0 || a == b)
  | none => a == b

/-- R27: E6 and a die reach one another. -/
def State.reached (s : State) (da : Nat) : Bool := s.pathUp pcieDA da && s.pathUp da pcieDA

/-- R27, R250, R251: an access that no answer comes to: E6's NI produces a TIMEOUT, and the access is recorded. A read returns
0xFFFF_FFFF, and a write is dropped. -/
def State.unanswered (s : State) (da page : Nat) : State :=
  ((((s.flag pcieDA pgNi 0).incReg pcieDA pgNi 0x064).niError pcieDA (barPkt da) 1).barErr da page 1).flag pcieDA pgPci 1

/-- R241, R478: the NI of E6 has a route for the host's accesses to a die. -/
def State.hasRoute (s : State) (da : Nat) : Bool := da == pcieDA || (s.routeTo pcieDA 0 da).isSome

/-- R26, R251: an access to a DA for which the NI has no route is answered UNROUTABLE, one to an unpopulated page ADDR_ERR; both are
recorded, with BAR_FAIL. -/
def State.absent (s : State) (da page : Nat) : State :=
  let none_ := (dieKind da).isNone || !s.hasRoute da
  let s := if none_ then s.flag pcieDA pgNi 1 else s
  let status := if none_ then 2 else 4
  ((s.niError pcieDA (barPkt da) status).barErr da page status).flag pcieDA pgPci 1

/-- A BAR0 access at offset `off` of a page, where a die answers. -/
def State.barAccess (s : State) (da page off : Nat) (body : Blk → State → State) : State :=
  if !s.answers ∨ 256 ≤ da ∨ 256 ≤ page ∨ 4096 ≤ off then s
  else if off % 4 ≠ 0 then s.flag pcieDA pgPci 0
  else match blkAt da page with
    | some b => if !s.hasRoute da then s.absent da page else if s.reached da then body b s else s.unanswered da page
    | none => if da = 0xF0 then s else s.absent da page

/-- What a read of the host through BAR0 gives: the register's value; 0 of the broadcast window, of an absent page and over no route
(R26, R28, R251); all ones where no answer comes (R27). -/
def State.hostRead (s : State) (da page off : Nat) : Nat :=
  match blkAt da page with
  | none => 0
  | some _ => if !s.hasRoute da then 0 else if s.reached da then (s.pageRead da page off).1 else 0xFFFFFFFF

/-! ### Broadcast writes (R28, R29, R252, R459, R460) -/

/-- R28: the dies whose page takes a broadcast, in increasing DA. -/
def State.broadcastTargets (s : State) (page : Nat) : List Nat :=
  allDAs.filter fun da => (blkAt da page).isSome && !s.retired da page

/-- R460: a target that answers with an error, or times out (STATUS 0x01). -/
def State.broadcastFails (s : State) (da page status : Nat) : State :=
  let s := if status = 1 then (s.flag pcieDA pgNi 0).incReg pcieDA pgNi 0x064 else if status = 2 then s.flag pcieDA pgNi 1 else s
  (((s.niError pcieDA (barPkt da) status).barErr da page status).flag pcieDA pgPci 1)

/-- One target of a broadcast; `failing` names the targets that fail, with their STATUS. -/
def State.broadcastOne (s : State) (page off v : Nat) (failing : List (Nat × Nat)) (da : Nat) : State :=
  match (failing.find? fun x => x.1 == da && decide (1 ≤ x.2) && decide (x.2 < 6)).orElse
      fun _ => if !s.hasRoute da then some (da, 2) else if s.reached da then none else some (da, 1) with
  | some x => s.broadcastFails da page x.2
  | none => if 0x040 ≤ off ∨ off = 0x014 ∨ off = 0x018 then s.pageWrite da page off v pcieDA 0 else s

def State.broadcast (s : State) (page off v : Nat) (failing : List (Nat × Nat)) : State :=
  (s.broadcastTargets page).foldl (fun s da => s.broadcastOne page off v failing da) s

def execBroadcastWrite (page off : Nat) (v : Word) (failing : List (Nat × Nat)) (s : State) : Out :=
  .next <|
    if !s.answers ∨ 256 ≤ page ∨ 4096 ≤ off then s
    else if off % 4 ≠ 0 then s.flag pcieDA pgPci 0
    else s.broadcast page off v.toNat failing

/-! ### The commands -/

/-- REGISTER_WRITE (R7): a write of the host to a register; one at DA 0xF0 is a broadcast (R13). -/
def execRegisterWrite (da page off : Nat) (v : Word) (s : State) : Out :=
  .next <|
    if da = 0xF0 ∧ s.answers ∧ page < 256 ∧ off < 4096 ∧ off % 4 = 0 then s.broadcast page off v.toNat []
    else s.barAccess da page off fun _ s => s.pageWrite da page off v.toNat pcieDA 0

/-- SRST (R449). -/
def execSrst (da page : Nat) (s : State) : Out :=
  .next <| s.barAccess da page 0x00C fun _ s => if s.retired da page then s else s.softReset da page

/-- MAX_CLR (R158). -/
def execMaxClr (da page off : Nat) (s : State) : Out :=
  .next <| s.barAccess da page off fun b s => if s.retired da page then s else s.clearMax b da page off

/-- CLEARING_READ (R338). -/
def execClearingRead (da page off : Nat) (s : State) : Out :=
  .next <| s.barAccess da page off fun b s => if clearsOnRead b off then s.readEffect b da page off else s

/-- LATCHING_READ (R457). -/
def execLatchingRead (da page off : Nat) (s : State) : Out :=
  .next <| s.barAccess da page off fun b s =>
    if clearsOnRead b off then s else (s.takeTime b da page off).readEffect b da page off

end Sys2Proof.Machine
end

