-- ==== Sys2Proof/Machine/Wire.lean ====
section
/-! DEFINITION. The wire of the package network: the header flit and the data flits of a packet (R236, R239), the 640 bits of a
wire flit with its CRC (R234), and the sending and the replay of flits on a link (R234, R235). -/

namespace Sys2Proof

/-- R236: the header flit as sixteen words. Reserved fields read 0 but where the packet carries a nonzero one (`rsv`). -/
def Packet.header (p : Packet) : List Nat :=
  [p.opc.toNat + p.cls.toNat * 2 ^ 4 + (if p.rsv then 2 ^ 6 else 0) + p.dst.toNat * 2 ^ 8 + p.src.toNat * 2 ^ 16 +
      p.sport.toNat * 2 ^ 24 + p.dport.toNat * 2 ^ 28,
    p.len.toNat + p.tag.toNat * 2 ^ 9 + p.age.toNat * 2 ^ 19 + p.hops.toNat * 2 ^ 27,
    p.ptr.toNat + (if p.rb then 2 ^ 5 else 0) + p.status.toNat * 2 ^ 8 + p.space.toNat * 2 ^ 16,
    p.route.toNat % 2 ^ 32, p.route.toNat / 2 ^ 32, p.addr.toNat % 2 ^ 32, p.addr.toNat / 2 ^ 32, p.aux.toNat] ++
  (List.range 8).map fun i => p.byteEn.toNat / 2 ^ (32 * i) % 2 ^ 32

end Sys2Proof

namespace Sys2Proof.Machine

/-- The DATA bits of the header flit. -/
def headerBits (p : Packet) : BitVec 512 :=
  BitVec.ofNat 512 (leNat (p.header.flatMap fun w => leBytes 4 w))

/-- R239: the payload lies from data byte ADDR mod 64 on; data flit `i` holds 64 of those bytes, unused ones 0. -/
def dataBits (p : Packet) (i : Nat) : BitVec 512 :=
  BitVec.ofNat 512 (leNat (((List.replicate (byteAddr p % 64) 0 ++ p.data).drop (64 * i)).take 64))

/-- R216, R253: the poison of the two granules of data flit `i`. -/
def dataPsn (p : Packet) (i : Nat) : BitVec 2 :=
  let g := fun k => boolNat (p.psn.getD (2 * i + k - byteAddr p % 64 / 32) false && decide (byteAddr p % 64 / 32 ≤ 2 * i + k))
  BitVec.ofNat 2 (g 0 + 2 * g 1)

/-- The flits of a packet before they are sent: the header, then the data flits. -/
def packetFlits (p : Packet) : List Flit :=
  let n := flitsOf p
  (List.range n).map fun i =>
    { data := if i = 0 then headerBits p else dataBits p (i - 1), psn := if i = 0 then 0 else dataPsn p (i - 1),
      queue := BitVec.ofNat 3 p.queue, head := i == 0, last := i + 1 == n, idle := false, seq := 0, ack := 0, cred := 0, nak := false }

/-- R234: a flit that carries nothing but SEQ, ACK, CRED and NAK. -/
def idleFlit (seq ack : BitVec 8) (cred : BitVec 24) (nak : Bool) : Flit :=
  { data := 0, psn := 0, queue := 0, head := false, last := false, idle := true, seq := seq, ack := ack, cred := cred, nak := nak }

/-- R234: bits [575:0] of the wire flit. -/
def Flit.body (f : Flit) : Nat :=
  f.data.toNat + f.psn.toNat * 2 ^ 512 + f.queue.toNat * 2 ^ 514 + boolNat f.head * 2 ^ 517 + boolNat f.last * 2 ^ 518 +
  boolNat f.idle * 2 ^ 519 + f.seq.toNat * 2 ^ 520 + f.ack.toNat * 2 ^ 528 + f.cred.toNat * 2 ^ 536 + boolNat f.nak * 2 ^ 560

/-- R234: the 640 bits, the CRC above the rest. The bits are taken in increasing bytes, each from its high bit on
(notes/assumptions/187.md). -/
def Flit.wire (f : Flit) : BitVec 640 := BitVec.ofNat 640 (f.body + crc64 (leBytes 72 f.body) * 2 ^ 576)

/-- R234: the bit that logical lane `lane` carries in unit interval `ui`. -/
def wireBit (w : BitVec 640) (lane ui : Nat) : Bool := w.getLsbD (64 * ui + lane)

/-- R254: the physical lane that carries a logical lane under the substitutions of a direction: spare k is lane 64 + k. -/
def physLane (subst : List (Nat × Nat)) (lane : Nat) : Nat :=
  match subst.find? fun x => x.1 == lane with | some x => 64 + x.2 | none => lane

/-- A receiver takes a flit: its CRC holds. -/
def wireIntact (w : BitVec 640) : Bool :=
  w.toNat / 2 ^ 576 == crc64 (leBytes 72 (w.toNat % 2 ^ 576))

/-! ### Links -/

def State.link (s : State) (key : Nat) : Link := tget s.net.links key {}
def State.setLink (s : State) (key : Nat) (l : Link) : State := s.setNet { s.net with links := tput s.net.links key l }

/-- R234: CRED takes at most 15 flits of each queue. -/
def credOf (owed : List Nat) : BitVec 24 := BitVec.ofNat 24 (packFields 4 (owed.map fun n => min n 15))

/-- One flit is sent: it takes the next SEQ, the last ACK, the credits and NAK, and joins the last 32 (R235). -/
def Link.send (l : Link) (now : Nat) (f : Flit) : Link :=
  let f := { f with seq := l.seq + 1, ack := l.ack, cred := credOf l.owed, nak := decide (now < l.nak) }
  { l with seq := l.seq + 1, sent := (f :: l.sent).take 32, owed := l.owed.map fun n => n - min n 15 }

/-- A packet crosses the link from port `p` of the router of a die; the far side has its flits intact. -/
def State.sendPacket (s : State) (da p : Nat) (x : Packet) : State :=
  let l := (packetFlits x).foldl (fun l f => l.send s.boot.time f) (s.link (4 * da + p))
  let s := s.setLink (4 * da + p) l
  s.setLink (farSide da p) { s.link (farSide da p) with ack := l.seq }

/-- R245: a packet has left the queue `q` of input port `inp`: the flits of its buffer are free, and their credits go back. -/
def State.freeCredits (s : State) (da inp q n : Nat) : State :=
  if 4 ≤ inp then s
  else
    let l := s.link (4 * da + inp)
    s.setLink (4 * da + inp) { l with owed := l.owed.modify q (· + n) }

/-- R235: the last `n` flits sent to a receive side fail there, the oldest by its CRC and the later ones with it, and are
resent: NAK goes back with the ACK of the last intact one, and the packets whose last flit was among them wait up to 21 core
cycles (24 network cycles) more. How many flits and how long is free. Flits sent before the replay is over follow it (`resentBy`). -/
def State.replay (s : State) (da port : Nat) : State :=
  let key := 4 * da + port
  let from_ := s.link (farSide da port)
  let n := Config.freeNat s.free % (from_.sent.length + 1)
  let late := Config.freeNat (s.free + 1) % 22
  let hit := (from_.sent.take n).map fun f => f.seq.toNat
  let s := s.setLink key { s.link key with ack := from_.seq - BitVec.ofNat 8 n, nak := s.boot.time + late }
  (s.setNet { s.net with
    replays := (key, s.tick) :: s.net.replays
    queued := s.net.queued.map fun x =>
      if x.da == da && x.inp == port && hit.contains x.seq then { x with ready := s.boot.time + late } else x }).draw.draw

/-- R235: the time by which a receive side has the resent flits: what is sent to it until then arrives after them. -/
def State.resentBy (s : State) (da port : Nat) : Nat := (s.link (4 * da + port)).nak

end Sys2Proof.Machine
end

