-- ==== Sys2Proof/Machine/NetSteps.lean ====
section
/-! DEFINITION. The package network (R230 to R257): packets at their targets, responses, timeouts, routers, links. -/

namespace Sys2Proof.Machine

/-! ### Requests at their targets (R237 to R240) -/

/-- A register request moves one aligned word, a write with all its bytes enabled. -/
def registerForm (p : Packet) : Bool :=
  p.addr.toNat % 4 == 0 && p.len == 4 && decide (p.addr.toNat < 2 ^ 20) &&
  (p.opc != opWR || decide (p.byteEn.toNat = enableMask p.addr.toNat 4))

/-- A request to a register page. A write that enables no byte writes nothing and is answered OK (R239). -/
def State.atPages (s : State) (p : Packet) : State :=
  let da := p.dst.toNat
  let a := p.addr.toNat
  if p.len = 0 ∨ (p.opc = opWR ∧ p.byteEn = 0) then s.respond p 0 [] []
  else if !registerForm p || (blkAt da (a / 4096)).isNone then s.respond p 4 [] []
  else if p.opc = opWR then (s.pageWrite da (a / 4096) (a % 4096) (leNat p.data) p.src.toNat p.sport.toNat).respond p 0 [] []
  else
    let (v, s) := s.pageRead da (a / 4096) (a % 4096)
    s.respond p 0 (leBytes 4 v) [false]

/-- A request to a store of a tile die (R216, R253); its beats wait for the banks of a die store (R211). A write of the escrow is answered ADDR_ERR (R54). -/
def State.atStore (s : State) (p : Packet) (sp : Sp) (unit limit : Nat) : State :=
  let a := p.addr.toNat
  let n := p.len.toNat
  let s := if sp = .die then s.arbWait unit p.cls.toNat else s
  if limit < a + n ∨ (p.opc = opWR ∧ p.byteEn ≠ 0 ∧ sp = .die ∧ s.escrowHit unit a n) then s.respond p 4 [] []
  else if p.opc = opWR then
    let bs := p.data.zipIdx.map fun x => if p.byteEn.getLsbD (a % 64 + x.2) then some x.1 else none
    (s.write sp unit a bs p.psn).respond p 0 [] []
  else s.respond p 0 (s.bytesAt sp unit a n) (s.psnList sp unit a n)

/-- A request to a core store: a retired core answers UNIT_ABSENT. -/
def State.atCore (s : State) (p : Packet) : State :=
  let t := tileOfDA p.dst.toNat
  let c := p.dport.toNat
  if s.place.dieState t = 2 ∨ s.place.roleOf t c = 14 then s.respond p 5 [] [] else s.atStore p .core (coreKey t c) 0x100000

/-- A request that its target takes: the space names the unit. A store that the die does not have is answered ADDR_ERR. -/
def State.atTarget (s : State) (p : Packet) : State :=
  let da := p.dst.toNat
  match dieKind da, p.space.toNat with
  | _, 0 => s.atPages p
  | some .tile, 1 => if p.dport = 9 then s.refusePkt p else s.atCore p
  | some .tile, 2 => if p.dport = 9 then s.atStore p .die (tileOfDA da) 0x3000000 else s.refusePkt p
  | some .memory, 3 => s.memArrive p
  | some .fabric, 4 => match fabricOf da with | some f => s.portArrive f p | none => s.respond p 4 [] []
  | _, _ => s.respond p 4 [] []

/-- RD and WR (R237). -/
def execRdPkt (p : Packet) (s : State) : Out := s.arrivalOf p opRD fun s => s.atTarget p
def execWrPkt (p : Packet) (s : State) : Out := s.arrivalOf p opWR fun s => s.atTarget p

/-- ARR (R209). -/
def execArr (p : Packet) (s : State) : Out :=
  s.arrivalOf p opARR fun s =>
    if dieKind p.dst.toNat = some .tile then s.arriveTally (tileOfDA p.dst.toNat) p.cls.toNat (p.aux.toNat % 1024) else s.refusePkt p

/-- SIG (R292). -/
def execSig (p : Packet) (s : State) : Out :=
  s.arrivalOf p opSIG fun s =>
    match fabricOf p.dst.toNat with | some f => s.signalArrive f p | none => s.refusePkt p

/-! ### Responses (R250, R251) -/

/-- A response is handed to its initiator: a streamer, an edge die's records, a fabric port. -/
def State.toInitiator (s : State) (p : Packet) : State :=
  let da := p.dst.toNat
  match dieKind da with
  | some .tile => if p.dport.toNat < 9 then s.streamRsp (tileOfDA da) p.dport.toNat p else s
  | some .driveEdge | some .linkEdge =>
    match edgeOf da with
    | some e => if p.opc = opRDR then s.fetchRsp e p else s.deliveryRsp e p
    | none => s
  | some .fabric => match fabricOf da with | some f => s.portRsp f p | none => s
  | some .pcie => if 1 ≤ p.dport.toNat ∧ p.dport.toNat ≤ 4 then s.dmaRsp (p.dport.toNat - 1) p else s
  | some .tsnEdge => if p.dport.toNat < 8 then s.ethRsp p.dport.toNat p else s
  | _ => s

/-- The request that a response answers. -/
def State.pendingReq (s : State) (p : Packet) : Option OutReq :=
  s.net.outstanding.find? fun o =>
    o.da == p.dst.toNat && o.port == p.dport.toNat && o.tag == p.tag.toNat && (o.p.opc == opRD) == (p.opc == opRDR)

/-- R250: a response of no outstanding request is late. -/
def State.lateRsp (s : State) (p : Packet) : State := (s.incReg p.dst.toNat pgNi 0x068).flag p.dst.toNat pgNi 2

/-- A response reaches the NI of its initiator. -/
def State.rspArrive (s : State) (p : Packet) : State :=
  match s.pendingReq p with
  | none => s.lateRsp p
  | some o =>
    let s := s.setNet { s.net with outstanding := s.net.outstanding.erase o }
    let s := if p.status = 0 then s else s.niError o.da o.p p.status.toNat
    s.toInitiator p

def execRdr (p : Packet) (s : State) : Out := s.arrivalOf p opRDR fun s => s.rspArrive p
def execWrr (p : Packet) (s : State) : Out := s.arrivalOf p opWRR fun s => s.rspArrive p

/-- TIMEOUT (R250): the timer of an outstanding request has run out, and no response to it has arrived. Where the port has no
such request, its dispatcher's steal request is the one (R183). -/
def execTimeout (da port tag : Nat) (s : State) : Out :=
  .next <|
    match s.net.outstanding.find? fun o => o.da == da && o.port == port && o.tag == tag with
    | none => s.stealTimeout da port
    | some o =>
      let answered := s.net.arrived.any fun p => p.isResponse && s.pendingReq p == some o
      if answered ∨ s.boot.time < o.sent + s.niTimeout da then s
      else
        let s := s.setNet { s.net with
          outstanding := s.net.outstanding.erase o
          heldTags := s.net.heldTags ++ [{ da := da, port := port, tag := tag, since := s.boot.time }] }
        let s := (s.flag da pgNi 0).incReg da pgNi 0x064
        (s.niError da o.p 1).toInitiator (synthRsp o.p 1)

/-- TIMED_OUT_TAG_REUSE (R250). -/
def execTimedOutTagReuse (da port tag : Nat) (s : State) : Out :=
  .next <|
    match s.net.heldTags.find? fun h => h.da == da && h.port == port && h.tag == tag with
    | none => s
    | some h =>
      if s.boot.time < h.since + 2 * s.niTimeout da then s
      else s.setNet { s.net with heldTags := s.net.heldTags.erase h }

/-! ### Routers (R242, R245 to R249, R253) -/

/-- The output that the route of a packet names at a router: a mesh port, or 4 to eject it. -/
def outPort (p : Packet) : Nat := if p.ptr = p.hops then 4 else p.route.toNat / 4 ^ p.ptr.toNat % 4

/-- The heads of the queues of a router. -/
def State.heads (s : State) (da : Nat) : List QPacket :=
  (List.range 5).flatMap fun i => (List.range 6).filterMap fun q =>
    s.net.queued.find? fun x => x.da == da && x.inp == i && x.q == q

/-- A link direction from port `p` of a router carries flits. -/
def State.carries (s : State) (da p : Nat) : Bool :=
  match linkAt da p with
  | none => false
  | some l => s.net.trained && !s.net.failed.contains l && !s.net.retraining.contains (farSide da p) && !s.net.retraining.contains (4 * da + p)

/-- The input port of the neighbour that port `p` faces. -/
def opposite (p : Nat) : Nat := (p + 2) % 4

/-- Enough credit downstream for a packet. -/
def State.hasCredit (s : State) (da out : Nat) (x : QPacket) : Bool :=
  decide (queueFill s.net.queued (neighbour da out) (opposite out) x.q + flitsOf x.p ≤ queueRoom x.q)

/-- R246: the step of a queue in the order of an output: G, R0, L, R1, then E and R2. -/
def queueRank (q : Nat) : Nat := match q with | 0 => 0 | 3 => 1 | 1 => 2 | 4 => 3 | _ => 4

/-- R246: one head is granted before another. -/
def grantBefore (x y : QPacket) : Bool :=
  let rx := queueRank x.q
  let ry := queueRank y.q
  if rx ≠ ry then decide (rx < ry)
  else if x.p.age ≠ y.p.age then decide (y.p.age.toNat < x.p.age.toNat)
  else if x.q ≠ y.q then decide (y.q < x.q)
  else decide (x.inp < y.inp)

/-- The head may leave by an output: mesh port 0 to 3, or 4 + q, the path of queue q at the local output (R247). -/
def State.mayLeave (s : State) (da out : Nat) (x : QPacket) : Bool :=
  decide (x.ready ≤ s.boot.time) &&
  if out < 4 then outPort x.p == out && s.carries da out && s.hasCredit da out x else outPort x.p == 4 && out == 4 + x.q

/-- The packet that an output grants next. -/
def State.granted (s : State) (da out : Nat) : Option QPacket :=
  ((s.heads da).filter (s.mayLeave da out)).foldl
    (fun b x => match b with
      | none => some x
      | some y => if grantBefore x y then some x else some y) none

/-- NOC_WAIT_MAX: the wait of a class 0 head, in network cycles. -/
def State.noteWait (s : State) (da : Nat) (x : QPacket) : State :=
  if x.p.cls ≠ 0 then s
  else s.setReg da pgNoc 0x090 (max (s.reg da pgNoc 0x090) (min 0xFF ((s.boot.time - x.head) * 8 / 7)))

/-- R245, R248: a packet leaves its queue: the next of the queue is its head, its credits go back, and the NI injects what has
room now. -/
def State.dequeue (s : State) (x : QPacket) : State :=
  let now := s.boot.time
  let rest := s.net.queued.erase x
  let next := rest.find? fun y => y.da == x.da && y.inp == x.inp && y.q == x.q
  let rest := match next with
    | some y => rest.map fun z => if z = y then { z with head := now } else z
    | none => rest
  ((s.setNet { s.net with queued := rest }).freeCredits x.da x.inp x.q (flitsOf x.p)).admitQueued

/-- R242: a packet is ejected at the router of its destination. One that a route leaves elsewhere is refused there
(notes/assumptions/188.md). -/
def State.eject (s : State) (da : Nat) (p : Packet) : State :=
  if p.dst.toNat = da then s.arrive p else s.refusePkt { p with dst := BitVec.ofNat 8 da }

/-- R253: an uncorrectable error of a router's buffer charges the router; the kind of the charge is not stated and is free. -/
def State.chargeRouter (s : State) (da : Nat) : State :=
  (s.charge da (ledgerRef da 0x05 0) (Config.freeNat s.free % 3) 0 noLoc).draw

/-- R255: 65,536 network cycles, in core cycles. -/
def crcWindow : Nat := 57344

/-- R235, R255: a receive side finds a failed CRC and has the flits sent again; the fourth within the window retrains the
link, which then carries none until it has been trained. -/
def State.crcError (s : State) (da port : Nat) : State :=
  let key := 4 * da + port
  let s := ((s.incReg da pgNoc (0x070 + 4 * port)).flag da pgNoc 0).replay da port
  let l := s.boot.time :: ((tget s.net.crcErrs key []).filter fun t => decide (s.boot.time < t + crcWindow))
  if l.length < 4 then s.setNet { s.net with crcErrs := tput s.net.crcErrs key l }
  else (s.setNet { s.net with crcErrs := tput s.net.crcErrs key [] }).startRetrain da port

/-- R257: an armed FAULT_INJECT corrupts the CRC of the next flit sent on its port. -/
def State.corruptFlit (s : State) (da out : Nat) : State :=
  let w := s.reg da pgNoc 0x01C
  if s.injectable ∧ bit w 2 ∧ bits w 1 0 = out ∧ !s.hostHolds (regKey da pgNoc 0x01C 0) then
    (s.setReg da pgNoc 0x01C (clrBit w 2)).crcError (neighbour da out) (opposite out)
  else s

/-- FORWARD (R242, R247): output `out` of the router of a die grants the next packet: mesh port 0 to 3, or path 4 + q of the local
output. `upset` is what the ECC of the buffer finds
uncorrectable in it: nothing, its header (some 0), or a granule of its data (some (g + 1)) (R253). -/
def execForward (da out : Nat) (upset : Option Nat) (s : State) : Out :=
  .next <|
    match s.granted da out with
    | none => s
    | some x =>
      let s := (s.dequeue x).noteWait da x
      if upset = some 0 then (s.flag da pgNoc 3).chargeRouter da
      else
        let bad := match upset with | some (g + 1) => decide (g < x.p.psn.length) | _ => false
        let s := if bad then s.chargeRouter da else s
        let p := match upset with | some (g + 1) => { x.p with psn := x.p.psn.set g true } | _ => x.p
        if 4 ≤ out then s.eject da p
        else
          let p := { p with ptr := p.ptr + 1 }
          let s := s.sendPacket da out p
          let now := s.boot.time
          let y : QPacket := { da := neighbour da out, inp := opposite out, q := x.q, p := p, since := now, aged := now, head := now,
                               seq := (s.link (4 * da + out)).seq.toNat, ready := s.resentBy (neighbour da out) (opposite out) }
          (s.setNet { s.net with queued := s.net.queued ++ [y] }).corruptFlit da out

/-- AGE_INCREMENT (R249): 32 network cycles are 28 core cycles. -/
def execAgeIncrement (da inp q : Nat) (s : State) : Out :=
  .next <|
    match s.net.queued.find? fun x => x.da == da && x.inp == inp && x.q == q with
    | none => s
    | some x =>
      if s.boot.time < x.aged + 28 then s
      else
        let y := { x with aged := x.aged + 28, p := { x.p with age := if x.p.age = 255 then 255 else x.p.age + 1 } }
        s.setNet { s.net with queued := s.net.queued.map fun z => if z = x then y else z }

/-! ### Links (R235, R244, R254, R255) -/

/-- The routers at the ends of a link note that it failed. -/
def State.noteLink (s : State) (l : Nat) : State :=
  (allSides.filter fun x => linkAt x.1 x.2 == some l).foldl (fun s x => s.flag x.1 pgNoc 2) s

/-- R17, R244: the die of a failed router is to be retired: with the restart while the tick runs, and at a maintenance stop
while it is disarmed (R19, R411). -/
def State.routerLost (s : State) (n : Nat) : State :=
  if n < 256 then s
  else
    let ref := ledgerRef (n - 256) 0x05 0
    if (s.ledRec ref).state = 3 then s else s.setRec ref { s.ledRec ref with state := 2, cause := 5 }

/-- R244: the routers at the ends of the failed links report the element. -/
def State.reportLinks (s : State) (links : List Nat) (element : Nat) : State :=
  let sides := (allSides.filter fun x => (linkAt x.1 x.2).any links.contains).map (·.1)
  sides.eraseDups.foldl (fun s da => s.report da 0 0x07 noRef element) s

/-- R244: a link, or the router of a tile die, fails. -/
def State.failElement (s : State) (n : Nat) : State :=
  let new := (elementLinks n).filter fun l => !s.net.failed.contains l
  if new.isEmpty then s
  else
    let second := s.net.failedLink.isSome || s.net.awaiting.isSome
    let s := new.foldl (fun s l => s.noteLink l) (s.setNet { s.net with failed := new.foldl nadd s.net.failed })
    let s := s.routerLost n
    let runs := s.pacer.phase == .running || s.pacer.phase == .restarting
    if second then
      let s := if runs then s.reportLinks new (new.headD 0) else s
      let s := (s.setPacer { s.pacer with netFailed := true }).flag pacerDA pgTkc 6
      s.requestDisarm
    else if runs then (s.setNet { s.net with awaiting := some n }).reportLinks new (new.headD 0)
    else s.setNet { s.net with failedLink := some n }

/-- LINK_FAILURE (R244): link 0 to 179, or 256 + DA for the router of a tile die. -/
def execLinkFailure (link : Nat) (s : State) : Out :=
  .next <| if link < 180 ∨ (256 ≤ link ∧ dieKind (link - 256) = some .tile) then s.failElement link else s

/-- FLIT_CRC_ERROR (R235): a receiver finds a failed CRC. -/
def execFlitCrcError (da port : Nat) (s : State) : Out :=
  .next (if s.carries da port then s.crcError da port else s)

/-- R255: the retrain of the link ends at one receive side: its failing lanes `bad` are charged and replaced by unused spares; a lane
that finds none fails the link. -/
def State.retrainSide (s : State) (da port : Nat) (bad : List Nat) : State × Bool :=
  let key := 4 * da + port
  let old := tget s.net.badLanes key []
  let marked := (List.range 68).filter fun l => s.keeper.unusable.contains (da, 0x60000 + 128 * port + l)
  let new := ((bad.filter fun l => decide (l < 68)).foldl nadd []).filter fun l => !old.contains l
  let all := marked.foldl nadd (new.foldl nadd old)
  let r := assignSpares (tget s.net.subst key []) all
  let s := new.foldl (fun s l => s.charge da (ledgerRef da 0x06 (128 * port + l)) ckConfirmed 0 noLoc) s
  (s.setNet { s.net with
    badLanes := tput s.net.badLanes key all, subst := tput s.net.subst key r.1, retraining := ndel s.net.retraining key },
   decide (0 < r.2))

/-- RETRAIN_COMPLETE (R255): the retrain of a link ends: `bad` are the lanes that fail it, those of the receive side at port `port`
of die `da` as 0 to 67 and those of the opposite direction as 68 to 135. The replay buffers are resent. -/
def execRetrainComplete (da port : Nat) (bad : List Nat) (s : State) : Out :=
  .next <|
    let far := farSide da port
    if !s.net.retraining.contains (4 * da + port) then s
    else
      let a := s.retrainSide da port bad
      let b := a.1.retrainSide (far / 4) (far % 4) ((bad.filter fun l => decide (68 ≤ l)).map (· - 68))
      match linkAt da port with
      | some l => if a.2 || b.2 then b.1.failElement l else (b.1.replay da port).replay (far / 4) (far % 4)
      | none => b.1

end Sys2Proof.Machine
end

