-- ==== Sys2Proof/Machine/Dispatch.lean ====
section
/-! DEFINITION. The dispatch: one arm per command, each one direct call of its meaning. -/

namespace Sys2Proof.Machine

def exec (i : Instr) (s : State) : Host.Outcome State Fault Refusal :=
  match i with
  | .tickEdge => Sys2Proof.Machine.execTickEdge s
  | .timetableDispatch => Sys2Proof.Machine.execTimetableDispatch s
  | .ttNop idx => Sys2Proof.Machine.execTtNop idx s
  | .start idx => Sys2Proof.Machine.execStart idx s
  | .barrier idx => Sys2Proof.Machine.execBarrier idx s
  | .stream idx => Sys2Proof.Machine.execStream idx s
  | .sample idx => Sys2Proof.Machine.execSample idx s
  | .clear idx => Sys2Proof.Machine.execClear idx s
  | .release idx => Sys2Proof.Machine.execRelease idx s
  | .signal idx => Sys2Proof.Machine.execSignal idx s
  | .deadline idx => Sys2Proof.Machine.execDeadline idx s
  | .arm => Sys2Proof.Machine.execArm s
  | .disarm => Sys2Proof.Machine.execDisarm s
  | .faultReport p => Sys2Proof.Machine.execFaultReport p s
  | .restartStrobe => Sys2Proof.Machine.execRestartStrobe s
  | .restoreAck t => Sys2Proof.Machine.execRestoreAck t s
  | .dieLost t => Sys2Proof.Machine.execDieLost t s
  | .restartEdge => Sys2Proof.Machine.execRestartEdge s
  | .plannedStretch l k => Sys2Proof.Machine.execPlannedStretch l k s
  | .reserveLoad l => Sys2Proof.Machine.execReserveLoad l s
  | .digest p => Sys2Proof.Machine.execDigest p s
  | .escrowCommit t c => Sys2Proof.Machine.execEscrowCommit t c s
  | .verdict p => Sys2Proof.Machine.execVerdict p s
  | .recordApply da g => Sys2Proof.Machine.execRecordApply da g s
  | .rdPkt p => Sys2Proof.Machine.execRdPkt p s
  | .wrPkt p => Sys2Proof.Machine.execWrPkt p s
  | .arr p => Sys2Proof.Machine.execArr p s
  | .sig p => Sys2Proof.Machine.execSig p s
  | .rdr p => Sys2Proof.Machine.execRdr p s
  | .wrr p => Sys2Proof.Machine.execWrr p s
  | .stealRequest p => Sys2Proof.Machine.execStealRequest p s
  | .stealReply p => Sys2Proof.Machine.execStealReply p s
  | .ledgerCharge p => Sys2Proof.Machine.execLedgerCharge p s
  | .timeout da port tag => Sys2Proof.Machine.execTimeout da port tag s
  | .forward da out upset => Sys2Proof.Machine.execForward da out upset s
  | .ageIncrement da inp q => Sys2Proof.Machine.execAgeIncrement da inp q s
  | .flitCrcError da port => Sys2Proof.Machine.execFlitCrcError da port s
  | .retrainComplete da port bad => Sys2Proof.Machine.execRetrainComplete da port bad s
  | .linkFailure link => Sys2Proof.Machine.execLinkFailure link s
  | .preempt t c => Sys2Proof.Machine.execPreempt t c s
  | .mov t c w => Sys2Proof.Machine.execMov t c w s
  | .addG t c w => Sys2Proof.Machine.execAddG t c w s
  | .subG t c w => Sys2Proof.Machine.execSubG t c w s
  | .andG t c w => Sys2Proof.Machine.execAndG t c w s
  | .orG t c w => Sys2Proof.Machine.execOrG t c w s
  | .xorG t c w => Sys2Proof.Machine.execXorG t c w s
  | .shl t c w => Sys2Proof.Machine.execShl t c w s
  | .shr t c w => Sys2Proof.Machine.execShr t c w s
  | .sar t c w => Sys2Proof.Machine.execSar t c w s
  | .mulG t c w => Sys2Proof.Machine.execMulG t c w s
  | .minG t c w => Sys2Proof.Machine.execMinG t c w s
  | .maxG t c w => Sys2Proof.Machine.execMaxG t c w s
  | .cmp t c w => Sys2Proof.Machine.execCmp t c w s
  | .fadd t c w => Sys2Proof.Machine.execFadd t c w s
  | .fsub t c w => Sys2Proof.Machine.execFsub t c w s
  | .fmul t c w => Sys2Proof.Machine.execFmul t c w s
  | .fma t c w => Sys2Proof.Machine.execFma t c w s
  | .fcmp t c w => Sys2Proof.Machine.execFcmp t c w s
  | .fcvti t c w => Sys2Proof.Machine.execFcvti t c w s
  | .fcvtz t c w => Sys2Proof.Machine.execFcvtz t c w s
  | .ldi t c w => Sys2Proof.Machine.execLdi t c w s
  | .addi t c w => Sys2Proof.Machine.execAddi t c w s
  | .cmpi t c w => Sys2Proof.Machine.execCmpi t c w s
  | .ld t c w => Sys2Proof.Machine.execLd t c w s
  | .st t c w => Sys2Proof.Machine.execSt t c w s
  | .seta t c w => Sys2Proof.Machine.execSeta t c w s
  | .setm t c w => Sys2Proof.Machine.execSetm t c w s
  | .setl t c w => Sys2Proof.Machine.execSetl t c w s
  | .mova t c w => Sys2Proof.Machine.execMova t c w s
  | .movm t c w => Sys2Proof.Machine.execMovm t c w s
  | .movl t c w => Sys2Proof.Machine.execMovl t c w s
  | .movg t c w => Sys2Proof.Machine.execMovg t c w s
  | .rds t c w => Sys2Proof.Machine.execRds t c w s
  | .clst t c w => Sys2Proof.Machine.execClst t c w s
  | .clev t c w => Sys2Proof.Machine.execClev t c w s
  | .br t c w => Sys2Proof.Machine.execBr t c w s
  | .call t c w => Sys2Proof.Machine.execCall t c w s
  | .ret t c w => Sys2Proof.Machine.execRet t c w s
  | .rpt t c w => Sys2Proof.Machine.execRpt t c w s
  | .rpb t c w => Sys2Proof.Machine.execRpb t c w s
  | .wait t c w => Sys2Proof.Machine.execWait t c w s
  | .endP t c w => Sys2Proof.Machine.execEndP t c w s
  | .mqi t c w => Sys2Proof.Machine.execMqi t c w s
  | .mqim t c w => Sys2Proof.Machine.execMqim t c w s
  | .vla t c w => Sys2Proof.Machine.execVla t c w s
  | .sis t c w => Sys2Proof.Machine.execSis t c w s
  | .arrive t c w => Sys2Proof.Machine.execArrive t c w s
  | .gate t c w => Sys2Proof.Machine.execGate t c w s
  | .matrixMultiply t c => Sys2Proof.Machine.execMatrixMultiply t c s
  | .weightLoad t c => Sys2Proof.Machine.execWeightLoad t c s
  | .matrixNop t c => Sys2Proof.Machine.execMatrixNop t c s
  | .multiplyComplete t c => Sys2Proof.Machine.execMultiplyComplete t c s
  | .weightLoadComplete t c => Sys2Proof.Machine.execWeightLoadComplete t c s
  | .matrixCheck t c fails => Sys2Proof.Machine.execMatrixCheck t c fails s
  | .vnop t c r w => Sys2Proof.Machine.execVnop t c r w s
  | .vadd t c r w => Sys2Proof.Machine.execVadd t c r w s
  | .vsub t c r w => Sys2Proof.Machine.execVsub t c r w s
  | .vmul t c r w => Sys2Proof.Machine.execVmul t c r w s
  | .vfma t c r w => Sys2Proof.Machine.execVfma t c r w s
  | .vmin t c r w => Sys2Proof.Machine.execVmin t c r w s
  | .vmax t c r w => Sys2Proof.Machine.execVmax t c r w s
  | .vand t c r w => Sys2Proof.Machine.execVand t c r w s
  | .vor t c r w => Sys2Proof.Machine.execVor t c r w s
  | .vxor t c r w => Sys2Proof.Machine.execVxor t c r w s
  | .vshl t c r w => Sys2Proof.Machine.execVshl t c r w s
  | .vshr t c r w => Sys2Proof.Machine.execVshr t c r w s
  | .vsar t c r w => Sys2Proof.Machine.execVsar t c r w s
  | .vcvt t c r w => Sys2Proof.Machine.execVcvt t c r w s
  | .vmovi t c r w => Sys2Proof.Machine.execVmovi t c r w s
  | .vcmp t c r w => Sys2Proof.Machine.execVcmp t c r w s
  | .vsel t c r w => Sys2Proof.Machine.execVsel t c r w s
  | .vshfl t c r w => Sys2Proof.Machine.execVshfl t c r w s
  | .vred t c r w => Sys2Proof.Machine.execVred t c r w s
  | .vld t c r w => Sys2Proof.Machine.execVld t c r w s
  | .vst t c r w => Sys2Proof.Machine.execVst t c r w s
  | .vtu t c r w => Sys2Proof.Machine.execVtu t c r w s
  | .vbr t c r w => Sys2Proof.Machine.execVbr t c r w s
  | .vsync t c r w => Sys2Proof.Machine.execVsync t c r w s
  | .vsyncRelease t c r => Sys2Proof.Machine.execVsyncRelease t c r s
  | .vend t c r w => Sys2Proof.Machine.execVend t c r w s
  | .vclr t c r w => Sys2Proof.Machine.execVclr t c r w s
  | .gateOpen t c cls => Sys2Proof.Machine.execGateOpen t c cls s
  | .streamRequest t c => Sys2Proof.Machine.execStreamRequest t c s
  | .streamComplete t c cls => Sys2Proof.Machine.execStreamComplete t c cls s
  | .translationWalk t c poison => Sys2Proof.Machine.execTranslationWalk t c poison s
  | .strCancel t c => Sys2Proof.Machine.execStrCancel t c s
  | .strXinv t => Sys2Proof.Machine.execStrXinv t s
  | .strXresume t c => Sys2Proof.Machine.execStrXresume t c s
  | .resumeParked t c => Sys2Proof.Machine.execResumeParked t c s
  | .tokenRefill da => Sys2Proof.Machine.execTokenRefill da s
  | .taskStage t c => Sys2Proof.Machine.execTaskStage t c s
  | .taskDispatch t c => Sys2Proof.Machine.execTaskDispatch t c s
  | .taskOverrun t c => Sys2Proof.Machine.execTaskOverrun t c s
  | .stealSend t c => Sys2Proof.Machine.execStealSend t c s
  | .backoff t c => Sys2Proof.Machine.execBackoff t c s
  | .proposalExpiry t c => Sys2Proof.Machine.execProposalExpiry t c s
  | .layerReady layer => Sys2Proof.Machine.execLayerReady layer s
  | .auditSampleDone t run audit => Sys2Proof.Machine.execAuditSampleDone t run audit s
  | .auditAbandon t overflow => Sys2Proof.Machine.execAuditAbandon t overflow s
  | .tieBreak cg => Sys2Proof.Machine.execTieBreak cg s
  | .tieBreakDone cg digest => Sys2Proof.Machine.execTieBreakDone cg digest s
  | .tieBreakExpiry cg => Sys2Proof.Machine.execTieBreakExpiry cg s
  | .agingMeasurement da margins => Sys2Proof.Machine.execAgingMeasurement da margins s
  | .serviceTickSave => Sys2Proof.Machine.execServiceTickSave s
  | .attestationReport => Sys2Proof.Machine.execAttestationReport s
  | .recoveryLoad => Sys2Proof.Machine.execRecoveryLoad s
  | .maintenanceStop => Sys2Proof.Machine.execMaintenanceStop s
  | .ledgerCopy => Sys2Proof.Machine.execLedgerCopy s
  | .sessionRequest v => Sys2Proof.Machine.execSessionRequest v s
  | .close => Sys2Proof.Machine.execClose s
  | .kick => Sys2Proof.Machine.execKick s
  | .watchdogExpiry => Sys2Proof.Machine.execWatchdogExpiry s
  | .flr => Sys2Proof.Machine.execFlr s
  | .linkDown => Sys2Proof.Machine.execLinkDown s
  | .d3hot => Sys2Proof.Machine.execD3hot s
  | .perst => Sys2Proof.Machine.execPerst s
  | .eventWrite => Sys2Proof.Machine.execEventWrite s
  | .dmaDescriptor ch ep err => Sys2Proof.Machine.execDmaDescriptor ch ep err s
  | .broadcastWrite page off v failing => Sys2Proof.Machine.execBroadcastWrite page off v failing s
  | .rxFrame port frame time => Sys2Proof.Machine.execRxFrame port frame time s
  | .txPoll port => Sys2Proof.Machine.execTxPoll port s
  | .txDone port time => Sys2Proof.Machine.execTxDone port time s
  | .syncMessage err => Sys2Proof.Machine.execSyncMessage err s
  | .syncTimeout => Sys2Proof.Machine.execSyncTimeout s
  | .gateInterval port => Sys2Proof.Machine.execGateInterval port s
  | .filterOutput e ch bits => Sys2Proof.Machine.execFilterOutput e ch bits s
  | .comparatorOutput e ch bits => Sys2Proof.Machine.execComparatorOutput e ch bits s
  | .updatePoint e k half => Sys2Proof.Machine.execUpdatePoint e k half s
  | .pwmEdge e g j => Sys2Proof.Machine.execPwmEdge e g j s
  | .tripInput e n => Sys2Proof.Machine.execTripInput e n s
  | .tripLine k => Sys2Proof.Machine.execTripLine k s
  | .stopN => Sys2Proof.Machine.execStopN s
  | .stopSource f k => Sys2Proof.Machine.execStopSource f k s
  | .sgReset e mask => Sys2Proof.Machine.execSgReset e mask s
  | .sgForce e mask => Sys2Proof.Machine.execSgForce e mask s
  | .encoderTrigger e n dt => Sys2Proof.Machine.execEncoderTrigger e n dt s
  | .encoderReadDone e n bits => Sys2Proof.Machine.execEncoderReadDone e n bits s
  | .blockLock e n => Sys2Proof.Machine.execBlockLock e n s
  | .capsSend e n => Sys2Proof.Machine.execCapsSend e n s
  | .caps e n versions axes => Sys2Proof.Machine.execCaps e n versions axes s
  | .capsTimeout e n => Sys2Proof.Machine.execCapsTimeout e n s
  | .v2LockTimeout e n => Sys2Proof.Machine.execV2LockTimeout e n s
  | .linkLoss e n => Sys2Proof.Machine.execLinkLoss e n s
  | .sync e n => Sys2Proof.Machine.execSync e n s
  | .feedbackFrame e n data crc => Sys2Proof.Machine.execFeedbackFrame e n data crc s
  | .tripBlock e n reason => Sys2Proof.Machine.execTripBlock e n reason s
  | .stopRepeat e n => Sys2Proof.Machine.execStopRepeat e n s
  | .dramCommit ch bad => Sys2Proof.Machine.execDramCommit ch bad s
  | .requestAged ch idx => Sys2Proof.Machine.execRequestAged ch idx s
  | .refreshDue ch => Sys2Proof.Machine.execRefreshDue ch s
  | .refreshStart ch => Sys2Proof.Machine.execRefreshStart ch s
  | .neighbourRefresh ch => Sys2Proof.Machine.execNeighbourRefresh ch s
  | .activateTableClear ch => Sys2Proof.Machine.execActivateTableClear ch s
  | .ovdRaise ch da sport => Sys2Proof.Machine.execOvdRaise ch da sport s
  | .overdraftEnd ch da sport => Sys2Proof.Machine.execOverdraftEnd ch da sport s
  | .overdraftGrant ch => Sys2Proof.Machine.execOverdraftGrant ch s
  | .overdraftExpiry ch => Sys2Proof.Machine.execOverdraftExpiry ch s
  | .alert ch => Sys2Proof.Machine.execAlert ch s
  | .replay ch ok => Sys2Proof.Machine.execReplay ch ok s
  | .patrolScrub ch bad => Sys2Proof.Machine.execPatrolScrub ch bad s
  | .moduleTemperature ch degC => Sys2Proof.Machine.execModuleTemperature ch degC s
  | .fabLoad f r v => Sys2Proof.Machine.execFabLoad f r v s
  | .fabUnload f r => Sys2Proof.Machine.execFabUnload f r s
  | .variantVerified f r read => Sys2Proof.Machine.execVariantVerified f r read s
  | .drainEnd f r => Sys2Proof.Machine.execDrainEnd f r s
  | .loadingDone f r => Sys2Proof.Machine.execLoadingDone f r s
  | .loadTimeout f r => Sys2Proof.Machine.execLoadTimeout f r s
  | .releaseWait f r => Sys2Proof.Machine.execReleaseWait f r s
  | .configScrub f r word errs => Sys2Proof.Machine.execConfigScrub f r word errs s
  | .portLate f port => Sys2Proof.Machine.execPortLate f port s
  | .initiatorRequest f port p => Sys2Proof.Machine.execInitiatorRequest f port p s
  | .portResponse f port tag data rsp => Sys2Proof.Machine.execPortResponse f port tag data rsp s
  | .grant => Sys2Proof.Machine.execGrant s
  | .quantumEnd energy mv amps => Sys2Proof.Machine.execQuantumEnd energy mv amps s
  | .bucketUpdate energy mv amps => Sys2Proof.Machine.execBucketUpdate energy mv amps s
  | .refund t units => Sys2Proof.Machine.execRefund t units s
  | .limit watts => Sys2Proof.Machine.execLimit watts s
  | .sensorReading da temps => Sys2Proof.Machine.execSensorReading da temps s
  | .railUndervoltage mv us => Sys2Proof.Machine.execRailUndervoltage mv us s
  | .porst us => Sys2Proof.Machine.execPorst us s
  | .keeperStart => Sys2Proof.Machine.execKeeperStart s
  | .powerLoss => Sys2Proof.Machine.execPowerLoss s
  | .shutdown => Sys2Proof.Machine.execShutdown s
  | .nobist => Sys2Proof.Machine.execNobist s
  | .bistGroupDone sigs => Sys2Proof.Machine.execBistGroupDone sigs s
  | .reload => Sys2Proof.Machine.execReload s
  | .imgAbort => Sys2Proof.Machine.execImgAbort s
  | .loadStep short => Sys2Proof.Machine.execLoadStep short s
  | .loadStepTimeout => Sys2Proof.Machine.execLoadStepTimeout s
  | .flashWriteDone ok => Sys2Proof.Machine.execFlashWriteDone ok s
  | .key5a => Sys2Proof.Machine.execKey5a s
  | .keyA5 us => Sys2Proof.Machine.execKeyA5 us s
  | .fuseProgramDone ok => Sys2Proof.Machine.execFuseProgramDone ok s
  | .srst da page => Sys2Proof.Machine.execSrst da page s
  | .maxClr da page off => Sys2Proof.Machine.execMaxClr da page off s
  | .clearingRead da page off => Sys2Proof.Machine.execClearingRead da page off s
  | .latchingRead da page off => Sys2Proof.Machine.execLatchingRead da page off s
  | .registerWrite da page off v => Sys2Proof.Machine.execRegisterWrite da page off v s
  | .undervoltageRecovery => Sys2Proof.Machine.execUndervoltageRecovery s
  | .stopNRelease => Sys2Proof.Machine.execStopNRelease s
  | .tripInputInactive e n => Sys2Proof.Machine.execTripInputInactive e n s
  | .stopSourceRelease f k => Sys2Proof.Machine.execStopSourceRelease f k s
  | .invalidBlock e n => Sys2Proof.Machine.execInvalidBlock e n s
  | .blockMemoryRead f r b row errs => Sys2Proof.Machine.execBlockMemoryRead f r b row errs s
  | .portLinkChange port up => Sys2Proof.Machine.execPortLinkChange port up s
  | .pcieLinkUp speed width => Sys2Proof.Machine.execPcieLinkUp speed width s
  | .timedOutTagReuse da port tag => Sys2Proof.Machine.execTimedOutTagReuse da port tag s

end Sys2Proof.Machine
end

