-- ==== Sys2Proof/Machine/Logic.lean ====
section
/-! DEFINITION. The logic of a region: cells and carry chains (R284), block memories and their ports (R286 to R288), strobes (R292),
isolation cells (R305), and the core cycle in which its tracks have edges. What the bytes of a configuration connect is a function of
Config (notes/assumptions/30.md). -/

namespace Sys2Proof.Machine

/-! ### Tracks (R290, R304) -/

/-- R304: the tracks into a region are not gated: they run until 4 cycles after the drain, and from 4 cycles after the loading on. -/
def Region.clocked (x : Region) (t : Nat) : Bool :=
  x.runs || (x.phase == .isolating && x.ran && x.drained.all fun d => decide (t < d + 4)) ||
    (x.phase == .releasing && decide (x.releasing + 4 ≤ t))

/-- R292: a strobe is high: a pulse of one cycle of the strobe track, from its first rising edge at or after the time. -/
def State.strobeHigh (s : State) (f r t : Nat) (due : Nat) : Bool :=
  let k := (s.region f r).decl.strobeTrack % 32
  s.trackEdges f r k (t - 1) == s.trackEdges f r k (due - 1) + 1

/-! ### Cells (R284) -/

/-- O6 and O5 of a truth table at the inputs I0 to I5. -/
def lutO6 (lut : BitVec 64) (ins : List Bool) : Bool := lut.getLsbD (spell (ins.take 6))
def lutO5 (lut : BitVec 64) (ins : List Bool) : Bool := lut.getLsbD (spell (ins.take 5))

def cellsPerColumn : Nat := 4375

/-! ### Isolation cells (R305) -/

/-- The border inputs of a region are clamped: from 12 cycles after the drain until the loading has ended. -/
def Region.inClamped (x : Region) : Bool :=
  match x.phase with
  | .loading => true
  | .isolating => !x.ran
  | .absent => true
  | .failed => true
  | _ => false

/-- The region on the other side of a boundary. -/
def beyond (r : Nat) (left : Bool) : Option Nat := if left then (if r = 0 then none else some (r - 1)) else if r < 15 then some (r + 1) else none

/-- A slot that carries signals into the region that has the boundary on its left or right. -/
def slotIncoming (left : Bool) (n : Nat) : Bool := if left then decide (n < 512) else decide (512 ≤ n) && decide (n < 1024)

/-- The key of a slot in `Logic.sampled`. -/
def slotKey (left : Bool) (n : Nat) : Nat := (if left then 0 else 1024) + n

def clampValue (c : Clamp) (last : Bool) : Bool :=
  match c with | .zero => false | .one => true | .holdLast => last

/-! ### Signals -/

/-- The value of a signal of region `r` at time `t`, through at most `n` cells: what a longer chain or a loop gives is not stated. -/
def State.signal (s : State) (f t : Nat) : Nat → Nat → Signal → Bool
  | 0, r, _ => Config.logicSignal t f r 0
  | n + 1, r, g =>
    let x := s.region f r
    let y := s.regionLogic f r
    let cell := Config.cellCfg x.logicCfg
    match g with
    | .const v => v
    | .o6 c => lutO6 (cell c).lut ((cell c).ins.map (s.signal f t n r))
    | .o5 c =>
      if (cell c).dual then lutO5 (cell c).lut ((cell c).ins.map (s.signal f t n r)) else Config.logicSignal t f r (3 * c + 1)
    | .ci c =>
      if c % cellsPerColumn = 0 then
        match (cell c).bottom with
        | some v => v
        | none => s.signal f t n r ((cell c).ins.getD 5 (.const false))
      else s.signal f t n r (.co (c - 1))
    | .co c => if s.signal f t n r (.o6 c) then s.signal f t n r (.ci c) else s.signal f t n r (.o5 c)
    | .sum c => s.signal f t n r (.o6 c) != s.signal f t n r (.ci c)
    | .fa c => (tget y.ffs c ((cell c).initA, (cell c).initB)).1
    | .fb c => (tget y.ffs c ((cell c).initA, (cell c).initB)).2
    | .ram b portB i => let m := tget y.rams b {}; (if portB then m.outB else m.outA).getLsbD i
    | .ded b => (tget y.rams b {}).ded
    | .strobe code arg => x.strobes.any fun p => p.1 == code && (code == 3 || p.2.1 == arg) && s.strobeHigh f r t p.2.2
    | .sigTag i => ((x.strobes.find? fun p => p.1 == 3 && s.strobeHigh f r t p.2.2).map fun p => bit p.2.1 i).getD false
    | .outside i => Config.logicSignal t f r (3 * i + 2)
    | .slot left i =>
      match if slotIncoming left i then beyond r left else none with
      | none => false
      | some q =>
        let last := tget y.sampled (slotKey left i) false
        let sender := Config.slotCfg (s.region f q).cfg (!left) i
        let mine := Config.slotCfg x.cfg left i
        if sender.drive.isNone && !mine.used then false
        else if (s.region f q).outClamped t then clampValue sender.clamp last
        else if x.inClamped then clampValue mine.clamp last
        else match sender.drive with
          | some d => s.signal f t n q d
          | none => mine.used && Config.logicSignal t f r (3 * i)

/-- Cells that a signal can pass before it meets a flip-flop: every cell of a die. -/
def depth : Nat := 1120000

def State.sig (s : State) (f r t : Nat) (g : Signal) : Bool := s.signal f t depth r g

/-! ### Flip-flops -/

/-- The flip-flops of a cell after a core cycle: reset, else on an edge of its track with its enable high each takes D. -/
def State.nextCell (s : State) (f r t c : Nat) : Bool × Bool :=
  let cfg := (s.region f r).logicCfg
  let k := Config.cellCfg cfg c
  let g := Config.cellGroup cfg (c / 16)
  let now := tget (s.regionLogic f r).ffs c (k.initA, k.initB)
  let reset := s.sig f r t g.reset
  let edge := fun (b : Bool) => s.hasEdge f r ((if b then g.trackB else g.trackA) % 32) t
  let step := fun (clk : Bool) (en d : Signal) (init old : Bool) =>
    if reset && (g.async || edge clk) then init else if edge clk && s.sig f r t en then s.sig f r t d else old
  (step k.clkA k.enA (if k.faSum then .sum c else .o6 c) k.initA now.1,
   step k.clkB k.enB (k.bypass.getD (.o5 c)) k.initB now.2)

def regionCells : Nat := 16 * cellsPerColumn

/-! ### Block memories (R286, R287) -/

/-- What a port does at a core cycle: at an edge it reads its word, and writes where its write enable is high. -/
def State.ramAccess (s : State) (f r t : Nat) (p : RamPort) : RamAccess :=
  { on := s.hasEdge f r (p.track % 32) t && s.sig f r t p.en, write := s.sig f r t p.we, width := p.width, readFirst := p.readFirst,
    addr := spell (p.addr.map (s.sig f r t)), data := p.data.map (s.sig f r t) }

/-- The memory after the write of an access, and the word that its port gives of the memory `old` before it. -/
def State.ramStep (s : State) (f r b : Nat) (x : RamAccess) (old m : Bram) : Bram × Option (BitVec 72) :=
  if !x.on then (m, none)
  else if !x.write then (m, some (s.ramRead f r b old x.width x.addr))
  else
    let m := s.ramWrite f r b m x.width x.addr x.data
    (m, some (if x.readFirst then s.ramRead f r b old x.width x.addr
      else BitVec.ofNat 72 (spell ((List.range x.width).map fun j => x.data.getD j false))))

/-- R288: the 72 bits that a write with ECC stores. -/
def eccWord (v : List Bool) : List Bool :=
  let d := BitVec.ofNat 64 (spell ((List.range 64).map fun j => v.getD j false))
  (List.range 64).map d.getLsbD ++ (List.range 8).map (Config.ramCheck d).getLsbD

/-- R287: two edges of ports of a block memory, the first port's last one up to time `t` and the second's up to `u`, are at most 0.3 ns
(0.42 core cycles) apart; and the first comes first. An edge's time is its number times the period. -/
def State.edgeTimes (s : State) (f r j k t u : Nat) : Nat × Nat × Nat :=
  let v := s.reg (fabricDA f) (pgFab r) 0x04C j
  let w := s.reg (fabricDA f) (pgFab r) 0x04C k
  let p := s.sourceMHz f (bits v 1 0)
  let q := s.sourceMHz f (bits w 1 0)
  (s.clockEdges f v t * (1400 * bits v 10 2) * q, s.clockEdges f w u * (1400 * bits w 10 2) * p, p * q)

def State.edgesNear (s : State) (f r j k t u : Nat) : Bool :=
  let e := s.edgeTimes f r j k t u
  decide (50 * (max e.1 e.2.1 - min e.1 e.2.1) ≤ 21 * e.2.2)

def State.edgeFirst (s : State) (f r j k t : Nat) : Bool :=
  let e := s.edgeTimes f r j k t t
  decide (e.1 < e.2.1)

/-- Two accesses in order, of ports A and B or of B and A: the second reads what the first has written. -/
def State.ramPair (s : State) (f r b : Nat) (m : Bram) (x y : RamAccess) (aFirst : Bool) : Bram :=
  if aFirst then
    let p := s.ramStep f r b x m m
    let q := s.ramStep f r b y p.1 p.1
    { q.1 with outA := p.2.getD m.outA, outB := q.2.getD m.outB }
  else
    let q := s.ramStep f r b y m m
    let p := s.ramStep f r b x q.1 q.1
    { p.1 with outA := p.2.getD m.outA, outB := q.2.getD m.outB }

/-- R287: both ports have an edge in one core cycle. On one track the edges coincide: both read the old words, and of two writes port A's
stays. On two tracks more than 0.3 ns apart they go in order; within 0.3 ns the order is free (notes/assumptions/206.md). -/
def State.ramBoth (s : State) (f r t b : Nat) (m : Bram) (x y : RamAccess) (j k : Nat) (free : Bool) : Bram :=
  if j = k then
    let q := s.ramStep f r b y m m
    let p := s.ramStep f r b x m q.1
    { p.1 with outA := p.2.getD m.outA, outB := q.2.getD m.outB }
  else s.ramPair f r b m x y (if s.edgesNear f r j k t t then free else s.edgeFirst f r j k t)

/-- R287: one port has an edge; the other had one in the cycle before, within 0.3 ns of it: the order of the two is free. -/
def State.ramOne (s : State) (f r t b : Nat) (m : Bram) (x y : RamAccess) (j k : Nat) (free : Bool) : Bram :=
  let here := s.ramPair f r b m x y true
  match m.last with
  | some (portB, w) =>
    let old := { m with rows := m.before }
    if !free then here
    else if portB && x.on && s.edgesNear f r j k t (t - 1) then s.ramPair f r b old x w true
    else if !portB && y.on && s.edgesNear f r j k (t - 1) t then s.ramPair f r b old w y false
    else here
  | none => here

/-- The ports of a block memory at a core cycle; the next one needs the access of a port that is alone (R287). -/
def State.ramPorts (s : State) (f r t b : Nat) (m : Bram) (x y : RamAccess) (j k : Nat) (free : Bool) : Bram :=
  if x.on && y.on then { s.ramBoth f r t b m x y j k free with last := none, before := [] }
  else if x.on || y.on then
    { s.ramOne f r t b m x y j k free with last := some (y.on, if y.on then y else x), before := m.rows }
  else { m with last := none, before := [] }

/-- A block memory after a core cycle. -/
def State.nextRam (s : State) (f r t b : Nat) : Bram :=
  let k := Config.ramCfg (s.region f r).logicCfg b
  let m := tget (s.regionLogic f r).rams b {}
  let x := s.ramAccess f r t k.a
  let y := s.ramAccess f r t k.b
  let m := if y.on then { m with ded := false } else m
  let (x, y) := if k.simple then
      ({ x with on := x.on && x.write, width := 72, data := if k.ecc then eccWord x.data else x.data },
       { y with write := false, width := 72 })
    else (x, y)
  s.ramPorts f r t b m x y (k.a.track % 32) (k.b.track % 32) (Config.freeBool (s.free + b))

/-! ### A core cycle of the logic -/

/-- The slots that a region samples at a core cycle. -/
def State.nextSampled (s : State) (f r t : Nat) : Table Bool :=
  [true, false].foldl (fun l left => (List.range 1024).foldl (fun l n =>
    let c := Config.slotCfg (s.region f r).cfg left n
    if slotIncoming left n && s.hasEdge f r (c.track % 32) t then tput l (slotKey left n) (s.sig f r t (.slot left n)) else l) l)
    (s.regionLogic f r).sampled

/-- The logic of a region after the core cycle that ends at time `t`. -/
def State.nextLogic (s : State) (f r t : Nat) : Logic :=
  let y := s.regionLogic f r
  { ffs := (List.range regionCells).foldl (fun l c => tput l c (s.nextCell f r t c)) y.ffs,
    rams := (List.range 150).foldl (fun l b => tput l b (s.nextRam f r t b)) y.rams,
    sampled := s.nextSampled f r t }

/-- Every region whose tracks are not gated has its edges of the cycle, all of them at once; a region whose isolation began 2 cycles ago
is clamped, and one whose drain ended 12 cycles ago is isolated. -/
def State.fabricCycle (s : State) : State :=
  let t := s.boot.time
  let on := s.regions.filter fun x => x.2.clocked t
  let s := (s.regions.filter fun x => x.2.phase == .isolating && x.2.isolated + 2 == t).foldl (fun s x =>
    s.isolateOutputs (x.1 / 16) (x.1 % 16)) s
  let s := (s.regions.filter fun x => x.2.phase == .isolating && x.2.drained == some (t - 12)).foldl (fun s x =>
    s.isolationDone (x.1 / 16) (x.1 % 16)) s
  if on.isEmpty then s
  else { on.foldl (fun u x => u.setLogic (x.1 / 16) (x.1 % 16) (s.nextLogic (x.1 / 16) (x.1 % 16) t)) s with free := s.free + 150 }

/-- A cycle of the core clock in which no command acts: requests take effect at the memory dies, the clock advances, the logic of the
regions goes on, the edge dies sample their trip inputs and send what has waited. -/
def State.idle (s : State) : State := s.takeMem.coreCycle.fabricCycle.sampleInputs.pumpLanes.pumpEdges.pumpPorts.sendDigests

end Sys2Proof.Machine
end

