-- ==== Sys2Proof/Safety.lean ====
section
/-! DEFINITION. The terms in which claims about the device are stated: a command that completes, what a reader of the stores
and of the register file sees, the invariants, and when a sequencer or a roll stands at an instruction. -/

namespace Sys2Proof.Machine

/-- The command completes: `exec` answers a next state, and `P` holds of it. -/
def Yields (i : Instr) (s : State) (P : State → Prop) : Prop := ∃ t, exec i s = .next t ∧ P t

/-- Every byte of every store, and every granule's poison mark, reads as before. -/
def SameStores (s t : State) : Prop :=
  ∀ sp unit a, t.byte sp unit a = s.byte sp unit a ∧ t.psn sp unit a = s.psn sp unit a

/-- Every byte of the stores outside `n` bytes from byte `a` of a unit's store reads as before. -/
def SameBytesBut (s t : State) (sp : Sp) (unit a n : Nat) : Prop :=
  ∀ sp' unit' b, (gAddr sp' unit' b < gAddr sp unit a ∨ gAddr sp unit a + n ≤ gAddr sp' unit' b) →
    t.byte sp' unit' b = s.byte sp' unit' b

/-- The canonical form of the memory (R477): addresses rise, and no entry is what an unlisted byte reads as. -/
def MemoryOk (s : State) : Prop := Memory.wf s.mem = true

/-- The sequencer of core `c` of tile die `t` stands at the legal instruction word `w`, of format `fmt` and operation `op`, in
the bank of class `cls`: the word that it fetches there is `w` (R130, R139, R141, R157). -/
def SeqAt (s : State) (t c cls : Nat) (w : Word64) (fmt op : Nat) : Prop :=
  (s.core t c).issuing = some cls ∧ (s.bank t c cls).active = true ∧
  s.inWindow t c cls (8 * (s.bank t c cls).pc.toNat) 8 = true ∧
  s.wordAt t c cls (s.bank t c cls).pc.toNat = w.toNat ∧
  seqLegal w.toNat = true ∧ iFmt w.toNat = fmt ∧ iOp w.toNat = op

/-- The compare flags, the status flags (ASTAT and event flags), a store. -/
def isFlagsDst (d : WDst) : Bool := match d with | .flags _ => true | _ => false
def isStatusDst (d : WDst) : Bool := match d with | .astatSet => true | .astatClr => true | .evClr => true | _ => false
def isStoreDst (d : WDst) : Bool := match d with | .core _ => true | .coef _ => true | _ => false

/-- The frame of an issue: but for pending writes that fall due in the issue cycle itself, every g register, the compare flags,
the status flags and every store stay, and so do the banks of the core's other classes. -/
def Framed (s u : State) (t c cls : Nat) : Prop :=
  let quiet := fun (p : WDst → Bool) => ∀ x ∈ (s.bank t c cls).pipe, x.due = (s.core t c).time → p x.dst = false
  (∀ k, quiet (fun d => d == .g k) → (u.bank t c cls).gOf k = (s.bank t c cls).gOf k) ∧
  (quiet isFlagsDst → (u.bank t c cls).flags = (s.bank t c cls).flags) ∧
  (quiet isStatusDst → (u.bank t c cls).astat = (s.bank t c cls).astat ∧ (u.bank t c cls).ck = (s.bank t c cls).ck ∧
    (u.bank t c cls).ps = (s.bank t c cls).ps ∧ (u.bank t c cls).ab = (s.bank t c cls).ab) ∧
  (quiet isStoreDst → SameStores s u) ∧
  (cls < 3 → ∀ k, k < 3 → k ≠ cls → u.bank t c k = s.bank t c k)

/-- What every ordinary issue leaves (R131, R417): the writes `ws` that fall due later wait in the pipeline, the issue cycle
has advanced by one, 6 steps of 2^-20 coin have been charged to the run, no other core has changed, and nothing else of the
bank or of the stores has but by pending writes that fall due. -/
def Issued (s u : State) (t c cls : Nat) (ws : List PendWrite) : Prop :=
  (∀ w ∈ ws, w.due ≠ (s.core t c).time → w ∈ (u.bank t c cls).pipe) ∧
  (u.core t c).time = (s.core t c).time + 1 ∧
  (u.bank t c cls).spent = (s.bank t c cls).spent + 6 ∧
  (∀ t' c', coreKey t' c' ≠ coreKey t c → u.core t' c' = s.core t' c') ∧
  Framed s u t c cls

/-- The packet has been handed to the network of its source: it waits in the local input of its router, or, with a route of no
hop, it has arrived at its own die (R241, R242; of another destination as one to be refused there, R240). A packet that has no route is
not sent (R251). -/
def Sends (s u : State) (p : Packet) : Prop :=
  match s.routeTo p.src.toNat p.sport.toNat p.dst.toNat with
  | some r => if r.1 = 0 then looped (p.routed r) ∈ u.net.arrived else ∃ q ∈ u.net.queued, q.p = p.routed r
  | none => bit (u.reg p.src.toNat pgNi 0x014) 1 = true

/-- A fault report of a die goes to the Pacer (R378). -/
def Reports (s u : State) (da cls fkind ref detail : Nat) : Prop :=
  Sends s u (msgPkt da (unitPort da) pacerDA 0 cls 0x05 (reportData fkind cls (s.tick % 2 ^ 32) ref (detail % 2 ^ 32)))

/-- A charge of a unit goes to the Ledger (R380). -/
def Charges (s u : State) (da ref ckind fkind loc : Nat) : Prop :=
  Sends s u (msgPkt da (unitPort da) keeperDA 0 2 0x06
    (leBytes 4 ref ++ leBytes 4 (ckind + fkind * 4) ++ leBytes 4 loc ++ leBytes 4 (s.tick % 2 ^ 32)))

/-- A well-formed packet of opcode `opc` waits at its target (R237, R240). -/
def Arrived (s : State) (p : Packet) (opc : BitVec 4) : Prop := p.opc = opc ∧ s.hasArrived p = true ∧ formed p = true

/-- A well-formed message of kind `kind` waits at its target (R237). -/
def ArrivedMsg (s : State) (p : Packet) (kind : Nat) : Prop := Arrived s p opMSG ∧ p.aux.toNat = kind

/-- The commands that may write a byte of a store: those of the sequencers (whose pending stores fall due), the loads and
stores of rolls, the quads and streamers, packets, the host's transfers, reads of DRAM that give wrong data, and what ends
programs, resets dies or loads an image. -/
def mayStore (i : Instr) : Bool :=
  match i with
  | .tickEdge .. | .start .. | .stream .. | .deadline .. | .arm .. | .faultReport .. | .restartStrobe ..
  | .restoreAck .. | .restartEdge .. | .reserveLoad .. | .escrowCommit .. | .rdPkt .. | .wrPkt .. | .rdr .. | .wrr ..
  | .stealRequest .. | .timeout .. | .preempt .. | .mov .. | .addG .. | .subG .. | .andG .. | .orG .. | .xorG ..
  | .shl .. | .shr .. | .sar .. | .mulG .. | .minG .. | .maxG .. | .cmp .. | .fadd .. | .fsub .. | .fmul .. | .fma ..
  | .fcmp .. | .fcvti .. | .fcvtz .. | .ldi .. | .addi .. | .cmpi .. | .ld .. | .st .. | .seta .. | .setm .. | .setl ..
  | .mova .. | .movm .. | .movl .. | .movg .. | .rds .. | .clst .. | .clev .. | .br .. | .call .. | .ret .. | .rpt ..
  | .rpb .. | .wait .. | .endP .. | .mqi .. | .mqim .. | .vla .. | .sis .. | .arrive .. | .gate .. | .matrixMultiply ..
  | .weightLoad .. | .matrixNop .. | .multiplyComplete .. | .vld .. | .vst .. | .vbr .. | .gateOpen ..
  | .streamRequest .. | .streamComplete .. | .strCancel .. | .taskStage .. | .taskDispatch .. | .taskOverrun ..
  | .layerReady .. | .auditSampleDone .. | .attestationReport .. | .recoveryLoad .. | .ledgerCopy .. | .eventWrite ..
  | .dmaDescriptor .. | .broadcastWrite .. | .dramCommit .. | .patrolScrub .. | .sensorReading ..
  | .railUndervoltage .. | .porst .. | .keeperStart .. | .powerLoss .. | .shutdown .. | .nobist .. | .bistGroupDone ..
  | .reload .. | .loadStep .. | .flashWriteDone .. | .registerWrite .. => true
  | _ => false

/-- The commands that may reset units: tick edges, register accesses, loads, shutdowns and loss of power. -/
def mayReset (i : Instr) : Bool :=
  match i with
  | .tickEdge .. | .restartEdge .. | .reserveLoad .. | .rdPkt .. | .wrPkt .. | .recoveryLoad .. | .broadcastWrite ..
  | .sensorReading .. | .railUndervoltage .. | .keeperStart .. | .reload .. | .loadStep .. | .srst ..
  | .registerWrite .. | .porst .. | .powerLoss .. | .shutdown .. | .nobist .. | .bistGroupDone .. => true
  | _ => false

end Sys2Proof.Machine
end

