-- ==== Sys2Proof/Certificates/Slice0/Obligations.lean ====
section
/-! DEFINITION. The statements about the device, each from numbered rules of the spec or derived from its sections. -/

open Sys2Proof Sys2Proof.Machine

/-- A step runs the command at the front of the queue. For every command, every state and every rest of the queue: step at a
state with the command in front is exec of that command at the state with the rest as its queue. (That commands wait in a
queue is the form of this model, log entry 10.) (opcode_table.json; 95_what_each_step_holds.md) -/
def Obligations.StepTakesFront : Prop :=
  ∀ (i : Instr) (rest : List Instr) (s : State), s.pending = i :: rest →
    step s = exec i { s with pending := rest }

/-- With no command waiting, one core cycle passes. The model's choice (log entry 3): on an empty queue a step answers a next
state with an empty queue, the same tick and phase, and the package time advanced by one unless PORST_N is low. Where
nothing waits for a cycle (no request at a memory die, no region whose logic runs or isolates, no trip input that a
sampling edge would change, no block at a drive link, no write or read of an edge die and none of a DMA channel or of a
plant Ethernet port to be sent, no digest message to be handed over), no store, register, core or packet and nothing of
the Keeper has changed, and the local cycle has advanced by one in a restarting tick and in a running tick that has not
reached its period or is being stretched, and stands otherwise. (02_tick_and_timetable.md; 16_mint_and_thermal.md) -/
def Obligations.IdleCycle : Prop :=
  ∀ s : State, s.pending = [] →
    (∃ t, step s = .next t ∧ t.pending = [] ∧ t.pacer.phase = s.pacer.phase ∧ t.tick = s.tick ∧
      t.boot.time = (if s.boot.porst then s.boot.time else s.boot.time + 1)) ∧
    (s.memIn = [] → (∀ x ∈ s.regions, x.2.phase ≠ .isolating ∧ ∀ k, x.2.clocked k = false) →
      (∀ e, e < 6 → (∀ d ∈ (s.edge e).deliveries, d.left = []) ∧ (∀ g, g < 16 → (s.outGroup (edgeDA e) g).left = []) ∧
        ∀ n, n < 16 → s.tiChanges e n = false) →
      (∀ x ∈ s.lanes, x.2.tx = []) →
      (∀ ch d, s.dma ch = some d → d.run.left = []) →
      (∀ p, p < 4 → (s.eth p).rx = none ∧ (s.eth p).rxq = [] ∧ (s.eth p).tx = none) →
      (∀ x ∈ s.clearings, x.2.partner = none) →
      ∃ t, step s = .next t ∧ SameStores s t ∧ t.regs = s.regs ∧ t.cores = s.cores ∧ t.net = s.net ∧ t.keeper = s.keeper ∧
        t.pacer.cycle = (match s.pacer.phase with
          | .disarmed => s.pacer.cycle
          | .armed => s.pacer.cycle
          | .restarting => s.pacer.cycle + 1
          | .running => if s.period ≤ s.pacer.cycle ∧ s.pacer.stretching = false then s.pacer.cycle else s.pacer.cycle + 1))

/-- Every command completes, and no command changes the queue of waiting commands. For every command and every state exec
answers a next state (the device reports events by FAULT bits, reports and charges, and stops with none of them), in which
the commands that wait are those that waited before. (The queue is this model's, log entry 10.) (opcode_table.json;
95_what_each_step_holds.md) -/
def Obligations.CommandsCompleteAndKeepTheQueue : Prop :=
  ∀ (i : Instr) (s : State), ∃ t, exec i s = .next t ∧ t.pending = s.pending

/-- Every step keeps the canonical form of the memory. For every state whose memory lists rising addresses and no byte equal
to what an unlisted byte reads as: the memory of the state after a step has that form too. (The form, and that an unlisted
byte reads as 0, are the model's: log entry 5.) (19_electrical_and_package.md; 00_scope.md; 05_sparsity_and_gating.md) -/
def Obligations.MemoryFormKept : Prop :=
  ∀ s t : State, MemoryOk s → step s = .next t → MemoryOk t

/-- What reset leaves. At reset the memory is in its canonical form and lists nothing; every register reads its reset word;
the tick is disarmed with PORST_N low, no link trained, no session open and no command waiting; every stop group of every
edge die is tripped (the stop line is asserted while the tick is disarmed); no core runs a program. Fields whose reset
value the spec does not give are named in the log (log entry 12) and not stated here. (17_power_up_and_shutdown.md;
02_tick_and_timetable.md; 12_drive_edge.md; 18_register_pages.md) -/
def Obligations.ResetState : Prop :=
  MemoryOk State.reset ∧ State.reset.mem = [] ∧
    (∀ da page off idx, State.reset.reg da page off idx = (regReset da page off).toNat) ∧
    State.reset.pacer.phase = .disarmed ∧ State.reset.boot.porst = true ∧ State.reset.net.trained = false ∧
    State.reset.sessionOpen = false ∧ State.reset.pending = [] ∧
    (∀ e, (State.reset.edge e).tripped = 0xFFFF) ∧
    (∀ t c cls, (State.reset.bank t c cls).active = false)

/-- No bit of the Vault ever returns to 0. Over every step from every state: a bit of a Vault word that reads 1 before the
step reads 1 after it, whatever the command, power loss and reset included. (14_image_and_vault.md R371) -/
def Obligations.FusesOnlyBlow : Prop :=
  ∀ (s t : State) (k i : Nat), step s = .next t → bit (s.fuse k) i = true → bit (t.fuse k) i = true

/-- A pending register write reaches the instruction that reads it, and the later-issued of two remains. For every bank, cycle
n, register i and value: with the bank's pending writes followed by a write of g register i due at the end of cycle n or n
+ 1, stage OP of an instruction issued in cycle n reads exactly that value and poison in register i; with a write due two
cycles later or more it reads what it reads without it. (06_core_sequencer.md R131; 06_core_sequencer.md R132) -/
def Obligations.PipelineForwards : Prop :=
  ∀ (b : Bank) (n due i : Nat) (v : Word) (p : Bool),
    (due = n + 1 → ((b.push [wrG due i v p]).opView n).gOf i = { val := v, poison := p }) ∧
    (due = n → (∀ w ∈ b.pipe, w.due ≠ n + 1) → ((b.push [wrG due i v p]).opView n).gOf i = { val := v, poison := p }) ∧
    (n + 1 < due → (b.push [wrG due i v p]).opView n = { b.opView n with pipe := b.pipe ++ [wrG due i v p] })

/-- MOV and the integer operations of Format A write what the table says. For ADD, SUB, AND, OR, XOR, SHL, SHR, SAR, MUL, MIN
and MAX, on every core and class at which the sequencer stands at the word and none of its moves is an address fault: the
command answers a next state in which the write of GD with the stated function of the two operands, poisoned where either
operand is, is pending for the end of cycle n + 2, the moves' writes are pending too, one cycle has passed, 6 units are
charged, and no other core has changed. MOV (operation 0) issues its moves alone. (06_core_sequencer.md R154;
06_core_sequencer.md R133; 06_core_sequencer.md R148; 16_mint_and_thermal.md R417) -/
def Obligations.IntegerOperations : Prop :=
  (∀ r ∈ ([(Instr.addG, 1, fun a b => a + b), (Instr.subG, 2, fun a b => a - b), (Instr.andG, 3, fun a b => a &&& b),
        (Instr.orG, 4, fun a b => a ||| b), (Instr.xorG, 5, fun a b => a ^^^ b),
        (Instr.shl, 6, fun a b => a <<< (b.toNat % 32)), (Instr.shr, 7, fun a b => a >>> (b.toNat % 32)),
        (Instr.sar, 8, fun a b => a.sshiftRight (b.toNat % 32)), (Instr.mulG, 9, fun a b => a * b),
        (Instr.minG, 10, fun a b => if a.toInt < b.toInt then a else b),
        (Instr.maxG, 11, fun a b => if a.toInt < b.toInt then b else a)] :
          List ((Nat → Nat → Word64 → Instr) × Nat × (Word → Word → Word))),
      ∀ (s : State) (t c cls : Nat) (w : Word64), SeqAt s t c cls w 0 r.2.1 →
        let n := (s.core t c).time
        let s1 := s.commitStores t c cls n
        let o := (s1.bank t c cls).opView n
        (∀ v ∈ movesA w.toNat, s1.moveFaults t c cls (s1.bank t c cls) v = false) →
        Yields (r.1 t c w) s fun u =>
          Issued s1 u t c cls
            (wrG (n + 2) (iGd w.toNat) (r.2.2 (o.gOf (iGs1 w.toNat)).val (o.gOf (iGs2 w.toNat)).val)
              ((o.gOf (iGs1 w.toNat)).poison || (o.gOf (iGs2 w.toNat)).poison) ::
             (movesA w.toNat).flatMap fun v => s1.moveWrites t c n (s1.bank t c cls) o v)) ∧
    (∀ (s : State) (t c cls : Nat) (w : Word64), SeqAt s t c cls w 0 0 →
        let n := (s.core t c).time
        let s1 := s.commitStores t c cls n
        (∀ v ∈ movesA w.toNat, s1.moveFaults t c cls (s1.bank t c cls) v = false) →
        Yields (.mov t c w) s fun u =>
          Issued s1 u t c cls
            ((movesA w.toNat).flatMap fun v => s1.moveWrites t c n (s1.bank t c cls) ((s1.bank t c cls).opView n) v))

/-- CMP, CMPI and FCMP set Z, N, LO and UO. CMP and CMPI leave pending for cycle n + 2 the flags of their operands: Z equal, N
less as signed, LO less as unsigned, UO 0. FCMP leaves Z, N and UO of the fp32 comparison (a NaN operand: UO alone, and
NVI merged into ASTAT in cycle n + 4). The flags are poisoned where an operand is. (06_core_sequencer.md R154;
06_core_sequencer.md R148) -/
def Obligations.CompareOperations : Prop :=
  (∀ (s : State) (t c cls : Nat) (w : Word64), SeqAt s t c cls w 0 12 →
      let n := (s.core t c).time
      let s1 := s.commitStores t c cls n
      let o := (s1.bank t c cls).opView n
      let a := o.gOf (iGs1 w.toNat)
      let b := o.gOf (iGs2 w.toNat)
      (∀ v ∈ movesA w.toNat, s1.moveFaults t c cls (s1.bank t c cls) v = false) →
      Yields (.cmp t c w) s fun u => Issued s1 u t c cls
        [{ due := n + 2, dst := .flags { z := decide (a.val = b.val), n := decide (a.val.toInt < b.val.toInt), lo := decide (a.val.toNat < b.val.toNat), uo := false, poison := a.poison || b.poison }, val := {} }]) ∧
    (∀ (s : State) (t c cls : Nat) (w : Word64), SeqAt s t c cls w 1 2 →
      let n := (s.core t c).time
      let a := ((s.bank t c cls).opView n).gOf (iGs1 w.toNat)
      let k : Word := BitVec.ofNat 32 (iImm w.toNat)
      Yields (.cmpi t c w) s fun u => Issued s u t c cls
        [{ due := n + 2, dst := .flags { z := decide (a.val = k), n := decide (a.val.toInt < k.toInt), lo := decide (a.val.toNat < k.toNat), uo := false, poison := a.poison }, val := {} }]) ∧
    (∀ (s : State) (t c cls : Nat) (w : Word64), SeqAt s t c cls w 0 17 →
      let n := (s.core t c).time
      let s1 := s.commitStores t c cls n
      let o := (s1.bank t c cls).opView n
      let a := o.gOf (iGs1 w.toNat)
      let b := o.gOf (iGs2 w.toNat)
      let x := fFp32.decode a.val.toNat
      let y := fFp32.decode b.val.toNat
      let nan := x.isNan || y.isNan
      (∀ v ∈ movesA w.toNat, s1.moveFaults t c cls (s1.bank t c cls) v = false) →
      Yields (.fcmp t c w) s fun u => Issued s1 u t c cls
        [{ due := n + 2, dst := .flags { z := !nan && x.cmpX y == 0, n := !nan && x.cmpX y == -1, lo := false, uo := nan, poison := a.poison || b.poison }, val := {} },
         { due := n + 4, dst := .astatSet, val := { val := if nan then 8 else 0, poison := false } }])

/-- FADD, FSUB, FMUL, FMA, FCVTI and FCVTZ write the rounded result and merge its flags. Each leaves pending for cycle n + 4
the write of GD with the fp32 result, rounded to nearest even (FMA: of GS1 x GS2 + old GD rounded once; FCVTI: of the
signed integer; FCVTZ: the integer of the value rounded toward zero), and the merge of that result's flags into ASTAT. The
destination is poisoned where an operand that the operation reads is. (06_core_sequencer.md R154;
04_arithmetic_and_formats.md R105) -/
def Obligations.FloatOperations : Prop :=
  ∀ r ∈ ([(Instr.fadd, 13, fun _ a b => fFp32.addR .near a.toNat b.toNat, true, false),
        (Instr.fsub, 14, fun _ a b => fFp32.subR .near a.toNat b.toNat, true, false),
        (Instr.fmul, 15, fun _ a b => fFp32.mulR .near a.toNat b.toNat, true, false),
        (Instr.fma, 16, fun d a b => fFp32.fmaR .near a.toNat b.toNat d.toNat, true, true),
        (Instr.fcvti, 18, fun _ a _ => fFp32.result .near (Machine.Num.ofInt a.toInt), false, false),
        (Instr.fcvtz, 19, fun _ a _ => encodeInt 32 true .zero 0 (fFp32.decode a.toNat), false, false)] :
          List ((Nat → Nat → Word64 → Instr) × Nat × (Word → Word → Word → Nat × BitVec 4) × Bool × Bool)),
    ∀ (s : State) (t c cls : Nat) (w : Word64), SeqAt s t c cls w 0 r.2.1 →
      let n := (s.core t c).time
      let s1 := s.commitStores t c cls n
      let o := (s1.bank t c cls).opView n
      let d := o.gOf (iGd w.toNat)
      let a := o.gOf (iGs1 w.toNat)
      let b := o.gOf (iGs2 w.toNat)
      let x := r.2.2.1 d.val a.val b.val
      (∀ v ∈ movesA w.toNat, s1.moveFaults t c cls (s1.bank t c cls) v = false) →
      Yields (r.1 t c w) s fun u => Issued s1 u t c cls
        [wrG (n + 4) (iGd w.toNat) (BitVec.ofNat 32 x.1)
           (a.poison || (r.2.2.2.1 && b.poison) || (r.2.2.2.2 && d.poison)),
         { due := n + 4, dst := .astatSet, val := { val := x.2.setWidth 32, poison := false } }]

/-- LDI, ADDI, SETA, SETM, SETL, MOVA, MOVM, MOVL, MOVG, RDS, CLST and CLEV. LDI, ADDI, MOVG and RDS leave the write of GD
pending for cycle n + 2; MOVA, MOVM and MOVL (source not poisoned; for MOVL not above 0x10_0000) and CLST and CLEV leave
theirs pending for cycle n + 2; SETA, SETM and SETL have set their register by the end of the issue cycle.
(06_core_sequencer.md R154; 06_core_sequencer.md R156; 06_core_sequencer.md R131) -/
def Obligations.ImmediateAndMoveOperations : Prop :=
  ∀ (s : State) (t c cls : Nat) (w : Word64),
    let n := (s.core t c).time
    let b := s.bank t c cls
    let o := b.opView n
    let k : Word := BitVec.ofNat 32 (iImm w.toNat)
    let g := o.gOf (iGs1 w.toNat)
    let i := iAi w.toNat
    let reg := fun (due : Nat) (dst : WDst) (v : Word) => ({ due := due, dst := dst, val := { val := v, poison := false } } : PendWrite)
    (SeqAt s t c cls w 1 0 → Yields (.ldi t c w) s fun u => Issued s u t c cls [wrG (n + 2) (iGd w.toNat) k false]) ∧
    (SeqAt s t c cls w 1 1 → Yields (.addi t c w) s fun u =>
      Issued s u t c cls [wrG (n + 2) (iGd w.toNat) (g.val + k) g.poison]) ∧
    (SeqAt s t c cls w 1 5 → Yields (.seta t c w) s fun u => Issued s u t c cls [] ∧ (u.bank t c cls).aOf i = k.toNat % 2 ^ 20) ∧
    (SeqAt s t c cls w 1 6 → Yields (.setm t c w) s fun u =>
      Issued s u t c cls [] ∧ (u.bank t c cls).mOf i = sext 20 (k.toNat % 2 ^ 20)) ∧
    (SeqAt s t c cls w 1 7 → Yields (.setl t c w) s fun u => Issued s u t c cls [] ∧ (u.bank t c cls).lOf i = k.toNat % 2 ^ 21) ∧
    (SeqAt s t c cls w 1 8 → g.poison = false → Yields (.mova t c w) s fun u => Issued s u t c cls [reg (n + 2) (.a i) g.val]) ∧
    (SeqAt s t c cls w 1 9 → g.poison = false → Yields (.movm t c w) s fun u => Issued s u t c cls [reg (n + 2) (.m i) g.val]) ∧
    (SeqAt s t c cls w 1 10 → g.poison = false → g.val.toNat ≤ 0x100000 →
      Yields (.movl t c w) s fun u => Issued s u t c cls [reg (n + 2) (.l i) g.val]) ∧
    (SeqAt s t c cls w 1 11 → Yields (.movg t c w) s fun u =>
      Issued s u t c cls [wrG (n + 2) (iGd w.toNat) (BitVec.ofNat 32 (b.aOf i)) false]) ∧
    (SeqAt s t c cls w 1 12 → Yields (.rds t c w) s fun u => Issued s u t c cls
      [wrG (n + 2) (iGd w.toNat) (match iImm w.toNat with
        | 0 => o.astat.setWidth 32
        | 1 => BitVec.ofNat 32 (boolNat o.ck + 2 * boolNat o.ps + 4 * boolNat o.ab)
        | 2 => BitVec.ofNat 32 s.pacer.cycle
        | 3 => BitVec.ofNat 32 s.pacer.tick
        | 4 => BitVec.ofNat 32 (s.pacer.tick / 2 ^ 32)
        | 5 => BitVec.ofNat 32 (s.logicalId t c)
        | _ => BitVec.ofNat 32 (o.outM % 256 + 256 * (o.outV % 256) + 65536 * (o.outS % 256))) false]) ∧
    (SeqAt s t c cls w 1 13 → Yields (.clst t c w) s fun u => Issued s u t c cls [reg (n + 2) .astatClr k]) ∧
    (SeqAt s t c cls w 1 14 → Yields (.clev t c w) s fun u => Issued s u t c cls [reg (n + 2) .evClr k])

/-- LD and ST move one word and post-modify the address register. Where the access is aligned and inside the class's window
(on C: inside the coefficient store): LD leaves pending for cycle n + 4 the write of GD with the four bytes at the address
register and the poison of their granule; ST leaves pending for cycle n + 3 the store of GS1 with its poison at that
address; both leave the address register post-modified. Otherwise the program of the class stops as a faulted program: its
bank is no longer active and SEQ FAULT.ADDR is set. (06_core_sequencer.md R133; 06_core_sequencer.md R137;
06_core_sequencer.md R138; 06_core_sequencer.md R139) -/
def Obligations.LoadsAndStores : Prop :=
  ∀ (s : State) (t c cls : Nat) (w : Word64),
    let n := (s.core t c).time
    let s1 := s.commitStores t c cls n
    let b := s1.bank t c cls
    let a := b.aOf (iAi w.toNat)
    let bus := iBus w.toNat
    let ok := a % 4 = 0 ∧ if bus = 2 then a < 0x10000 else s1.inWindow t c cls a 4 = true
    let a' := BitVec.ofNat 20 (postMod a (b.mOf (iMi w.toNat)) (b.lOf (iAi w.toNat)))
    (SeqAt s t c cls w 1 3 → ok → Yields (.ld t c w) s fun u =>
      (u.bank t c cls).aOf (iAi w.toNat) = a'.toNat ∧ Issued s1 u t c cls
        [wrG (n + 4) (iGd w.toNat)
          (BitVec.ofNat 32 (s1.word (if bus = 2 then .coef else .core) (coreKey t c) a))
          (s1.psn (if bus = 2 then .coef else .core) (coreKey t c) a)]) ∧
    (SeqAt s t c cls w 1 4 → ok → Yields (.st t c w) s fun u =>
      (u.bank t c cls).aOf (iAi w.toNat) = a'.toNat ∧ Issued s1 u t c cls
        [{ due := n + 3, dst := if bus = 2 then .coef a else .core a, val := (b.opView n).gOf (iGs1 w.toNat) }]) ∧
    (SeqAt s t c cls w 1 3 → ¬ ok → Yields (.ld t c w) s fun u =>
      (u.bank t c cls).active = false ∧ bit (u.reg (tileDA t) (pgSeq c) 0x014) 0 = true) ∧
    (SeqAt s t c cls w 1 4 → ¬ ok → Yields (.st t c w) s fun u =>
      (u.bank t c cls).active = false ∧ bit (u.reg (tileDA t) (pgSeq c) 0x014) 0 = true)

/-- B, CALL and RET leave two delay slots and the target of a taken transfer. With a condition that holds: B leaves its target
to follow the two words after it; CALL does so too and pushes the address after its delay slots where the return stack
holds fewer than four; RET takes its target from the top of a return stack that is not empty. With a condition that does
not hold, the two words after it follow and the return stack is as before. No condition that reads the compare flags reads
poisoned ones here. (06_core_sequencer.md R140; 06_core_sequencer.md R155; 06_core_sequencer.md R147) -/
def Obligations.ControlTransfers : Prop :=
  ∀ (s : State) (t c cls : Nat) (w : Word64),
    let b := s.bank t c cls
    let clean := condReadsFlags (iCond w.toNat) = false ∨ b.flags.poison = false
    let tgt := BitVec.ofNat 17 (iTarget w.toNat)
    let after := fun (u : State) (dst : Option (BitVec 17)) (stack : List (BitVec 17)) =>
      Issued s u t c cls [] ∧ (u.bank t c cls).pc = b.pc + 1 ∧ (u.bank t c cls).delay = some (2, dst) ∧
        (u.bank t c cls).rstack = stack
    clean →
    (SeqAt s t c cls w 2 0 → b.cond (iCond w.toNat) = some true → Yields (.br t c w) s fun u => after u (some tgt) b.rstack) ∧
    (SeqAt s t c cls w 2 0 → b.cond (iCond w.toNat) = some false → Yields (.br t c w) s fun u => after u none b.rstack) ∧
    (SeqAt s t c cls w 2 1 → b.cond (iCond w.toNat) = some true → b.rstack.length < 4 →
      Yields (.call t c w) s fun u => after u (some tgt) ((b.pc + 3) :: b.rstack)) ∧
    (SeqAt s t c cls w 2 1 → b.cond (iCond w.toNat) = some false → Yields (.call t c w) s fun u => after u none b.rstack) ∧
    (∀ p r, SeqAt s t c cls w 2 2 → b.cond (iCond w.toNat) = some true → b.rstack = p :: r →
      Yields (.ret t c w) s fun u => after u (some p) r) ∧
    (SeqAt s t c cls w 2 2 → b.cond (iCond w.toNat) = some false → Yields (.ret t c w) s fun u => after u none b.rstack)

/-- RPT, RPB, WAIT and END. A repeat of n > 0 iterations of its body pushes one repeat record with n - 1 iterations left and
goes to the body's first word, one repeat of 0 iterations passes three cycles and, outside another repeat, goes past the
body; the count is the immediate, or the low half of a g register that is not poisoned. WAIT with no more outstanding work
of its unit than COUNT issues; otherwise nothing issues and at an interruptible boundary the bank holds. END with no work
outstanding ends the program: the bank is no longer active; a program's timetable entry is complete, and a class 0 or
class 1 program reports what is left of its coins as a refund, or sets COIN_OVER (MNT FAULT bit 0) where it spent more; a
task is no longer running. (06_core_sequencer.md R141; 06_core_sequencer.md R142; 06_core_sequencer.md R152;
06_core_sequencer.md R135; 06_core_sequencer.md R153) -/
def Obligations.RepeatsAndWaits : Prop :=
  ∀ (s : State) (t c cls : Nat) (w : Word64),
    let b := s.bank t c cls
    let g := b.gOf (iCgs w.toNat)
    let n := if iCsrc w.toNat then g.val.toNat % 2 ^ 16 else iCount w.toNat
    let body := fun (u : State) (len : Nat) =>
      Issued s u t c cls [] ∧ (u.bank t c cls).pc = b.pc + 1 ∧
      (u.bank t c cls).loops =
        { first := b.pc + 1, last := b.pc + BitVec.ofNat 17 len, left := n - 1, fence := iFence w.toNat } :: b.loops
    ((iCsrc w.toNat = false ∨ g.poison = false) →
      (SeqAt s t c cls w 2 3 → 0 < n → Yields (.rpt t c w) s fun u => body u 1) ∧
      (SeqAt s t c cls w 2 3 → n = 0 → Yields (.rpt t c w) s fun u =>
        (u.core t c).time = (s.core t c).time + 3 ∧ (b.loops = [] → (u.bank t c cls).pc = b.pc + 2)) ∧
      (SeqAt s t c cls w 2 4 → iLen w.toNat ≠ 0 → 0 < n → Yields (.rpb t c w) s fun u => body u (iLen w.toNat)) ∧
      (SeqAt s t c cls w 2 4 → iLen w.toNat ≠ 0 → n = 0 → Yields (.rpb t c w) s fun u =>
        (u.core t c).time = (s.core t c).time + 3 ∧
        (b.loops = [] → (u.bank t c cls).pc = b.pc + BitVec.ofNat 17 (iLen w.toNat) + 1)) ∧
      (SeqAt s t c cls w 2 4 → iLen w.toNat = 0 → Yields (.rpb t c w) s fun u => Issued s u t c cls [])) ∧
    (SeqAt s t c cls w 2 5 → b.outstanding (iUnit w.toNat) ≤ iCount w.toNat → Yields (.wait t c w) s fun u =>
      Issued s u t c cls []) ∧
    (SeqAt s t c cls w 2 5 → iCount w.toNat < b.outstanding (iUnit w.toNat) → b.boundary = true → Yields (.wait t c w) s fun u =>
      (u.bank t c cls).holding = true ∧ (u.bank t c cls).pc = b.pc ∧ (u.bank t c cls).spent = b.spent) ∧
    (SeqAt s t c cls w 2 6 → b.outM = 0 ∧ b.outV = 0 ∧ b.outS = 0 → Yields (.endP t c w) s fun u =>
      (u.bank t c cls).active = false ∧
      (b.isTask = true → (u.disp t c).running = none) ∧
      (b.isTask = false → (b.entry, b.startTick) ∈ u.pacer.complete ∧
        (cls ≠ 2 →
          let coins := ((tget? (s.core t c).programs b.prog).map fun h => h.coins * 2 ^ 20).getD 0
          (b.spent + 6 < coins → (t, coins - (b.spent + 6)) ∈ u.mint.refunds) ∧
          (coins < b.spent + 6 → bit (u.reg pacerDA pgMnt 0x014) 0 = true))))

/-- MQI, MQIM, VLA, SIS and ARRIVE hand their work to the unit. MQI and MQIM with unpoisoned operands, a queue of fewer than
four commands, the quad's page enabled and the charge covered append one command, made of the four words, to the quad's
queue and count one outstanding matrix command. VLA of n > 0 rolls that fit and are free takes n more rolls and counts one
outstanding launch. SIS of a stream of one element or more that is not refused, with an entry of its class's queue free
and no stream waiting for one, counts one outstanding stream and takes that entry with the stream of that descriptor.
ARRIVE at its own or a bound die issues and hands the arrival of its tally to the NI. (06_core_sequencer.md R150;
06_core_sequencer.md R151; 07_rolls_and_tasks.md R163; 08_streamers.md R194) -/
def Obligations.UnitIssue : Prop :=
  ∀ (s : State) (t c cls : Nat) (w : Word64),
    let b := s.bank t c cls
    let n := (s.core t c).time
    let o := b.opView n
    let g := fun k => o.gOf (iGs1 w.toNat + k)
    let room := fun (s : State) (m : MqCmd) =>
      ((s.core t c).quad.queue.filter fun x => decide (2 ≤ cls) || x.cls != 2).length < 4 ∧
      s.coinHold t c cls m.charge = false ∧ s.pageEn (tileDA t) (pgMq c) = true
    let queued := fun (s u : State) (m : MqCmd) =>
      (u.core t c).quad.queue = (s.core t c).quad.queue.filter (fun x => decide (2 ≤ cls) || x.cls != 2) ++ [m] ∧
      (u.bank t c cls).outM = (s.bank t c cls).outM + 1 ∧ (u.core t c).time = n + 1
    let cmd := fun (s : State) (w0 w1 w2 w3 : Word) => ({ w0 := w0, w1 := w1, w2 := w2, w3 := w3, cls := cls, seq := s.reg (tileDA t) (pgMq c) 0x048, skip := b.skip, due := (s.core t c).clock + 5, noSkip := bit (s.reg (tileDA t) (pgSeq c) 0x06C) 0, noGate := bit (s.reg (tileDA t) (pgSeq c) 0x06C) 1 } : MqCmd)
    (SeqAt s t c cls w 3 0 → cls < 3 → (∀ k, k < 4 → (g k).poison = false) →
      room s (cmd s (g 0).val (g 1).val (g 2).val (g 3).val) →
      Yields (.mqi t c w) s fun u => queued s u (cmd s (g 0).val (g 1).val (g 2).val (g 3).val)) ∧
    (let s1 := s.commitStores t c cls n
     let a := (s1.bank t c cls).aOf (iDai w.toNat)
     let v := fun k => BitVec.ofNat 32 (s1.word .core (coreKey t c) (a + 4 * k))
     SeqAt s t c cls w 3 1 → cls < 3 → a % 16 = 0 → s1.inWindow t c cls a 16 = true → s1.psn .core (coreKey t c) a = false →
      room s1 (cmd s1 (v 0) (v 1) (v 2) (v 3)) →
      Yields (.mqim t c w) s fun u => queued s1 u (cmd s1 (v 0) (v 1) (v 2) (v 3))) ∧
    (let lw := o.gOf (iGs1 w.toNat)
     let arg := o.gOf (iGs2 w.toNat)
     let k := launchRolls lw.val
     SeqAt s t c cls w 3 2 → lw.poison = false → arg.poison = false → s.launchRefused t c cls lw.val = false →
      0 < k → k ≤ (s.freeRolls t c cls).length → s.pageEn (tileDA t) (pgVec c) = true →
      Yields (.vla t c w) s fun u =>
        (u.bank t c cls).outV = b.outV + 1 ∧ (u.core t c).vec.nextLaunch = (s.core t c).vec.nextLaunch + 1 ∧
        ∀ i r, (s.freeRolls t c cls)[i]? = some r → i < k →
          tget? (u.core t c).vec.rolls r =
            some (rollStart cls (s.core t c).vec.nextLaunch (launchEntry lw.val) ((s.core t c).clock + 4) i arg.val)) ∧
    (SeqAt s t c cls w 3 3 → (s.core t c).str.count cls < 4 → (∀ x ∈ (s.core t c).str.waiting, x.cls ≠ cls) →
      s.coinHold t c cls 0 = false →
      (∃ d, (s.commitStores t c cls (n + 3)).descriptor t c cls (iImm16 w.toNat) = some d ∧ dTotal d ≠ 0 ∧
        s.streamOk t c cls (decide (iImm16 w.toNat < 1024)) d = true) → s.pageEn (tileDA t) (pgStr c) = true →
      Yields (.sis t c w) s fun u =>
        (u.bank t c cls).outS = b.outS + 1 ∧ (u.core t c).str.count cls = (s.core t c).str.count cls + 1 ∧
        ∃ st ∈ (u.core t c).str.streams, st.cls = cls ∧ st.src = .sis ∧ st.index = iImm16 w.toNat) ∧
    (SeqAt s t c cls w 3 4 → ∀ d, (if iDie w.toNat = 0xFF then some t else s.physDie (iDie w.toNat)) = some d →
      Yields (.arrive t c w) s fun u => Issued s u t c cls [] ∧
        Sends s u { arrPkt (tileDA t) c 9 cls (iImm16 w.toNat) with dst := BitVec.ofNat 8 (tileDA d) })

/-- GATE writes the selected experts as a mask and in order. With an unpoisoned threshold and unpoisoned, aligned scores
inside the window, GATE leaves pending for cycle n + 4 + ceil(E/8) the write of GD with the mask of the selected experts
and of GD + 1 with their order and number. The selected are at most KMAX, and each has a score that is no NaN and not
below the threshold. (05_sparsity_and_gating.md R119; 05_sparsity_and_gating.md R120; 05_sparsity_and_gating.md R121) -/
def Obligations.GateSelects : Prop :=
  (∀ (s : State) (t c cls : Nat) (w : Word64), SeqAt s t c cls w 3 5 →
      let n := (s.core t c).time
      let b := s.bank t c cls
      let e := iE w.toNat
      let a := b.aOf (iDai w.toNat)
      let th := (b.opView n).gOf (iGs1 w.toNat)
      let sc := s.gateScores t c cls n a e
      let sel := gateSelect (fFp32.decode th.val.toNat) (sc.map fun x => fFp32.decode x.val.toNat) (iKmax w.toNat)
      let due := n + 4 + (e + 7) / 8
      th.poison = false → (e = 0 ∨ (a % 4 = 0 ∧ s.inWindow t c cls a (4 * e) = true)) → (∀ x ∈ sc, x.poison = false) →
      Yields (.gate t c w) s fun u => Issued s u t c cls
        [wrG due (iGd w.toNat) (BitVec.ofNat 32 (gateMask sel)) false,
         wrG due (iGd w.toNat + 1) (BitVec.ofNat 32 (gateOrder sel)) false]) ∧
    (∀ (theta : Machine.Num) (xs : List Machine.Num) (kmax : Nat),
      (gateSelect theta xs kmax).length ≤ kmax ∧
      ∀ i ∈ gateSelect theta xs kmax, ∃ x, xs[i]? = some x ∧ x.isNan = false ∧ x.cmpX theta ≠ -1)

/-- PREEMPT gives the sequencer to the class that outranks the issuing one. At an interruptible boundary of the issuing class,
with no frozen pipeline and a higher class active, PREEMPT makes the highest active class the issuing one, four cycles
later; every write of the preempted bank has taken effect and none is pending due by then. Without these conditions
nothing changes. (06_core_sequencer.md R144; 06_core_sequencer.md R145; 06_core_sequencer.md R146) -/
def Obligations.PreemptionAtBoundary : Prop :=
  ∀ (s : State) (t c cls h : Nat), (s.core t c).issuing = some cls → (s.core t c).highest = some h →
    (h < cls → ((s.core t c).bank cls).boundary = true → (s.core t c).frozen = false →
      Yields (.preempt t c) s fun u => (u.core t c).issuing = some h ∧ (u.core t c).time = (s.core t c).time + 4 ∧
        ∀ x ∈ (u.bank t c cls).pipe, x.due < (s.core t c).time) ∧
    (¬ (h < cls ∧ ((s.core t c).bank cls).boundary = true ∧ (s.core t c).frozen = false) →
      Yields (.preempt t c) s fun u => u = s)

/-- A matrix command leaves the front of the quad's queue. With a command at the front of the queue that is due: a NOP of
zeros is taken and counted complete; a legal weight load is taken when no load runs and holds the image bytes it reads; a
legal multiply that fits and is ready is taken and joins the executing multiplies, its SWAP exchanges the planes, and
where it may not be skipped every accumulator entry of its M rows and N outputs holds the pass result, added to the old
entry with ACC = 1, poisoned where the row, a weight or the old entry is; an illegal multiply sets CMD_REFUSED and stops
the program of its class. (03_matrix_quads.md R61; 03_matrix_quads.md R63; 03_matrix_quads.md R67; 03_matrix_quads.md R74;
03_matrix_quads.md R69) -/
def Obligations.MatrixQueue : Prop :=
  ∀ (s : State) (t c : Nat) (m : MqCmd) (r : List MqCmd), s.queueHead t c = some (m, r) →
    let q := s.quad t c
    (m.w0 = 0 → m.w1 = 0 → m.w2 = 0 → m.w3 = 0 → Yields (.matrixNop t c) s fun u =>
      (u.quad t c).queue = r ∧ (u.bank t c m.cls).outM = (s.bank t c m.cls).outM - 1 ∧
      u.reg (tileDA t) (pgMq c) 0x044 = (s.reg (tileDA t) (pgMq c) 0x044 + 1) % 2 ^ 32) ∧
    (m.kind = 1 → m.loadLegal = true → q.load = none →
      (m.wide = false ∨ anyBadCls (m.loadBytes / 4)
        (s.bytesAt (if m.fromDie then .die else .core) (if m.fromDie then t else coreKey t c) (m.saddr * 32) m.loadBytes) = false) →
      Yields (.weightLoad t c) s fun u =>
      (u.quad t c).queue = r ∧ (u.quad t c).load = some m ∧ (u.quad t c).planes = q.planes ∧
      (u.quad t c).loadImg =
        s.bytesAt (if m.fromDie then .die else .core) (if m.fromDie then t else coreKey t c) (m.saddr * 32) m.loadBytes) ∧
    (∀ md g, m.kind = 2 → m.geo = some (md, g) → m.mulLegal = true → q.fits m = true → q.mulReady m g = true →
      Yields (.matrixMultiply t c) s fun u =>
        (u.quad t c).queue = r ∧ (∃ e ms, (u.quad t c).muls = ms ++ [e] ∧ ms.map (·.cmd) = q.muls.map (·.cmd) ∧ e.cmd = m ∧ e.rows = m.m) ∧
        (u.quad t c).active = (if m.swap then ~~~q.active else q.active) ∧
        (s.skippable t c m g q = false → ∀ i n, i < m.m → n < g.n →
          let s' := s.chainHit t c m g
          let q' := s'.quad t c
          let old : AccEnt := tget (q'.row (m.accrow + i)).ent n {}
          let x := (s'.passOut t c m md g q' (s'.injection t c m) i n).1
          let new : AccEnt := tget ((u.quad t c).row (m.accrow + i)).ent n {}
          new.val = (if m.acc then (md.accumulate old.val x).1 else x) ∧
          new.poison = (s.rowPoison t c m g i || m.outPoison g q' n || (m.acc && old.poison)))) ∧
    (m.kind = 2 → m.geo = none ∨ m.mulLegal = false → Yields (.matrixMultiply t c) s fun u =>
      (u.bank t c m.cls).active = false ∧ bit (u.reg (tileDA t) (pgMq c) 0x014) 2 = true)

/-- MULTIPLY_COMPLETE, WEIGHT_LOAD_COMPLETE and MATRIX_CHECK. MULTIPLY_COMPLETE takes the multiply that completes next, the
oldest executing one, or one behind it that its times let pass every older one, whose failed checks are all reported and
which are skipped ones with outputs where it runs itself; where no failed check of it is still to be reported, it writes
its outputs that no other of its outputs overlaps, merges its flags into ASTAT of its class, reports its refund, and
counts one outstanding command less and one completed command more. WEIGHT_LOAD_COMPLETE ends the running load: the shadow
plane of every array that the load names is valid and holds the format and the bytes of the load and the clean flag of
those (no infinite, NaN or poisoned weight), active planes are as they were, and the counts change in the same way.
MATRIX_CHECK on the oldest executing multiply (not skipped, of a known geometry, with a failure of its pass or of the
operand in its range) sets CK in the bank of its class and CHK_COL or CHK_ROW as the failures say, charges every failing
array confirmed, reports a class 0 or class 1 command to the Pacer, marks failed the accumulator entries that a failing
array feeds in the rows that no later multiply with ACC = 0 writes, poisons the outputs made of them, and leaves the same
number of executing multiplies, none of the first one's failures still to be reported. (03_matrix_quads.md R69;
05_sparsity_and_gating.md R117; 03_matrix_quads.md R74; 03_matrix_quads.md R75; 04_arithmetic_and_formats.md R104;
03_matrix_quads.md R79; 15_audit_and_ledger.md R381) -/
def Obligations.MatrixCompletionsAndChecks : Prop :=
  (∀ (s : State) (t c : Nat),
    (∀ e r, (s.quad t c).muls = e :: r → ∃ x y, s.nextDone (s.quad t c) = some (x, y) ∧
      ((x = e ∧ y = r) ∨ ∃ i, 0 < i ∧ (s.quad t c).muls[i]? = some x ∧ y = (s.quad t c).muls.eraseIdx i ∧
        ∀ o ∈ (s.quad t c).muls.take i, o.fails = [] ∧ (x.skipped = true ∨ (o.skipped = true ∧ o.cmd.out = true)))) ∧
    (∀ e r, s.nextDone (s.quad t c) = some (e, r) → e.fails = [] → Yields (.multiplyComplete t c) s fun u =>
      (u.quad t c).muls = r ∧ (u.bank t c e.cmd.cls).astat = (s.bank t c e.cmd.cls).astat ||| e.flags ∧
      (u.bank t c e.cmd.cls).outM = (s.bank t c e.cmd.cls).outM - 1 ∧
      u.reg (tileDA t) (pgMq c) 0x044 = (s.reg (tileDA t) (pgMq c) 0x044 + 1) % 2 ^ 32 ∧
      (e.refund ≠ 0 → (t, e.refund) ∈ u.mint.refunds) ∧
      ∀ o ∈ e.outs, (∀ o' ∈ e.outs, o' = o ∨ o'.addr + o'.bytes.length ≤ o.addr ∨ o.addr + o.bytes.length ≤ o'.addr) →
        u.bytesAt .core (coreKey t c) o.addr o.bytes.length = o.bytes) ∧
    (∀ m, (s.quad t c).load = some m → Yields (.weightLoadComplete t c) s fun u =>
      (u.quad t c).load = none ∧ (u.quad t c).muls = (s.quad t c).muls ∧ (u.quad t c).active = (s.quad t c).active ∧
      (∀ a, a < 4 → bit m.amask a = true → ((u.quad t c).shadowPlane a).valid = true ∧ ((u.quad t c).shadowPlane a).wfmt = m.lwfmt ∧
        ((u.quad t c).shadowPlane a).sparse = m.lsparse ∧
        ((u.quad t c).shadowPlane a).clean = ((u.quad t c).shadowPlane a).soundRows (List.range 32) ∧
        ((u.quad t c).shadowPlane a).img = ((s.quad t c).loadImg.drop
          (arrayBytes m.lwfmt m.lsparse * ((List.range a).filter fun b => bit m.amask b).length)).take (arrayBytes m.lwfmt m.lsparse)) ∧
      (∀ a, a < 4 → (u.quad t c).activePlane a = (s.quad t c).activePlane a) ∧
      (u.bank t c m.cls).outM = (s.bank t c m.cls).outM - 1 ∧
      u.reg (tileDA t) (pgMq c) 0x044 = (s.reg (tileDA t) (pgMq c) 0x044 + 1) % 2 ^ 32)) ∧
  (∀ (s : State) (t c : Nat) (fails : List CheckFail) (e : MulExec) (r : List MulExec), (s.quad t c).muls = e :: r →
    ∀ md g, e.cmd.geo = some (md, g) → e.skipped = false → mergeFails e.fails fails e.cmd.m ≠ [] →
    let m := e.cmd
    let all := mergeFails e.fails fails m.m
    let hit := fun n => (m.sources g n).1.any fun a => all.any fun f => f.array == a
    Yields (.matrixCheck t c fails) s fun u =>
      (u.bank t c e.cmd.cls).ck = true ∧ (u.quad t c).muls.length = (s.quad t c).muls.length ∧
      (∀ x y, (u.quad t c).muls = x :: y → x.fails = [] ∧ x.outs = m.failOuts (m.failEnts g all) e.outs) ∧
      (∀ i n, i < m.m → n < g.n → hit n = true → (∀ x ∈ r, x.cmd.acc = true ∨ m.accrow + i < x.cmd.accrow ∨ x.cmd.accrow + x.cmd.m ≤ m.accrow + i) →
        (tget ((u.quad t c).row (m.accrow + i)).ent n ({} : AccEnt)).failed = true) ∧
      (∀ f ∈ all, Charges s u (tileDA t) (ledgerRef (tileDA t) 0x01 (4 * c + f.array)) ckConfirmed 0x02
        ((failColumn f m.m).getD noRef)) ∧
      (∀ f l, all = f :: l → m.cls < 2 →
        Reports s u (tileDA t) m.cls 0x02 (ledgerRef (tileDA t) 0x01 (4 * c + f.array)) (chkInfo all m.m)) ∧
      (bit (chkInfo (mergeFails e.fails fails e.cmd.m) e.cmd.m) 2 = true → bit (u.reg (tileDA t) (pgMq c) 0x014) 0 = true) ∧
      (bit (chkInfo (mergeFails e.fails fails e.cmd.m) e.cmd.m) 3 = true → bit (u.reg (tileDA t) (pgMq c) 0x014) 1 = true))

/-- Lane-wise vector instructions write each active lane and leave the rest. For the arithmetic, logic, shift, convert,
immediate, select, shuffle and transcendental instructions: where the roll stands at the word, the command answers a next
state in which the roll has gone on to the next word; in every active lane the destination register holds the
instruction's result, poisoned where a source or the guard is; every inactive lane, every other register and every
predicate of the roll is as before, and no other roll of the core has changed. (07_rolls_and_tasks.md R170;
07_rolls_and_tasks.md R171; 07_rolls_and_tasks.md R172; 04_arithmetic_and_formats.md R105) -/
def Obligations.VectorLanes : Prop :=
  ∀ r ∈ ([(Instr.vadd, 0x01, fun n => arithLane 1 n), (Instr.vsub, 0x02, fun n => arithLane 2 n),
        (Instr.vmul, 0x03, fun n => arithLane 3 n), (Instr.vfma, 0x04, fun n => arithLane 4 n),
        (Instr.vmin, 0x05, fun n => arithLane 5 n), (Instr.vmax, 0x06, fun n => arithLane 6 n),
        (Instr.vand, 0x07, fun n => intLane n fun a b => a &&& b), (Instr.vor, 0x08, fun n => intLane n fun a b => a ||| b),
        (Instr.vxor, 0x09, fun n => intLane n fun a b => a ^^^ b),
        (Instr.vshl, 0x0A, fun n => intLane n fun a b => a <<< (b.toNat % 32)),
        (Instr.vshr, 0x0B, fun n => intLane n fun a b => a >>> (b.toNat % 32)),
        (Instr.vsar, 0x0C, fun n => intLane n fun a b => a.sshiftRight (b.toNat % 32)),
        (Instr.vcvt, 0x0D, fun n => cvtLane n),
        (Instr.vmovi, 0x0E, fun n x l => if vHi n
          then ({ val := BitVec.ofNat 32 ((x.reg (vVd n) l).val.toNat % 2 ^ 16 + 2 ^ 16 * vImm n), poison := (x.reg (vVd n) l).poison }, 0)
          else ({ val := BitVec.ofInt 32 (sext 16 (vImm n)), poison := false }, 0)),
        (Instr.vsel, 0x10, fun n x l => ({ val := if (x.psel n l).1 then (x.reg (vVa n) l).val else (x.reg (vVb n) l).val, poison := (x.psel n l).2 || (x.reg (vVa n) l).poison || (x.reg (vVb n) l).poison }, 0)),
        (Instr.vshfl, 0x11, fun n x l => ({ val := (x.reg (vVa n) ((x.reg (vVb n) l).val.toNat % 32)).val, poison := (x.reg (vVa n) ((x.reg (vVb n) l).val.toNat % 32)).poison || (x.reg (vVb n) l).poison }, 0)),
        (Instr.vtu, 0x15, fun n x l =>
          let b : PWord := if vImm n = 7 then x.reg (vVb n) l else {}
          let v := tuOp (vImm n) (vRnd n) (x.reg (vVa n) l).val.toNat b.val.toNat
          ({ val := BitVec.ofNat 32 v.1, poison := (x.reg (vVa n) l).poison || b.poison }, v.2))] :
          List ((Nat → Nat → Nat → Word64 → Instr) × Nat × (Nat → Roll → Nat → PWord × BitVec 4))),
    ∀ (s : State) (t c i : Nat) (w : Word64) (x : Roll), s.slot t c i w r.2.1 = some x →
      Yields (r.1 t c i w) s fun u => ∃ y, tget? (u.core t c).vec.rolls i = some y ∧
        y.pc = (x.pc + 1) % 4096 ∧ y.p = x.p ∧
        (∀ l, l < 32 → x.active w.toNat l = true → y.reg (vVd w.toNat) l =
          { val := (r.2.2 w.toNat x l).1.val, poison := (r.2.2 w.toNat x l).1.poison || x.guardPoison w.toNat l }) ∧
        (∀ l, l < 32 → x.active w.toNat l = false → y.reg (vVd w.toNat) l = x.reg (vVd w.toNat) l) ∧
        (∀ v l, v ≠ vVd w.toNat → l < 32 → y.reg v l = x.reg v l) ∧
        (∀ j, j ≠ i → tget? (u.core t c).vec.rolls j = tget? (s.core t c).vec.rolls j)

/-- VRED, VCMP and VCLR. Where the roll stands at a VRED, there is one value that every active lane of the destination holds
after it, and every inactive lane is as before. It is the result of the tree of five levels over the active lanes' sources
and the identity in the others, poisoned where an active source or a guard is; for the integer sum that is the sum of the
active lanes' sources modulo 2^32. VCMP sets the destination predicate of every active lane to the comparison, poisoned
where an operand or the guard is, and leaves every vector register as it was. VCLR clears the poison of the destination
register in every active lane, leaves its values and every predicate. Inactive lanes are as before. (07_rolls_and_tasks.md
R171; 07_rolls_and_tasks.md R173; 07_rolls_and_tasks.md R170; 07_rolls_and_tasks.md R172) -/
def Obligations.VectorReductionPredicatesPoison : Prop :=
  (∀ (s : State) (t c i : Nat) (w : Word64) (x : Roll), s.slot t c i w 0x12 = some x →
    let n := w.toNat
    let vals := (List.range 32).map fun l => if x.active n l then (x.reg (vVa n) l).val.toNat else redIdentity (vTyp n) (vImm n)
    let f := elemOp (match vImm n with | 0 => 1 | 1 => 5 | _ => 6) (vRnd n) (if vTyp n = 0 then some fFp32 else none) 32
    let p := (List.range 32).any fun l => (x.active n l && (x.reg (vVa n) l).poison) || x.guardPoison n l
    Yields (.vred t c i w) s fun u => ∃ y v, tget? (u.core t c).vec.rolls i = some y ∧ y.pc = (x.pc + 1) % 4096 ∧ y.p = x.p ∧
      (∀ l, l < 32 → x.active w.toNat l = true → y.reg (vVd w.toNat) l = { val := v, poison := p }) ∧
      v = BitVec.ofNat 32 (redTree (fun a b => f a b 0) 5 vals).1 ∧
      (∀ l, l < 32 → x.active w.toNat l = false → y.reg (vVd w.toNat) l = x.reg (vVd w.toNat) l) ∧
      (vTyp w.toNat = 1 → vImm w.toNat = 0 → v = BitVec.ofNat 32
        (((List.range 32).map fun l => if x.active w.toNat l then (x.reg (vVa w.toNat) l).val.toNat else 0).sum))) ∧
  (∀ (s : State) (t c i : Nat) (w : Word64) (x : Roll),
    (s.slot t c i w 0x0F = some x → Yields (.vcmp t c i w) s fun u => ∃ y, tget? (u.core t c).vec.rolls i = some y ∧
      y.pc = (x.pc + 1) % 4096 ∧ y.v = x.v ∧
      (∀ l, l < 32 → x.active w.toNat l = true → y.pred (vVd w.toNat) l =
        ((cmpLane (vTyp w.toNat) (vImm w.toNat) (x.reg (vVa w.toNat) l).val (x.reg (vVb w.toNat) l).val).1,
         (x.reg (vVa w.toNat) l).poison || (x.reg (vVb w.toNat) l).poison || x.guardPoison w.toNat l)) ∧
      (∀ l, l < 32 → x.active w.toNat l = false → y.pred (vVd w.toNat) l = x.pred (vVd w.toNat) l)) ∧
    (s.slot t c i w 0x19 = some x → Yields (.vclr t c i w) s fun u => ∃ y, tget? (u.core t c).vec.rolls i = some y ∧
      y.pc = (x.pc + 1) % 4096 ∧ y.p = x.p ∧
      (∀ l, l < 32 → x.active w.toNat l = true → y.reg (vVd w.toNat) l = { x.reg (vVd w.toNat) l with poison := false }) ∧
      (∀ l, l < 32 → x.active w.toNat l = false → y.reg (vVd w.toNat) l = x.reg (vVd w.toNat) l)))

/-- VLD and VST move each active lane's word; a faulting lane stops the program. Where no active lane's address faults: VLD
gives every active lane the word at its address with the poison of the granule, of its address and of the guard, and
changes no store; VST changes no byte of any store outside the words at the active lanes' addresses, and the word at an
active lane's address holds its source, or that of another active lane with the same address. Both go on to the next word.
Where an active lane's address faults, FAULT bit 1 of the vector engine is set, every roll of the launch is gone and the
class of the launch is no longer active. (07_rolls_and_tasks.md R173; 07_rolls_and_tasks.md R174) -/
def Obligations.VectorMemory : Prop :=
  ∀ (s : State) (t c i : Nat) (w : Word64) (x : Roll),
    (s.slot t c i w 0x13 = some x → (∀ l ∈ x.lanes w.toNat, s.laneFaults t c x.cls (x.addr w.toNat l) = false) →
      Yields (.vld t c i w) s fun u => SameStores s u ∧ ∃ y, tget? (u.core t c).vec.rolls i = some y ∧
        y.pc = (x.pc + 1) % 4096 ∧
        ∀ l ∈ x.lanes w.toNat, y.reg (vVd w.toNat) l =
          { val := BitVec.ofNat 32 (s.word .core (coreKey t c) (x.addr w.toNat l)),
            poison := s.psn .core (coreKey t c) (x.addr w.toNat l) || (x.reg (vVa w.toNat) l).poison || x.guardPoison w.toNat l }) ∧
    (s.slot t c i w 0x14 = some x → (∀ l ∈ x.lanes w.toNat, s.laneFaults t c x.cls (x.addr w.toNat l) = false) →
      Yields (.vst t c i w) s fun u =>
        (∃ y, tget? (u.core t c).vec.rolls i = some y ∧ y.pc = (x.pc + 1) % 4096) ∧
        (∀ sp unit a, (∀ l ∈ x.lanes w.toNat, ∀ k, k < 4 →
            gAddr sp unit a ≠ gAddr .core (coreKey t c) (x.addr w.toNat l + k)) → u.byte sp unit a = s.byte sp unit a) ∧
        (∀ l ∈ x.lanes w.toNat, ∃ k ∈ x.lanes w.toNat, x.addr w.toNat k = x.addr w.toNat l ∧
          u.word .core (coreKey t c) (x.addr w.toNat l) = (x.reg (vVb w.toNat) k).val.toNat)) ∧
    (∀ q ∈ [(0x13, Instr.vld t c i w), (0x14, Instr.vst t c i w)], s.slot t c i w q.1 = some x →
      (∃ l ∈ x.lanes w.toNat, s.laneFaults t c x.cls (x.addr w.toNat l) = true) → Yields q.2 s fun u =>
        bit (u.reg (tileDA t) (pgVec c) 0x014) 1 = true ∧ (u.bank t c x.cls).active = false ∧
        ∀ y ∈ (u.core t c).vec.rolls, y.2.launch ≠ x.launch)

/-- VNOP, VBR, VSYNC, VSYNC_RELEASE and VEND. VNOP goes on. VBR with an unpoisoned predicate goes to its target where its
condition over the 32 lanes holds, otherwise on. VSYNC makes the roll wait; VSYNC_RELEASE lets every roll of the launch go
on once all of them wait. VEND frees the roll, and the launch of its last roll counts as no longer outstanding.
(07_rolls_and_tasks.md R168; 07_rolls_and_tasks.md R170; 07_rolls_and_tasks.md R163) -/
def Obligations.VectorControl : Prop :=
  ∀ (s : State) (t c i : Nat) (w : Word64) (x : Roll),
    let ps := (List.range 32).map fun l => x.psel w.toNat l
    let hit := match bits w.toNat 13 12 with
      | 0 => ps.any (·.1) | 1 => ps.all (·.1) | _ => ps.all fun p => !p.1
    (s.slot t c i w 0x00 = some x → Yields (.vnop t c i w) s fun u =>
      tget? (u.core t c).vec.rolls i = some { x.issued w.toNat with pc := (x.pc + 1) % 4096 }) ∧
    (s.slot t c i w 0x16 = some x → (∀ p ∈ ps, p.2 = false) → Yields (.vbr t c i w) s fun u =>
      tget? (u.core t c).vec.rolls i =
        some { x.issued w.toNat with pc := if hit then bits w.toNat 11 0 else (x.pc + 1) % 4096 }) ∧
    (s.slot t c i w 0x17 = some x → Yields (.vsync t c i w) s fun u =>
      tget? (u.core t c).vec.rolls i = some { x.issued w.toNat with pc := (x.pc + 1) % 4096, atSync := true }) ∧
    (tget? (s.core t c).vec.rolls i = some x →
      (∀ y ∈ (s.core t c).vec.rolls, y.2.launch = x.launch → y.2.atSync = true) →
      Yields (.vsyncRelease t c i) s fun u => ∀ y ∈ (u.core t c).vec.rolls, y.2.launch = x.launch → y.2.atSync = false) ∧
    (s.slot t c i w 0x18 = some x → Yields (.vend t c i w) s fun u =>
      tget? (u.core t c).vec.rolls i = none ∧
      (u.bank t c x.cls).outV = if (s.core t c).vec.rolls.any (fun y => y.1 != i && y.2.launch == x.launch)
        then (s.bank t c x.cls).outV else (s.bank t c x.cls).outV - 1)

/-- STREAM_REQUEST, GATE_OPEN, STREAM_COMPLETE and the cancellation. Streams that wait for an entry of their queue take a free
one first. Where the running stream of class 0 can then issue its next request, STREAM_REQUEST does that one; otherwise
that of class 1, otherwise of class 2. A class 0 stream between stores of its own core and die (no translation, PSN code
other than 01b, gate open, due, no fault cursor), with no stream waiting for an entry, goes on by the elements of one
request, and no byte of any store changes outside the destinations of those elements. With no stream waiting for an entry
of its queue: GATE_OPEN opens every stream of the class whose tally has reached its count and leaves the streams of the
other classes as they were. STREAM_COMPLETE on a settled running stream removes it from its queue, counts it in
STR_DONE_CNT, writes its completion record where the descriptor asks for one, counts one outstanding stream less for a
stream from SIS, completes the timetable entry of one from STREAM, makes the staged task of a task's input ready, and
sends the arrival that the descriptor asks for to a bound die. STR_CANCEL ends the active class 2 program or task of a
core that is not retired and cancels its SIS streams; otherwise it does nothing. (08_streamers.md R195; 08_streamers.md
R202; 08_streamers.md R212; 08_streamers.md R205; 08_streamers.md R206; 08_streamers.md R210; 08_streamers.md R217) -/
def Obligations.StreamRequestsAndCompletion : Prop :=
  (∀ (s : State) (t c : Nat),
    let s' := s.admitStreams t c
    let run := (s'.core t c).str.running
    (∀ st u, run 0 = some st → s'.nextRequest t c st = some u → Yields (.streamRequest t c) s fun v => v = u) ∧
    (∀ st u, (run 0).bind (s'.nextRequest t c) = none → run 1 = some st → s'.nextRequest t c st = some u →
      Yields (.streamRequest t c) s fun v => v = u) ∧
    (∀ st u, (run 0).bind (s'.nextRequest t c) = none → (run 1).bind (s'.nextRequest t c) = none → run 2 = some st →
      s'.nextRequest t c st = some u → Yields (.streamRequest t c) s fun v => v = u) ∧
    (∀ st, (s.core t c).str.waiting = [] → (s.core t c).str.running 0 = some st → st.gateOpen = true →
      (s.core t c).reached st.due = true → st.next < dTotal st.desc → st.walk = false →
      st.cursor = none → dXlt st.desc = false → sideLocal st.desc (dSSP st.desc) = true → sideLocal st.desc (dDSP st.desc) = true →
      dPsn st.desc ≠ 1 →
      Yields (.streamRequest t c) s fun u =>
        (∃ st', (u.core t c).str.running 0 = some st' ∧ st'.next = st.next + st.runLen) ∧
        (∀ sp unit a, (∀ i k, i < st.runLen → k < dEsz st.desc →
            gAddr sp unit a ≠ gAddr (localSide t c (dDSP st.desc)).1 (localSide t c (dDSP st.desc)).2
              ((dDst st.desc (st.next + i)).toNat + k)) → u.byte sp unit a = s.byte sp unit a))) ∧
  (∀ (s : State) (t c : Nat),
    (∀ cls, (s.core t c).str.waiting = [] → Yields (.gateOpen t c cls) s fun u =>
      (∀ x ∈ (u.core t c).str.streams, x.cls = cls → s.gateOpen t x.desc = true → x.gateOpen = true) ∧
      ((u.core t c).str.streams.filter fun x => x.cls != cls) = (s.core t c).str.streams.filter fun x => x.cls != cls) ∧
    (∀ cls st, (s.core t c).str.running cls = some st → st.settled = true → (s.core t c).str.waiting = [] → Yields (.streamComplete t c cls) s fun u =>
      (u.core t c).str.streams = replaceFirst cls none (s.core t c).str.streams ∧
      u.reg (tileDA t) (pgStr c) 0x048 = (s.reg (tileDA t) (pgStr c) 0x048 + 1) % 2 ^ 32 ∧
      (dRec st.desc = true → u.bytesAt .core (coreKey t c) (dCaddr st.desc) 32 = s.strRecord st) ∧
      (st.src = .sis → (u.bank t c cls).outS = (s.bank t c cls).outS - 1) ∧
      (∀ i k, st.src = .timetable i k → (i, k) ∈ u.pacer.complete) ∧
      (st.src = .taskIn → st.xf = false → (s.disp t c).staged.isSome = true → (u.disp t c).ready = true) ∧
      (∀ d, dTen st.desc = true → (if dTdie st.desc = 0xFF then some t else s.physDie (dTdie st.desc)) = some d →
        Sends s u { arrPkt (tileDA t) c 9 cls (dTally st.desc) with dst := BitVec.ofNat 8 (tileDA d) })) ∧
    ((s.bank t c 2).active = true → s.retired (tileDA t) (pgStr c) = false → Yields (.strCancel t c) s fun u =>
      (u.bank t c 2).active = false ∧ ((s.bank t c 2).isTask = true → (u.disp t c).running = none) ∧ ∀ x ∈ (u.core t c).str.streams, x.src = .sis → x.cls ≠ 2) ∧
    ((s.bank t c 2).active = false ∨ s.retired (tileDA t) (pgStr c) = true → Yields (.strCancel t c) s fun u => u = s))

/-- TRANSLATION_WALK and its commands, parked tasks, TOKEN_REFILL. A walk that has read its entries and finds a valid
translation which allows the access lets the stream go on; its result is cached, unless STR_XINV has overtaken the walk:
then it is kept for the stream's own next request. One that does not sets the fault cursor at the next element and marks
the stream translation-faulted. STR_XINV empties the cache of a die that is not retired, and no walk under way is cached
any more; of a retired die it does nothing. STR_XRESUME on a core that is not retired clears VALID and releases the parked
task, on a retired one it does nothing; RESUME_PARKED at a tick edge with an empty return slot moves a released task
there. TOKEN_REFILL on an enabled teller page sets every bucket of the die to min(DEPTH, level + RATE) and leaves the
counts and the buckets of the other dies. (08_streamers.md R219; 08_streamers.md R220; 08_streamers.md R221;
08_streamers.md R215; 08_streamers.md R222) -/
def Obligations.TranslationParkingAndTokens : Prop :=
  ((∀ (s : State) (t c : Nat) (poison : Bool) (st : Stream), (s.core t c).str.running 2 = some st → st.walked = true →
      st.cursor = none →
      let va := st.walkVa
      let r := s.walkResult va.1 st.entries poison
      let st1 := { st with walk := false, entries := [] }
      (∀ x, r.1 = some x → (va.2 = true ∨ x.write = true) → (s.tile t).noCache.contains c = true →
        Yields (.translationWalk t c poison) s fun u => (u.tile t).xlat = (s.tile t).xlat ∧
          (u.core t c).str.running 2 = some { st1 with own := some x }) ∧
      (∀ x, r.1 = some x → (va.2 = true ∨ x.write = true) → (s.tile t).noCache.contains c = false →
        Yields (.translationWalk t c poison) s fun u => x ∈ (u.tile t).xlat ∧ (u.core t c).str.running 2 = some st1) ∧
      ((∀ x, r.1 = some x → va.2 = false ∧ x.write = false) →
        Yields (.translationWalk t c poison) s fun u => ∃ st', (u.core t c).str.running 2 = some st' ∧
          st'.cursor = some st.next ∧ st'.xf = true)) ∧
    (∀ (s : State) (t : Nat),
      (s.retired (tileDA t) pgStrDie = false → Yields (.strXinv t) s fun u => (u.tile t).xlat = [] ∧
        (∀ c, c < 9 → (u.tile t).noCache.contains c = true) ∧ SameStores s u ∧ u.regs = s.regs ∧ u.cores = s.cores) ∧
      (s.retired (tileDA t) pgStrDie = true → Yields (.strXinv t) s fun u => u = s))) ∧
  ((∀ (s : State) (t c : Nat),
      (s.retired (tileDA t) (pgStr c) = true → Yields (.strXresume t c) s fun u => u = s) ∧
      (s.retired (tileDA t) (pgStr c) = false → Yields (.strXresume t c) s fun u => bit (u.reg (tileDA t) (pgStr c) 0x058) 17 = false ∧
        u.disp t c = { s.disp t c with resume := (s.disp t c).park.isSome } ∧ SameStores s u) ∧
      ((s.disp t c).resume = true → (s.disp t c).ret = none → s.pacer.cycle = 0 →
        Yields (.resumeParked t c) s fun u =>
          u.disp t c = { s.disp t c with ret := (s.disp t c).park, park := none, resume := false } ∧ SameStores s u ∧
          u.regs = s.regs)) ∧
    (∀ (s : State) (da : Nat), (blkAt da pgTlr).isSome = true → s.pageEn da pgTlr = true →
      Yields (.tokenRefill da) s fun u =>
        (∀ i, i < initiators da → u.teller da i = { s.teller da i with
          level := min (s.reg da pgTlr 0x048 % 2 ^ 16) ((s.teller da i).level + s.reg da pgTlr 0x044 % 2 ^ 16) }) ∧
        (∀ da' i, da' ≠ da → i < 16 → u.teller da' i = s.teller da' i) ∧ SameStores s u ∧ u.regs = s.regs))

/-- TASK_STAGE, TASK_DISPATCH and TASK_OVERRUN move tasks between their places. TASK_STAGE on a dispatcher that takes tasks
stages a valid task without input stream from the return slot, while no restart is under way, or, with return slot and
steal buffer empty, the one at the ring's head, and advances HEAD; a task with an input stream that is not refused is
staged too, and its stream enters the class 2 queue. TASK_DISPATCH of a ready task on a core with no active class, on a
die in service, while no restart is under way, copies its descriptor to the base of the class 2 window and makes class 2
active at its entry point. While one is, neither does anything. TASK_OVERRUN of a running task whose time has passed ends
it; one without RETRY goes to an empty return slot with RETRY set, one with a stream that faulted in translation to an
empty park slot. (07_rolls_and_tasks.md R177; 07_rolls_and_tasks.md R178; 07_rolls_and_tasks.md R179;
07_rolls_and_tasks.md R180; 07_rolls_and_tasks.md R181; 08_streamers.md R222) -/
def Obligations.TaskStagingAndDispatch : Prop :=
  ∀ (s : State) (t c : Nat),
    let d := s.disp t c
    (s.restoring = true → Yields (.taskStage t c) s (fun u => u = s) ∧ Yields (.taskDispatch t c) s fun u => u = s) ∧
    (∀ k, s.takesTasks t c = true → s.restoring = false → d.staged = none → d.ret = some k → s.taskOk k = true → k.instr = 0xFFFF →
      Yields (.taskStage t c) s fun u =>
        (u.disp t c).staged = some k ∧ (u.disp t c).ready = true ∧ (u.disp t c).ret = none) ∧
    (∀ k x, s.takesTasks t c = true → s.restoring = false → d.staged = none → d.ret = some k → s.taskOk k = true → k.instr ≠ 0xFFFF →
      s.descriptor t c 2 k.instr = some x → dTotal x ≠ 0 → s.streamOk t c 2 (decide (k.instr < 1024)) x = true →
      s.pageEn (tileDA t) (pgStr c) = true → (s.core t c).str.count 2 < 4 → (∀ y ∈ (s.core t c).str.waiting, y.cls ≠ 2) →
      Yields (.taskStage t c) s fun u =>
        (u.disp t c).staged = some k ∧ (u.disp t c).ready = false ∧ (u.disp t c).ret = none ∧
        ∃ st ∈ (u.core t c).str.streams, st.cls = 2 ∧ st.src = .taskIn ∧ st.desc = x) ∧
    (s.takesTasks t c = true → s.restoring = false → d.staged = none → d.ret = none → d.steal = [] → s.ringCount t c ≠ 0 →
      s.taskOk (s.ringTask t c 0) = true → (s.ringTask t c 0).instr = 0xFFFF →
      Yields (.taskStage t c) s fun u =>
        (u.disp t c).staged = some (s.ringTask t c 0) ∧ u.ringHead t c = (s.ringHead t c + 1) % 2 ^ 16) ∧
    (∀ k, d.staged = some k → d.ready = true → (∀ cls, cls < 3 → (s.bank t c cls).active = false) →
      s.awaitsReserve = false → s.restoring = false → s.place.dieState t = 1 → s.pageEn (tileDA t) (pgSeq c) = true →
      Yields (.taskDispatch t c) s fun u =>
        (u.disp t c).staged = none ∧ (u.disp t c).running = some k ∧ (u.disp t c).dispTick = s.tick ∧
        u.bytesAt .core (coreKey t c) (s.window t c 2).1 32 = k.bytes ∧
        (u.bank t c 2).active = true ∧ (u.bank t c 2).isTask = true ∧ (u.bank t c 2).pc = BitVec.ofNat 17 k.entry) ∧
    (∀ k, d.running = some k → s.running = true → (s.bank t c 2).isTask = true → (s.bank t c 2).active = true →
      (d.dispTick + k.latest < s.tick ∨ (d.dispTick + k.latest = s.tick ∧ s.period ≤ s.pacer.cycle)) →
      Yields (.taskOverrun t c) s fun u =>
        (u.bank t c 2).active = false ∧ (u.disp t c).running = none ∧
        (d.xfaulted = false → (u.disp t c).ret =
          if k.retry = true then d.ret else match d.ret with | some x => some x | none => some k.retried) ∧
        (d.xfaulted = true → (u.disp t c).ret = d.ret ∧ (u.disp t c).park = some (d.park.getD k)))

/-- STEAL_SEND, STEAL_REQUEST, STEAL_REPLY, BACKOFF, PROPOSAL_EXPIRY and LAYER_READY. STEAL_SEND on an idle dispatcher sends a
request to the next victim that is reachable. STEAL_REQUEST answers with the run of tasks at the ring's head that qualify,
at most half of them and COUNT, each marked as stolen, and takes them from the ring. STEAL_REPLY to the outstanding
request with tasks puts the unpoisoned ones into the steal buffer. BACKOFF ends the wait after a round. PROPOSAL_EXPIRY
discards the oldest proposal of the core that is 64 ticks old and counts it as discarded. LAYER_READY on a layer under
transfer whose two entries are bound ends the transfer and makes the layer ready, with the transferred bytes in the
inactive copy of both entries; with an entry unbound it does nothing. (07_rolls_and_tasks.md R183; 07_rolls_and_tasks.md
R184; 07_rolls_and_tasks.md R185; 07_rolls_and_tasks.md R186; 07_rolls_and_tasks.md R187; 07_rolls_and_tasks.md R189;
07_rolls_and_tasks.md R190) -/
def Obligations.StealingAndAdaptiveLayers : Prop :=
  ((∀ (s : State) (t c n vn vk scope vt vc : Nat), s.place.logical t = some n → s.dispatches t c = true →
      bit (s.reg (tileDA t) (pgVec c) 0x04C) 1 = true → s.idleDisp t c = true →
      (s.victims t c n (s.place.roleOf t c))[(s.disp t c).victim]? = some (vn, vk, scope) → s.physCore vn vk = some (vt, vc) →
      (s.routeTo (tileDA t) c (tileDA vt)).isSome = true →
      Yields (.stealSend t c) s fun u =>
        (u.disp t c).request = some (s.disp t c).reqSeq ∧ (u.disp t c).reqSeq = (s.disp t c).reqSeq + 1 ∧
        Sends s u (msgPkt (tileDA t) c (tileDA vt) vc 2 0x01 (stealRequestData n (s.place.roleOf t c)
          (bits (s.reg (tileDA t) (pgVec c) 0x04C) 4 2) scope (s.disp t c).reqSeq))) ∧
    (∀ (s : State) (p : Packet) (t c : Nat), t = tileOfDA p.dst.toNat → c = p.dport.toNat → ArrivedMsg s p 0x01 →
      dieKind p.dst.toNat = some .tile → c < 9 → p.len = 8 →
      bits (pword p 0) 15 12 = 0 → bits (pword p 0) 23 19 = 0 → bits (pword p 0) 31 25 = 0 →
      let g := (s.givable t c (bits (pword p 0) 24 24) 0
        (min (bits (pword p 0) 18 16) ((s.ringCount t c + 1) / 2))).map fun x =>
          x.stolenFrom ((s.place.logical t).getD 0xFF) (s.place.roleOf t c)
      Yields (.stealRequest p) s fun u =>
        Sends s u (msgPkt (tileDA t) c p.src.toNat p.sport.toNat 2 0x02
          (stealReplyData ((s.place.logical t).getD 0xFF) (s.place.roleOf t c) g (pword p 1))) ∧
        (g ≠ [] → u.ringHead t c = (s.ringHead t c + g.length) % 2 ^ 16)) ∧
    (∀ (s : State) (p : Packet) (t c : Nat), t = tileOfDA p.dst.toNat → c = p.dport.toNat → ArrivedMsg s p 0x02 →
      stealReplyOk p = true → (s.disp t c).request = some (BitVec.ofNat 32 (pword p 1)) → bits (pword p 0) 18 16 ≠ 0 →
      let all := (List.range (bits (pword p 0) 18 16)).map fun i =>
        (taskOf ((p.data.drop (32 * (1 + i))).take 32), p.psn.getD (1 + i) false)
      Yields (.stealReply p) s fun u =>
        (u.disp t c).request = none ∧
        (u.disp t c).steal = ((s.disp t c).steal ++ (all.filter fun x => !x.2).map (·.1)).take 8) ∧
    (∀ (s : State) (t c : Nat), Yields (.backoff t c) s fun u =>
      u.disp t c = { s.disp t c with backoff := false } ∧ SameStores s u ∧ u.regs = s.regs)) ∧
  ((∀ (s : State) (t c : Nat) (x : Proposal),
      (s.keeper.proposals.find? fun x => x.t == t && x.c == c && decide (x.tick + 64 ≤ s.tick)) = some x →
      Yields (.proposalExpiry t c) s fun u => u.keeper.proposals = s.keeper.proposals.erase x ∧
        bits (u.reg (tileDA t) (pgVec c) 0x064) 31 24 = (bits (s.reg (tileDA t) (pgVec c) 0x064) 31 24 + 1) % 256) ∧
    (∀ (s : State) (n : Nat) (l : Layer) (data : List Byte), (s.keeper.layers.find? fun x => x.index == n) = some l →
      l.transfer = some data → l.ready = false →
      (∀ t c t2 c2, s.physCore l.dieA l.coreA = some (t, c) → s.physCore l.dieB l.coreB = some (t2, c2) →
        coreKey t c ≠ coreKey t2 c2 → coreKey t c < 1024 → coreKey t2 c2 < 1024 → l.coreA < 8 → l.coreB < 8 →
        (∀ a ∈ [l.copy0A, l.copy1A, l.selA, l.copy0B, l.copy1B, l.selB, data.length], a < 0x100000) →
        Yields (.layerReady n) s fun u =>
          (u.keeper.layers.find? fun x => x.index == n) = some { l with ready := true, transfer := none } ∧
          u.bytesAt .core (coreKey t c) (if bit (s.word .core (coreKey t c) l.selA) 0 then l.copy0A else l.copy1A)
            data.length = data ∧
          u.bytesAt .core (coreKey t2 c2) (if bit (s.word .core (coreKey t2 c2) l.selB) 0 then l.copy0B else l.copy1B)
            data.length = data) ∧
      (s.physCore l.dieA l.coreA = none ∨ s.physCore l.dieB l.coreB = none → Yields (.layerReady n) s fun u => u = s)))

/-- Audit samples and tie-breaks. A sample of a task that is no adaptation run, that ended in its tick and did not overflow,
and whose audit run finishes, with equal run digests is over and counted in AUD_SAMPLES; each digest is the one that the
run has formed, changed by what a hardware fault changes in it. With unequal digests it sets AUD FAULT.MISMATCH, counts
the mismatch and waits for the second audit run with both digests held. The second run, in the next tick, ends the sample;
where it agrees with the first, the audited core is charged confirmed, where it agrees with the run, the auditor's core,
and otherwise both suspect. A due proposal whose CRC-64 that of the audit run confirms starts its transfer into a layer
that is neither ready nor under transfer; one that it does not is a mismatch. AUDIT_ABANDON of an overflowed or late
sample ends it and counts it as abandoned; an overflowed adaptation run loses its proposal and sets ADAPT_DISCARD. A tie-
break with a free auditor starts there, with the digest of its re-execution; without one it is undecided: AUD_TB says code
4 for the group and both cores are charged suspect. The auditor's digest, changed by what a hardware fault changes in it,
that equals one entry's charges the core of the other confirmed, with code 2 for an equality with A and 1 with B; one that
equals neither (code 3), a faulted re-execution, and one that ends after tick n + 2 (code 4) charge both suspect. An
expired tie-break is undecided and no longer under way. (15_audit_and_ledger.md R399; 15_audit_and_ledger.md R400;
15_audit_and_ledger.md R394; 15_audit_and_ledger.md R395) -/
def Obligations.AuditsAndTieBreaks : Prop :=
  (∀ (s : State) (t : Nat) (x : Sample), (s.tile t).sample = some x →
    let da := tileDA t
    (∀ run audit n d, (s.place.auditorOf t).isSome = true → x.adapt = false → x.digests = none → x.ended = true →
      (s.tile t).captureOvf = false → s.sampleLate x = false → s.audited t x (s.tile t).capture = some (n, d) →
      (x.digest ^^^ run = d ^^^ audit → Yields (.auditSampleDone t run audit) s fun u => (u.tile t).sample = none ∧
        u.reg da pgAud 0x044 = (s.reg da pgAud 0x044 + 1) % 2 ^ 32) ∧
      (x.digest ^^^ run ≠ d ^^^ audit → Yields (.auditSampleDone t run audit) s fun u =>
        (u.tile t).sample = some { x with digests := some (x.digest ^^^ run, d ^^^ audit), ended := true } ∧
        bit (u.reg da pgAud 0x014) 0 = true ∧ u.reg da pgAud 0x04C = (s.reg da pgAud 0x04C + 1) % 2 ^ 32)) ∧
    (∀ r a run n d e second, (s.place.auditorOf t).isSome = true → x.digests = some (r, a) → x.tick < s.tick →
      (s.tile t).captureOvf = false → s.sampleLate x = false → s.audited t x (s.tile t).capture = some (n, d) → second = d ^^^ e →
      Yields (.auditSampleDone t run e) s fun u => (u.tile t).sample = none ∧
        (second = a → Charges s u da (coreRef t x.core) ckConfirmed 0x0D noRef) ∧
        (∀ k m, second ≠ a → s.auditorCore t = some (k, m) →
          (second = r → Charges s u da (coreRef k m) ckConfirmed 0x0D noRef) ∧
          (second ≠ r → Charges s u da (coreRef t x.core) ckSuspect 0x0D noRef ∧ Charges s u da (coreRef k m) ckSuspect 0x0D noRef))) ∧
    (∀ run e audit n d y, (s.place.auditorOf t).isSome = true → s.dueProposal t = some (x, y) →
      s.audited t x (s.tile t).capture = some (n, d) → audit = d ^^^ e →
      (audit = y.crc → Yields (.auditSampleDone t run e) s fun u => (u.tile t).sample = none ∧
        u.keeper.proposals = s.keeper.proposals.erase y ∧ u.reg da pgAud 0x044 = (s.reg da pgAud 0x044 + 1) % 2 ^ 32 ∧
        ∀ l, (s.keeper.layers.find? fun l => l.index == y.layer) = some l → l.ready = false → l.transfer = none →
          (u.keeper.layers.find? fun l => l.index == y.layer) = some { l with transfer := some y.bytes }) ∧
      (audit ≠ y.crc → Yields (.auditSampleDone t run e) s fun u => bit (u.reg da pgAud 0x014) 0 = true ∧
        (u.tile t).sample = some { x with digests := some (y.crc, audit), ended := true })) ∧
    (x.adapt = true → (s.tile t).captureOvf = true → Yields (.auditAbandon t true) s fun u => (u.tile t).sample = none ∧
      u.reg da pgAud 0x048 = (s.reg da pgAud 0x048 + 1) % 2 ^ 32 ∧ bit (u.reg da pgAud 0x014) 3 = true ∧
      ∀ y, s.proposalOf t x = some y →
        u.keeper.proposals = s.keeper.proposals.erase y) ∧
    (∀ overflow, x.adapt = false → (overflow = true ∧ (s.tile t).captureOvf = true ∨ overflow = false ∧ s.sampleLate x = true) →
      Yields (.auditAbandon t overflow) s fun u => (u.tile t).sample = none ∧
        u.reg da pgAud 0x048 = (s.reg da pgAud 0x048 + 1) % 2 ^ 32)) ∧
  (∀ (s : State) (cg : Nat) (x : TieBreak),
    let suspects := fun (u : State) (da : Nat) =>
      Charges s u da (keyRef x.coreA) ckSuspect 0x03 noRef ∧ Charges s u da (keyRef x.coreB) ckSuspect 0x03 noRef
    ((s.pacer.mismatches.find? fun m => m.cgroup == cg && (decide (m.tick < s.tick) || s.pacer.strobed)) = some x →
      (∀ a, s.tieAuditor x = some a → (s.pacer.ties.any fun y => y.auditor == some a) = false →
        Yields (.tieBreak cg) s fun u =>
          u.pacer.ties = s.pacer.ties ++ [{ x with auditor := some a, running := true, digX := (s.rerunTie x a).1 }] ∧
          u.pacer.mismatches = s.pacer.mismatches.erase x) ∧
      (s.tieAuditor x = none → Yields (.tieBreak cg) s fun u =>
        u.reg (tileDA (x.auditor.getD (x.coreA / 16))) pgAud 0x054 = x.cgroup % 256 + 4 * 256 ∧
        suspects u (tileDA (x.auditor.getD (x.coreA / 16))))) ∧
    (∀ a, (s.pacer.ties.find? fun x => x.cgroup == cg) = some x → x.auditor = some a →
      (s.tile (x.coreA / 16)).tieOvf = false → (s.tile (x.coreB / 16)).tieOvf = false →
      (s.tieLate x = true → ∀ y, Yields (.tieBreakDone cg y) s fun u => x ∉ u.pacer.ties ∧ suspects u (tileDA a) ∧
        u.reg (tileDA a) pgAud 0x054 = x.cgroup % 256 + 4 * 256) ∧
      (s.tieLate x = false → ∀ y, y = none ∨ x.digX = none → Yields (.tieBreakDone cg y) s fun u =>
        x ∉ u.pacer.ties ∧ suspects u (tileDA a) ∧ u.reg (tileDA a) pgAud 0x054 = x.cgroup % 256 + 4 * 256) ∧
      ∀ z e d, s.tieLate x = false → x.digX = some z → d = z ^^^ e →
        (d ≠ x.digA → d ≠ x.digB → Yields (.tieBreakDone cg (some e)) s fun u =>
          x ∉ u.pacer.ties ∧ suspects u (tileDA a) ∧ u.reg (tileDA a) pgAud 0x054 = x.cgroup % 256 + 3 * 256) ∧
        (d = x.digA → Yields (.tieBreakDone cg (some e)) s fun u => x ∉ u.pacer.ties ∧
          u.reg (tileDA a) pgAud 0x054 = x.cgroup % 256 + 2 * 256 ∧ Charges s u (tileDA a) (keyRef x.coreB) ckConfirmed 0x03 noRef) ∧
        (d ≠ x.digA → d = x.digB → Yields (.tieBreakDone cg (some e)) s fun u => x ∉ u.pacer.ties ∧
          u.reg (tileDA a) pgAud 0x054 = x.cgroup % 256 + 256 ∧ Charges s u (tileDA a) (keyRef x.coreA) ckConfirmed 0x03 noRef)) ∧
    ((∃ l, s.pacer.ties = x :: l) → x.cgroup = cg → x.tick + 2 < s.tick →
      Yields (.tieBreakExpiry cg) s fun u => x ∉ u.pacer.ties ∧ suspects u (tileDA (x.auditor.getD (x.coreA / 16)))))

/-- CLEAR, DIGEST and ESCROW_COMMIT. CLEAR with both entries bound latches each entry's digest, covered-poison flag and ready
mask and has a digest message for the other, which is handed over from the fourth cycle on; with one bound, that one
judges alone: it passes, or with covered poison is done and reports FKIND 0x04. A DIGEST message that equals the entry's
own, of the same group and tick and without poison, lets the entry pass, with the layers ready on both sides to be
flipped; one with poison, of another tick or that differs makes it withhold, in its verdict messages too, and poison
reports FKIND 0x04, a difference FKIND 0x03. ESCROW_COMMIT of an entry that passed, once the time that its compare and
copies take has passed, ends its clearing, sends its releasing verdicts and flips the selector of a single layer that is
to be flipped (no class 2 escrow due); with no layer to flip it copies its class 0 and 1 state range into the generation
that is not current. Class 2 escrow that is due is written too. (15_audit_and_ledger.md R383; 15_audit_and_ledger.md R384;
15_audit_and_ledger.md R385; 15_audit_and_ledger.md R386; 15_audit_and_ledger.md R388) -/
def Obligations.ClearingEntries : Prop :=
  (∀ (s : State) (i t c t2 c2 : Nat) (e : TtEntry), s.entryNow i 5 = some e → s.entryCore e = some (t, c) →
      s.physCore (bits e.arg 7 0) (bits e.arg 11 8) = some (t2, c2) → coreKey t c ≠ coreKey t2 c2 →
      Yields (.clear i) s fun u => ∀ r ∈ [(t, c, e.die, true, coreKey t2 c2), (t2, c2, bits e.arg 7 0, false, coreKey t c)],
        ∃ x, u.clearing r.1 r.2.1 = some x ∧ x.cgroup = e.obj ∧ x.first = r.2.2.2.1 ∧ x.tick = s.tick ∧ x.done = false ∧
          x.digest = BitVec.ofNat 64 (s.entryDigest r.1 r.2.1 r.2.2.1 e.obj) ∧
          x.poison = s.entryPoison r.1 r.2.1 r.2.2.1 e.obj ∧ x.ready = BitVec.ofNat 64 (s.readyMask e.obj) ∧
          x.partner = some r.2.2.2.2 ∧ x.since = s.boot.time) ∧
    (∀ (s : State) (i t c : Nat) (e : TtEntry), s.entryNow i 5 = some e → s.entryCore e = some (t, c) →
      s.physCore (bits e.arg 7 0) (bits e.arg 11 8) = none → Yields (.clear i) s fun u =>
        ∃ x, u.clearing t c = some x ∧ x.cgroup = e.obj ∧ x.single = true ∧ x.partner = none ∧
          x.digest = BitVec.ofNat 64 (s.entryDigest t c e.die e.obj) ∧
          (s.entryPoison t c e.die e.obj = false → x.passed = true ∧ x.flips = 0) ∧
          (s.entryPoison t c e.die e.obj = true → x.done = true ∧ Reports s u (tileDA t) e.cls 0x04 noRef e.obj)) ∧
    (∀ (s : State) (t c k : Nat) (x : Clearing), (16 * t + c, x) ∈ s.clearings → c < 16 → x.partner = some k → x.since + 4 ≤ s.boot.time →
      Sends s s.sendDigests (msgPkt (tileDA t) c (tileDA (k / 16)) (k % 16) 0 0x03 (digestData x))) ∧
    (∀ (s : State) (p : Packet) (x : Clearing), ArrivedMsg s p 0x03 → digestOk p = true → s.running = true →
      s.pacer.strobed = false →
      let t := tileOfDA p.dst.toNat
      let c := p.dport.toNat
      let clean := x.poison = false ∧ bit (pword p 0) 16 = false
      let cls := match s.ttEntry x.entry with | some e => e.cls | none => 0
      let withheld := fun (u : State) => u.clearing t c = some { x with done := true } ∧
        ∀ da ∈ s.releaseDAs x.cgroup, Sends s u (msgPkt (tileDA t) c da 0 0 0x04 (verdictData x.cgroup false x.single x.tick))
      s.clearing t c = some x → x.done = false → x.passed = false → x.cgroup = bits (pword p 0) 15 0 →
      (¬ clean → Yields (.digest p) s fun u => withheld u ∧
        (x.first = true ∨ x.single = true → Reports s u (tileDA t) cls 0x04 noRef x.cgroup)) ∧
      (clean → lo64 p 2 = x.digest.toNat → pword p 1 ≠ x.tick % 2 ^ 32 → Yields (.digest p) s withheld) ∧
      (clean → lo64 p 2 = x.digest.toNat → pword p 1 = x.tick % 2 ^ 32 → Yields (.digest p) s fun u =>
        u.clearing t c = some { x with passed := true, flips := x.ready &&& BitVec.ofNat 64 (lo64 p 4), passedAt := s.boot.time }) ∧
      (clean → lo64 p 2 ≠ x.digest.toNat → Yields (.digest p) s fun u => withheld u ∧
        Reports s u (tileDA t) cls 0x03 noRef x.cgroup)) ∧
    (∀ (s : State) (t c n : Nat) (x : Clearing), s.place.logical t = some n → s.place.roleOf t c < 8 →
      s.clearing t c = some x → s.running = true → s.pacer.strobed = false → x.passed = true → x.done = false →
      s.commitDue t c (s.place.roleOf t c) x ≤ s.boot.time →
      (Yields (.escrowCommit t c) s fun u => u.clearing t c = some { x with done := true } ∧
        (∀ da ∈ s.releaseDAs x.cgroup, Sends s u (msgPkt (tileDA t) c da 0 0 0x04 (verdictData x.cgroup true x.single x.tick))) ∧
        ∀ l c0 c1 sel, s.groupLayers x.cgroup = [l] → l.side n (s.place.roleOf t c) = some (c0, c1, sel) → x.flips.getLsbD 0 = true →
          s.escrow2Now t (s.place.roleOf t c) = false →
          u.word .core (coreKey t c) sel = s.word .core (coreKey t c) sel ^^^ 1) ∧
      (x.flips = 0 → s.escrow2Now t (s.place.roleOf t c) = false →
      let r := s.stateRange t c false
      Yields (.escrowCommit t c) s fun u => u.clearing t c = some { x with done := true } ∧
        u.esc t (s.place.roleOf t c) false = (s.esc t (s.place.roleOf t c) false).written s.tick ∧
        u.bytesAt .die t (s.genAddr t (s.place.roleOf t c) false (1 - (s.esc t (s.place.roleOf t c) false).cur)) (32 * r.2) =
          s.bytesAt .core (coreKey t c) r.1 (32 * r.2))) ∧
    (∀ (s : State) (t c n : Nat), s.place.logical t = some n → s.place.roleOf t c < 8 → s.clearing t c = none →
      s.escrow2Now t (s.place.roleOf t c) = true →
      let k := s.place.roleOf t c
      Yields (.escrowCommit t c) s fun u => u.esc t k true = (s.esc t k true).written s.tick)

/-- TICK_EDGE, ARM and DISARM. An armed tick that resumes no job begins tick 0. A running tick at or past P that is not to be
disarmed is followed by the tick of the next number, with the stretch counted; where no retirement and no rejoin is
applied, every generation written is confirmed. A disarming edge leaves the tick disarmed, confirms no generation (no
shutdown under way) and leaves every stop group tripped. Before P nothing happens. An ARM whose conditions hold makes the
tick wait for its first edge, from a job that resumes with its restore counted from now; any other ARM sets ARM_REFUSED
and leaves the phase. DISARM of a waiting tick disarms at once, of a running or restarting one at the next edge, of a
disarmed one not at all. (02_tick_and_timetable.md R37; 02_tick_and_timetable.md R42; 15_audit_and_ledger.md R386;
15_audit_and_ledger.md R391; 02_tick_and_timetable.md R41; 17_power_up_and_shutdown.md R444) -/
def Obligations.TickEdgesArmAndDisarm : Prop :=
  (∀ s : State,
    (s.pacer.phase = .armed → s.pacer.rearm = none → Yields .tickEdge s fun u =>
      u.pacer.phase = .running ∧ u.pacer.tick = 0 ∧ u.pacer.cycle = 0 ∧ u.tallies = [] ∧ u.clearings = []) ∧
    (s.pacer.phase = .running → s.pacer.strobed = false → s.period ≤ s.pacer.cycle →
      (s.pacer.disarmAt = false → Yields .tickEdge s fun u =>
        u.pacer.phase = .running ∧ u.pacer.tick = s.pacer.tick + 1 ∧ u.pacer.cycle = 0 ∧ u.tallies = [] ∧
        u.pacer.stretch = min (2 ^ 32 - 1) (s.pacer.stretch + (s.pacer.cycle - s.period)) ∧
        (s.keeper.applying = [] → s.pacer.rejoin = [] → ∀ t k c2, u.esc t k c2 = (s.esc t k c2).confirm)) ∧
      (s.pacer.disarmAt = true → Yields .tickEdge s fun u =>
        u.pacer.phase = .disarmed ∧ (∀ e g, e < 6 → g < sgCount e → (u.edge e).tripped.getLsbD g = true) ∧
        (s.mint.shutdown = false → ∀ t k c2, u.esc t k c2 = (s.esc t k c2).drop))) ∧
    (s.pacer.phase = .running → s.pacer.cycle < s.period → Yields .tickEdge s fun u => u = s)) ∧
  (∀ s : State,
    (s.armOk = true → Yields .arm s fun u => u.pacer.phase = .armed ∧ u.pacer.cycle = 0 ∧ u.pacer.disarmAt = false ∧
      (s.pacer.resumes = true → u.pacer.rearm = some s.boot.time)) ∧
    (s.armOk = false → Yields .arm s fun u => u.pacer = s.pacer ∧ bit (u.reg pacerDA pgTkc 0x014) 1 = true) ∧
    (s.pacer.phase = .disarmed → Yields .disarm s fun u => u = s) ∧
    (s.pacer.phase = .armed → Yields .disarm s fun u => u.pacer.phase = .disarmed ∧ u.pacer.tick = s.pacer.tick) ∧
    (s.pacer.phase = .running ∨ s.pacer.phase = .restarting → Yields .disarm s fun u =>
      u = s.setPacer { s.pacer with disarmAt := true }))

/-- TIMETABLE_DISPATCH and DEADLINE. In a running tick whose walk has not reached the end of the table, TIMETABLE_DISPATCH
dispatches, in increasing index, at most four entries: exactly those that fire in the tick between the old and the new
place of the walk, and none whose AT is more than 32 cycles ahead; it stops before the end of the table only with four
entries or at one further ahead. Entries dispatched before stay. While the tick waits for its first edge, in a restart
that no die is awaited in, and in the last 32 cycles of a running tick, it does the same for the next tick. Disarmed, or
after the walk and earlier in the tick, it does nothing. At AT + SPAN of a watched entry: one that is complete, or whose
core no die carries, is watched no longer, and nothing else happens; a class 0 or class 1 entry that is not complete is
reported with FKIND 0x01 and its index and its unit is charged, while no restart strobe has been driven, and after one
nothing happens; a class 2 entry that is not complete sets EST_OVERRUN, and its program of that tick ends or its streams
are cancelled. (02_tick_and_timetable.md R43; 02_tick_and_timetable.md R45; 02_tick_and_timetable.md R46;
02_tick_and_timetable.md R44; 02_tick_and_timetable.md R48; 02_tick_and_timetable.md R49) -/
def Obligations.TimetableDispatchAndDeadlines : Prop :=
  ((∀ s : State, s.pacer.phase = .running → s.pacer.strobed = false → s.pacer.walkNext = false →
    s.pacer.walk < s.pacer.entries.length →
    Yields .timetableDispatch s fun u => ∃ l : List Nat,
      u.pacer.dispatched = s.pacer.dispatched ++ l.map (fun i => (i, s.tick)) ∧ l.length ≤ 4 ∧
      s.pacer.walk ≤ u.pacer.walk ∧ l.Pairwise (· < ·) ∧
      (∀ i, i ∈ l ↔ s.pacer.walk ≤ i ∧ i < u.pacer.walk ∧ ∃ e, s.pacer.entries[i]? = some e ∧ e.fires s.tick = true) ∧
      (∀ i ∈ l, ∀ e, s.pacer.entries[i]? = some e → e.at_ ≤ s.pacer.cycle + 32) ∧
      (u.pacer.walk < s.pacer.entries.length → l.length = 4 ∨
        ∃ e, s.pacer.entries[u.pacer.walk]? = some e ∧ s.pacer.cycle + 32 < e.at_)) ∧
  (∀ (s : State) (n lim : Nat),
    ((s.pacer.phase = .armed ∧ n = 0 ∧ lim = 31) ∨
     (s.pacer.phase = .restarting ∧ s.pacer.acksWanted = [] ∧ n = s.tick + 1 ∧ lim = 31) ∨
     (s.pacer.phase = .running ∧ s.pacer.strobed = false ∧ (s.pacer.walkNext = true ∨ s.pacer.entries.length ≤ s.pacer.walk) ∧
       s.period ≤ s.pacer.cycle + 32 ∧ n = s.tick + 1 ∧ lim = min 31 (s.pacer.cycle + 32 - s.period))) →
    let w := if s.pacer.walkNext then s.pacer.walk else 0
    Yields .timetableDispatch s fun u => u.pacer.walkNext = true ∧ ∃ l : List Nat,
      u.pacer.dispatched = s.pacer.dispatched ++ l.map (fun i => (i, n)) ∧ l.length ≤ 4 ∧
      w ≤ u.pacer.walk ∧ l.Pairwise (· < ·) ∧
      (∀ i, i ∈ l ↔ w ≤ i ∧ i < u.pacer.walk ∧ ∃ e, s.pacer.entries[i]? = some e ∧ e.fires n = true) ∧
      (∀ i ∈ l, ∀ e, s.pacer.entries[i]? = some e → e.at_ ≤ lim) ∧
      (u.pacer.walk < s.pacer.entries.length → l.length = 4 ∨ ∃ e, s.pacer.entries[u.pacer.walk]? = some e ∧ lim < e.at_)) ∧
  (∀ s : State, s.pacer.phase = .disarmed ∨ (s.pacer.phase = .running ∧ s.pacer.strobed = false ∧
      s.pacer.entries.length ≤ s.pacer.walk ∧ s.pacer.cycle + 32 < s.period) → Yields .timetableDispatch s fun u => u = s)) ∧
  (∀ (s : State) (i : Nat) (e : TtEntry) (n : Nat), s.ttEntry i = some e →
    (s.pacer.watch.find? fun w => w.1 == i && s.elapsed w.2 == e.at_ + e.span) = some (i, n) →
    (e.cls < 2 → s.pacer.strobed = true → Yields (.deadline i) s fun u => u = s) ∧
    ((e.cls < 2 → s.pacer.strobed = false) →
    (s.actionDone i n e = true ∨ s.entryGone e = true → Yields (.deadline i) s fun u => u = s.unwatch i n) ∧
    (s.actionDone i n e = false → s.entryGone e = false → e.cls < 2 → Yields (.deadline i) s fun u =>
      (∃ ref k, Reports s u (s.entryDA e) e.cls 0x01 ref i ∧ Charges s u (s.entryDA e) ref k 0x01 noRef ∧ k < 2) ∧
      (i, n) ∉ u.pacer.watch) ∧
    (s.actionDone i n e = false → s.entryGone e = false → 2 ≤ e.cls → Yields (.deadline i) s fun u =>
      bit (u.reg pacerDA pgTkc 0x014) 3 = true ∧
      ∀ t c, s.entryCore e = some (t, c) →
        (e.kind = 1 → (s.bank t c 2).active = true → (s.bank t c 2).isTask = false → (s.bank t c 2).entry = i →
          (s.bank t c 2).startTick = n → (u.bank t c 2).active = false) ∧
        (e.kind = 3 → ∀ x ∈ (u.core t c).str.streams ++ (u.core t c).str.waiting, x.src ≠ .timetable i n))))

/-- START, BARRIER, STREAM, SIGNAL and NOP entries take effect. An entry that takes effect now: START of a program with code,
of the class of the entry, on an inactive class makes the class active at the program's entry, and a core that issues no
class issues it; START of an empty program completes the entry, and one of class 0 or 1 reports its coins unspent. BARRIER
arms its tally with ARG. STREAM appends a valid stream with elements to its class's queue; behind a full queue it waits
for an entry. SIGNAL hands a signal packet to the network. NOP does nothing but leave the dispatched entries.
(02_tick_and_timetable.md R43; 02_tick_and_timetable.md R46; 02_tick_and_timetable.md R50; 06_core_sequencer.md R129;
06_core_sequencer.md R130; 08_streamers.md R194; 08_streamers.md R209) -/
def Obligations.TimetableActions : Prop :=
  ∀ (s : State) (i : Nat) (e : TtEntry),
    (s.entryNow i 1 = some e → ∀ t c, s.entryCore e = some (t, c) → (s.prog t c e.obj).codeLen ≠ 0 →
      (s.prog t c e.obj).cls = e.cls → (s.bank t c e.cls).active = false → s.pageEn (tileDA t) (pgSeq c) = true →
      Yields (.start i) s fun u => (u.bank t c e.cls).active = true ∧ (u.bank t c e.cls).isTask = false ∧
        (u.bank t c e.cls).prog = e.obj ∧ (u.bank t c e.cls).pc = (s.prog t c e.obj).entry ∧ (u.bank t c e.cls).entry = i ∧
        (u.bank t c e.cls).startTick = s.tick ∧ (i, s.tick) ∈ u.pacer.watch ∧
        (u.core t c).issuing = some ((s.core t c).issuing.getD e.cls)) ∧
    (s.entryNow i 1 = some e → ∀ t c, s.entryCore e = some (t, c) → (s.prog t c e.obj).codeLen = 0 →
      Yields (.start i) s fun u => (i, s.tick) ∈ u.pacer.complete ∧ u.cores = s.cores ∧
        (e.cls < 2 → (s.prog t c e.obj).coins * coin ≠ 0 → (t, (s.prog t c e.obj).coins * coin) ∈ u.mint.refunds)) ∧
    (s.entryNow i 2 = some e → ∀ t, s.physDie e.die = some t → Yields (.barrier i) s fun u =>
      u.tally t e.obj = { s.tally t e.obj with expect := e.arg, armed := true } ∧ SameStores s u) ∧
    (s.entryNow i 3 = some e → ∀ t c d, s.entryCore e = some (t, c) → s.descriptor t c e.cls e.obj = some d → dTotal d ≠ 0 →
      let full := 4 ≤ (s.core t c).str.count e.cls ∨ ∃ x ∈ (s.core t c).str.waiting, x.cls = e.cls
      (¬ full → s.streamOk t c e.cls (decide (e.obj < 1024)) d = true → s.pageEn (tileDA t) (pgStr c) = true →
        Yields (.stream i) s fun u => SameStores s u ∧ ∃ st,
          (u.core t c).str.streams = (s.core t c).str.streams ++ [st] ∧ st.cls = e.cls ∧ st.src = .timetable i s.tick ∧ st.desc = d) ∧
      (full → Yields (.stream i) s fun u => SameStores s u ∧ ∃ st, (u.core t c).str.streams = (s.core t c).str.streams ∧
        (u.core t c).str.waiting = (s.core t c).str.waiting ++ [st] ∧
        st.cls = e.cls ∧ st.src = .timetable i s.tick ∧ st.index = e.obj)) ∧
    (s.entryNow i 7 = some e → Yields (.signal i) s fun u => SameStores s u ∧ Sends s u
      { Packet.blank with opc := opSIG, cls := BitVec.ofNat 2 e.cls, src := BitVec.ofNat 8 pacerDA, dst := BitVec.ofNat 8 e.die, addr := BitVec.ofNat 48 e.obj, aux := BitVec.ofNat 32 e.arg }) ∧
    (s.entryNow i 0 = some e → Yields (.ttNop i) s fun u =>
      u = s.setPacer { s.pacer with dispatched := s.pacer.dispatched.erase (i, s.tick) })

/-- FAULT_REPORT and the restart, and PLANNED_STRETCH. A well-formed fault report is recorded at the head of the history; one
of a kind that asks for a restart opens one in a running tick without an open restart, one that asks for a disarm requests
it, one that is only counted does neither, a schedule violation is recorded in TKC_VIOL, and a faulted class 2 program has
its core rolled back. From 32 cycles after, RESTART_STROBE makes the tick restarting, awaits the dies in service,
withholds the releases of the tick and stops every core in service. RESTORE_ACK takes an awaited die from the list and
copies the current generations of its cores into their state ranges (of cores without class 2 range, no retirement being
applied); DIE_LOST takes one that has not answered 8,180 cycles after, and its retirement is pending. RESTART_EDGE, with
none awaited, past P and 32 cycles after the last answer, begins the next tick (no disarm requested), with the pending
retirements applied and a failed link taken over. At the regular edge of a running tick: for a core that has yet to
rejoin, PLANNED_STRETCH stretches the tick for it; otherwise, for the granted retirements of the die that carries the
logical die, which are then to be applied. (15_audit_and_ledger.md R379; 15_audit_and_ledger.md R389;
15_audit_and_ledger.md R390; 18_register_pages.md R457; 15_audit_and_ledger.md R393; 15_audit_and_ledger.md R397) -/
def Obligations.FaultReportsRestartAndStretch : Prop :=
  ((∀ (s : State) (p : Packet), ArrivedMsg s p 0x05 → reportOk p = true →
      Yields (.faultReport p) s fun u => (∃ e l, u.pacer.history = e :: l ∧ e.da = p.src.toNat ∧
          e.w0 = BitVec.ofNat 32 (pword p 0) ∧ e.w3 = BitVec.ofNat 32 (pword p 3)) ∧
        (handling (bits (pword p 0) 7 0) (bits (pword p 0) 9 8) = some .restart → s.running = true → s.pacer.opened = none →
          u.pacer.opened = some s.boot.time) ∧
        (handling (bits (pword p 0) 7 0) (bits (pword p 0) 9 8) = some .disarm → s.pacer.phase = .running → u.pacer.disarmAt = true) ∧
        (handling (bits (pword p 0) 7 0) (bits (pword p 0) 9 8) = some .count →
          u.pacer.opened = s.pacer.opened ∧ u.pacer.disarmAt = s.pacer.disarmAt ∧ u.pacer.phase = s.pacer.phase) ∧
        (bits (pword p 0) 7 0 = 0x01 → s.pacer.strobed = false → bit (u.reg pacerDA pgTkc 0x014) 2 = true ∧
          u.reg pacerDA pgTkc 0x064 = pword p 3 % 2 ^ 15 + p.src.toNat * 2 ^ 16 + bits (pword p 0) 9 8 * 2 ^ 24 ∧
          u.reg pacerDA pgTkc 0x068 = pword p 1 % 2 ^ 32) ∧
        (bits (pword p 0) 7 0 = 0x03 → bit (u.reg pacerDA pgTkc 0x014) 4 = true) ∧
        (handling (bits (pword p 0) 7 0) (bits (pword p 0) 9 8) = some .rollback → s.pacer.opened = none → s.pacer.strobed = false →
          refKind (pword p 2) = 0x02 → dieKind (refDA (pword p 2)) = some .tile →
          let t := tileOfDA (refDA (pword p 2))
          let c := refInst (pword p 2)
          (s.place.logical t).isSome = true → s.place.roleOf t c < 8 →
          (u.disp t c).ret = none ∧ (u.disp t c).steal = [] ∧ (u.disp t c).staged = none ∧ (u.disp t c).park = none)) ∧
    (∀ (s : State) (x : Nat), s.pacer.opened = some x → s.running = true → s.pacer.strobed = false → x + 32 ≤ s.boot.time →
      Yields .restartStrobe s fun u => u.pacer.phase = .restarting ∧ u.pacer.strobed = true ∧ u.clearings = [] ∧
        u.pacer.acksWanted = s.inService ∧ u.pacer.restarts = (s.pacer.restarts + 1) % 2 ^ 32 ∧
        (∀ da g, (s.outGroup da g).fired = some s.tick → (u.outGroup da g).withheld = true) ∧
        (∀ t ∈ s.inService, ∀ c cls, c < 9 → cls < 3 → (u.bank t c cls).active = false)) ∧
    (∀ (s : State) (t : Nat), t ∈ s.pacer.acksWanted → Yields (.restoreAck t) s fun u =>
      u.pacer.acksWanted = s.pacer.acksWanted.filter (· != t) ∧ u.pacer.lastAck = s.boot.time ∧
        (s.keeper.applying = [] → ∀ c k, (c, k) ∈ s.place.carriers t → (s.stateRange t c true).2 = 0 →
          ∀ j, j < 32 * (s.stateRange t c false).2 → u.byte .core (coreKey t c) ((s.stateRange t c false).1 + j) =
            s.byte .die t (s.genAddr t k false (s.esc t k false).cur + j))) ∧
    (∀ (s : State) (t x : Nat), s.restoreSince = some x → t ∈ s.pacer.acksWanted → x + 8180 ≤ s.boot.time →
      Yields (.dieLost t) s fun u => t ∉ u.pacer.acksWanted ∧ ledgerRef (tileDA t) 0x0C 0 ∈ u.keeper.applying ∧
        (t < 60 → s.place.dieState t = 1 → (u.ledRec (ledgerRef (tileDA t) 0x0C 0)).state = 2)) ∧
    (∀ s : State, s.pacer.phase = .restarting → s.pacer.acksWanted = [] → s.period ≤ s.pacer.cycle →
      s.pacer.lastAck + 32 ≤ s.boot.time → s.pacer.disarmAt = false →
      Yields .restartEdge s fun u => u.pacer.phase = .running ∧ u.pacer.tick = s.pacer.tick + 1 ∧ u.pacer.cycle = 0 ∧
        u.pacer.opened = none ∧ (s.keeper.applying = [] → ∀ t k c2, u.esc t k c2 = (s.esc t k c2).drop) ∧
        (∀ r ∈ s.keeper.applying, (s.ledRec r).state = 2 → (u.ledRec r).state = 3) ∧
        (∀ l, s.net.awaiting = some l → u.net.failedLink = some l))) ∧
  (∀ (s : State) (l k : Nat), s.pacer.phase = .running → s.pacer.strobed = false → s.pacer.stretching = false →
    s.pacer.disarmAt = false → s.period ≤ s.pacer.cycle →
    (s.place.unjoined.contains (16 * l + k) = true → Yields (.plannedStretch l k) s fun u =>
      u = s.setPacer { s.pacer with stretching := true, rejoin := [16 * l + k] }) ∧
    (∀ t, s.place.unjoined.contains (16 * l + k) = false → s.physDie l = some t →
      (∃ r ∈ s.keeper.granted, refDA r = tileDA t) → Yields (.plannedStretch l k) s fun u =>
        u.pacer.stretching = true ∧ u.keeper.applying = s.keeper.granted.filter fun r => decide (refDA r = tileDA t)))

/-- SAMPLE, RELEASE, VERDICT and RECORD_APPLY. SAMPLE of an enabled group queues its record, cut at the block boundaries, for
each of its dies that is bound, to leave from local cycle 4 on; of a group of a fabric die it strobes the region that owns
it, as RECORD_APPLY does for a release. The last write of a delivery that finds a tag and tokens goes to the die. RELEASE
starts the release of the group for this tick: with a tag and tokens the first read of its record, up to the block
boundary, goes to DIE_A where that is bound; with both dies unbound the release is withheld; a group of a fabric die
fetches nothing. VERDICT keeps the first verdict of a tick and group. RECORD_APPLY D cycles after the next edge leaves
everything but the finished release as it is where the release is withheld, not fetched, poisoned or not gated; otherwise
every generator that the group names has its ON, OFF and MODE of the record pending. (12_drive_edge.md R310;
12_drive_edge.md R311; 12_drive_edge.md R319; 02_tick_and_timetable.md R40; 02_tick_and_timetable.md R53) -/
def Obligations.SamplesAndReleases : Prop :=
  ∀ s : State,
    (∀ i en e, s.entryNow i 4 = some en → edgeOf en.die = some e → (s.grp e en.obj).en = true →
      let d := s.grp e en.obj
      let rec_ := s.inputRecord e en.obj
      Yields (.sample i) s fun u => (u.edge e).deliveries = (s.edge e).deliveries ++
        ((d.dieA :: if d.dieB = 0xFF then [] else [d.dieB]).filter fun n => (s.physDie n).isSome).map fun n =>
          { group := en.obj, die := n, tally := d.tally, cls := d.cls, start := s.boot.time + (4 - s.pacer.cycle)
            left := cutBlocks (blocksOf d.addr rec_.length) d.addr rec_ }) ∧
    (∀ i en f r, s.entryNow i 4 = some en → edgeOf en.die = none → fabricOf en.die = some f → s.groupOwner f false en.obj = some r →
      (s.region f r).isolatedNow = false → Yields (.sample i) s fun u =>
        (u.region f r).strobes = (1, en.obj, s.boot.time + 4) :: (s.region f r).strobes) ∧
    (∀ e d b t tag, d.left = [b] → s.physDie d.die = some t → s.freeTag (edgeDA e) 0 = some tag →
      let p := storePkt (edgeDA e) 0 d.cls b.1 b.2.length (some b.2)
      s.hasTokens (edgeDA e) 0 d.cls p.len.toNat = true →
      let r := s.sendWrites (edgeDA e) d d.left
      r.2 = { d with left := [], tags := d.tags ++ [tag] } ∧
      Sends s r.1 { p with dst := BitVec.ofNat 8 (tileDA t), tag := BitVec.ofNat 10 tag }) ∧
    (∀ i en e, s.entryNow i 6 = some en → edgeOf en.die = some e → (s.grp e (16 + en.obj)).en = true →
      Yields (.release i) s fun u =>
        let x := u.outGroup en.die en.obj
        x.fired = some s.tick ∧ x.gate = en.arg ∧ x.cls = en.cls ∧
        (s.physDie (s.grp e (16 + en.obj)).dieA = none → s.physDie (s.grp e (16 + en.obj)).dieB = none → x.withheld = true) ∧
        (∀ t, s.physDie (s.grp e (16 + en.obj)).dieA = some t → x.withheld = false ∧ x.fromB = false ∧
          ∀ tag, s.freeTag (edgeDA e) 0 = some tag →
            let a := (s.grp e (16 + en.obj)).addr
            let n := min (s.outLen e en.obj) (256 - a % 256)
            s.hasTokens (edgeDA e) 0 en.cls n = true → (tag, 0) ∈ x.tags ∧
              Sends s u { storePkt (edgeDA e) 0 en.cls a n none with dst := BitVec.ofNat 8 (tileDA t), tag := BitVec.ofNat 10 tag })) ∧
    (∀ i en f, s.entryNow i 6 = some en → edgeOf en.die = none → fabricOf en.die = some f →
      Yields (.release i) s fun u =>
        let x := u.outGroup en.die en.obj
        x.fired = some s.tick ∧ x.gate = en.arg ∧ x.cls = en.cls ∧ x.fetched = true ∧ x.withheld = false) ∧
    (∀ p, ArrivedMsg s p 0x04 → p.len = 8 → pword p 0 < 2 ^ 18 → pword p 1 = s.tick % 2 ^ 32 →
      let v : Verdict := { da := p.dst.toNat, cgroup := bits (pword p 0) 15 0, tick := pword p 1, release := bit (pword p 0) 16 }
      Yields (.verdict p) s fun u => u.verdicts =
        if s.verdicts.any (fun x => x.da == v.da && x.cgroup == v.cgroup && x.tick == v.tick) then s.verdicts
        else s.verdicts ++ [v]) ∧
    (∀ da g n, (s.outGroup da g).fired = some n → s.inTick = true → s.tick = n + 1 → s.pacer.cycle = s.outOffset →
      let x := s.outGroup da g
      ((x.withheld = true ∨ x.fetched = false ∨ x.poison = true ∨ s.gateOk da x.gate n = false) →
        Yields (.recordApply da g) s fun u => u = s.setOut da g { x with fired := none }) ∧
      (∀ f r, x.withheld = false → x.fetched = true → x.poison = false → s.gateOk da x.gate n = true → edgeOf da = none →
        fabricOf da = some f → s.groupOwner f true g = some r → (s.region f r).isolatedNow = false →
        Yields (.recordApply da g) s fun u => (u.region f r).strobes = (2, g, s.boot.time + 4) :: (s.region f r).strobes) ∧
      (∀ e, x.withheld = false → x.fetched = true → x.poison = false → s.gateOk da x.gate n = true → edgeOf da = some e → e < 4 →
        let r := x.record (s.outLen e g)
        Yields (.recordApply da g) s fun u => ∀ j gn, (members 48 (s.grp e (16 + g)).mask)[j]? = some gn →
          (u.gen e gn).pending = some (bits (word32At r (32 + 8 * j)) 23 0, bits (word32At r (36 + 8 * j)) 23 0,
            if bits (word32At r (32 + 8 * j)) 25 24 = 3 then 2 else bits (word32At r (32 + 8 * j)) 25 24)))

/-- FILTER_OUTPUT, COMPARATOR_OUTPUT, UPDATE_POINT and PWM_EDGE. A window of OSR bits on an enabled channel, the last one that
has ended and not counted yet: three integrators run over the bits, the output is the third difference of the last
integrator modulo 2^32, the output counts and carries the time at which its window ended, and the comparator filter stays.
Such a window of OSRC bits: an output outside the thresholds that completes CNT in a row makes the comparator active and,
on a channel with trip enable that was inactive, trips its group; one inside that completes CNT in a row makes it
inactive. At an update point of a carrier, every enabled generator on it with pending values takes them as its current
ones. At any step, an enabled generator follows h(t) of its current values, and its two outputs are never high together;
in a mode other than 00b and 01b both are low. (12_drive_edge.md R313; 12_drive_edge.md R314; 12_drive_edge.md R316;
12_drive_edge.md R317; 12_drive_edge.md R318; 12_drive_edge.md R319; 12_drive_edge.md R320) -/
def Obligations.ChannelsAndGenerators : Prop :=
  (∀ (s : State) (e ch : Nat) (l : List Bool), e < 4 → ch < 64 → s.pageEn (edgeDA e) pgSdi = true → s.chDiv e ch ≠ 0 →
    let cfg := s.chCfg e ch
    (∀ t, s.chOsr e ch ≠ 0 → l.length = s.chOsr e ch → s.windowEnd e ch (s.chOsr e ch) (s.tickLocked e ch) s.boot.time = some t →
      (s.sd e ch).outs = 0 ∨ (s.sd e ch).stamp < t → Yields (.filterOutput e ch l) s fun u =>
      let x := (s.sd e ch).integrate3 l
      (u.sd e ch).y = x.i3 - x.d1 - x.d2 - x.d3 ∧ (u.sd e ch).outs = (s.sd e ch).outs + 1 ∧
      (u.sd e ch).stamp = t ∧ (u.sd e ch).active = (s.sd e ch).active ∧ (u.sd e ch).c2 = (s.sd e ch).c2 ∧
      (∀ ch', ch' < 64 → ch' ≠ ch → u.sd e ch' = s.sd e ch')) ∧
    (∀ t, s.chOsrc e ch ≠ 0 → l.length = s.chOsrc e ch → s.windowEnd e ch (s.chOsrc e ch) false s.boot.time = some t →
      (s.sd e ch).couts = 0 ∨ (s.sd e ch).cstamp < t →
      let x := (s.sd e ch).integrate2 l
      let v := (x.c2 - x.e1 - x.e2).toInt
      let hi := sext 32 (s.reg (edgeDA e) pgSdi 0x068 ch)
      let lo := sext 32 (s.reg (edgeDA e) pgSdi 0x06C ch)
      ((hi < v ∨ v < lo) → bits cfg 24 22 + 1 ≤ (s.sd e ch).outRun + 1 → Yields (.comparatorOutput e ch l) s fun u =>
        (u.sd e ch).active = true ∧
        ((s.sd e ch).active = false → bit cfg 29 = true → (u.edge e).tripped.getLsbD (bits cfg 28 25) = true)) ∧
      (v ≤ hi → lo ≤ v → bits cfg 24 22 + 1 ≤ (s.sd e ch).within + 1 → Yields (.comparatorOutput e ch l) s fun u =>
        (u.sd e ch).active = false))) ∧
  ((∀ (s : State) (e k j : Nat) (half : Bool), e < 4 → k < 4 → s.pageEn (edgeDA e) pgPwm = true → (half = true → s.carHalf e k = true) →
      (((List.range 8).find? fun j => s.carTime e k j == some (if half then s.carPeriod e k / 2 else 0)) = some j) →
      Yields (.updatePoint e k half) s fun u => ∀ g on off mode, g < 48 → bit (s.genCfg e g) 0 = true → s.genCar e g = k →
        (s.gen e g).pending = some (on, off, mode) →
        (u.gen e g).on = on ∧ (u.gen e g).off = off ∧ (u.gen e g).mode = mode ∧ (u.gen e g).pending = none) ∧
    (∀ (s : State) (e g j t : Nat), s.carTime e (s.genCar e g) j = some t → e < 4 → g < 48 → j < 8 →
      s.pageEn (edgeDA e) pgPwm = true → bit (s.genCfg e g) 0 = true →
      Yields (.pwmEdge e g j) s fun u => (u.gen e g).h = (s.gen e g).ideal t ∧
        ((u.gen e g).outH && (u.gen e g).outL) = false ∧
        (1 < (s.gen e g).mode → (u.gen e g).outH = false ∧ (u.gen e g).outL = false) ∧
        (u.gen e g).on = (s.gen e g).on ∧ (u.gen e g).off = (s.gen e g).off))

/-- Trip sources, FORCE and RESET of stop groups. A trip input without a filter that becomes active trips every stop group
whose mask names it and, when exported, asserts its line; with a filter it trips nothing at once, and at the FILT-th
sampling edge in a row its groups; an asserted line trips every group of every edge die whose mask names it; STOP_N trips
every group. A stop source of a declared cell drives its line. The release of a source changes no trip. FORCE of an
untripped group trips it; with FAULT.TRIP clear it records group, source 0x41, local cycle and tick, and it reports the
trip with FKIND 0x0A. RESET of a tripped group with no source asserted on an enabled page clears it, and its generators
wait for a release with their outputs low; with a source asserted the group stays tripped and RESET_REFUSED is set.
(12_drive_edge.md R322; 12_drive_edge.md R325; 12_drive_edge.md R326; 12_drive_edge.md R327; 12_drive_edge.md R323;
12_drive_edge.md R324) -/
def Obligations.TripsAndStopGroups : Prop :=
  (∀ s : State,
    let lineTrips := fun (u : State) (k : Nat) => ∀ e g, e < 6 → g < sgCount e → bit (s.sgLines e g) k = true →
      (u.edge e).tripped.getLsbD g = true
    let sameTrips := fun (u : State) => ∀ e, (u.edge e).tripped = (s.edge e).tripped
    (∀ e n, e < 4 → n < 16 → s.tiFilt e n ≠ 0 → Yields (.tripInput e n) s fun u =>
      u.tiActive e n = true ∧ sameTrips u) ∧
    (∀ e n, e < 4 → n < 16 → s.tiFilt e n ≤ tget (s.edge e).tiRun n 0 + 1 → ∀ g, g < 16 → bit (s.sgInputs e g) n = true →
      ((s.sampleInput e n).edge e).tripped.getLsbD g = true) ∧
    (∀ e n, e < 4 → n < 16 → s.tiFilt e n = 0 → Yields (.tripInput e n) s fun u => u.tiActive e n = true ∧
      (∀ g, g < 16 → bit (s.sgInputs e g) n = true → (u.edge e).tripped.getLsbD g = true) ∧
      (bit (s.reg (edgeDA e) pgEdg (0x100 + 4 * n)) 1 = true → lineTrips u (bits (s.reg (edgeDA e) pgEdg (0x100 + 4 * n)) 6 2))) ∧
    (∀ e n, e < 4 → n < 16 → Yields (.tripInputInactive e n) s fun u => u.tiActive e n = false ∧ sameTrips u ∧
      (s.tiFilt e n = 0 → (u.edge e).counted.getLsbD n = false)) ∧
    (∀ k, s.lineUp k = true → Yields (.tripLine k) s fun u => lineTrips u k) ∧
    (∀ k, s.lineUp k = false → Yields (.tripLine k) s fun u => u = s) ∧
    (Yields .stopN s fun u => u.pacer.stopExt = true ∧
      ∀ e g, e < 6 → g < sgCount e → (u.edge e).tripped.getLsbD g = true) ∧
    (Yields .stopNRelease s fun u => u = s.setPacer { s.pacer with stopExt := false }) ∧
    (∀ f k, f < 24 → k < 8 → (s.trip f k).declared = true → Yields (.stopSource f k) s fun u =>
      (u.trip f k).input = true ∧ ((s.trip f k).clamped = false → lineTrips u (s.trip f k).line)) ∧
    (∀ f k, f < 24 → k < 8 → (s.trip f k).declared = true → Yields (.stopSourceRelease f k) s fun u =>
      (u.trip f k).input = false ∧ sameTrips u)) ∧
  (∀ (s : State) (e g : Nat), e < 6 → g < sgCount e →
    let da := edgeDA e
    let info := if isLink e then 0x0A8 else 0x048
    ((s.edge e).tripped.getLsbD g = false → Yields (.sgForce e (BitVec.ofNat 16 (2 ^ g))) s fun u =>
      (u.edge e).tripped = (s.edge e).tripped ||| BitVec.ofNat 16 (2 ^ g) ∧
      bit (u.reg da (sgPage e) 0x014) 0 = true ∧
      (bit (s.reg da (sgPage e) 0x014) 0 = false →
        u.reg da (sgPage e) info = g + 0x41 * 2 ^ 8 + s.pacer.cycle % 2 ^ 16 * 2 ^ 16 ∧
        u.reg da (sgPage e) (info + 4) = s.tick % 2 ^ 32 ∧
        Reports s u da 2 0x0A noRef (g + 0x41 * 2 ^ 8 + s.pacer.cycle % 2 ^ 16 * 2 ^ 16))) ∧
    ((s.edge e).tripped.getLsbD g = true → s.pageEn da (sgPage e) = true →
      (s.sgAsserted e g = false → Yields (.sgReset e (BitVec.ofNat 16 (2 ^ g))) s fun u =>
        (u.edge e).tripped.getLsbD g = false ∧
        (e < 4 → ∀ n, n < 48 → s.genSg e n = g →
          (u.gen e n).waitRelease = true ∧ (u.gen e n).outH = false ∧ (u.gen e n).outL = false)) ∧
      (s.sgAsserted e g = true → Yields (.sgReset e (BitVec.ofNat 16 (2 ^ g))) s fun u =>
        (u.edge e).tripped = (s.edge e).tripped ∧ bit (u.reg da (sgPage e) 0x014) 1 = true)))

/-- ENCODER_TRIGGER and ENCODER_READ_DONE. At local cycle TRIG of a selected tick an idle port whose MONO time has passed
latches and reads, or sets NOIDLE with ENC_DT low; a busy one, one whose MONO time has not passed, or one whose read would
overlap the next trigger, skips. A read whose bits have all been clocked gives the position, binary or from Gray code, the
status bits and VALID where its parity and its CRC hold; otherwise the position stays and PAR_ERR or CRC_ERR is set with
the FAULT bit. The port is idle again, for MONO bit times to come. (12_drive_edge.md R330) -/
def Obligations.Encoders : Prop :=
  ∀ (s : State) (e n : Nat),
    let cfg := s.encCfg e n
    let x := s.enc e n
    (e < 4 → n < 16 → s.pageEn (edgeDA e) pgEnc = true → s.inTick = true → bits cfg 13 0 ≠ 0 →
      s.tick % 2 ^ bits (s.reg (edgeDA e) pgEnc 0x04C n) 2 0 = bits (s.reg (edgeDA e) pgEnc 0x04C n) 9 3 →
      s.pacer.cycle = bits (s.encTiming e n) 31 16 →
      (s.encOverlaps e n = false → x.busy = false → x.mono ≤ s.boot.time → Yields (.encoderTrigger e n true) s fun u =>
        u.enc e n = { x with busy := true, ts := s.pacer.cycle, started := s.boot.time }) ∧
      (s.encOverlaps e n = false → x.busy = false → x.mono ≤ s.boot.time → Yields (.encoderTrigger e n false) s fun u =>
        (u.enc e n).busy = false ∧ (u.enc e n).ts = s.pacer.cycle ∧ bit (u.enc e n).stat 7 = true ∧ bit (u.reg (edgeDA e) pgEnc 0x014) 0 = true) ∧
      (∀ dt, s.encOverlaps e n = true ∨ x.busy = true ∨ s.boot.time < x.mono → Yields (.encoderTrigger e n dt) s fun u => u.enc e n = { x with skipped := true })) ∧
    (∀ l : List Bool, x.busy = true → s.pageEn (edgeDA e) pgEnc = true → l.length = encBits cfg →
      x.started + s.encCycles e n ≤ s.boot.time →
      let nb := bits cfg 19 14
      let ns := bits cfg 23 21
      let nc := encCrcBits (bits cfg 25 24)
      let poly := s.reg (edgeDA e) pgEnc 0x050 n
      let crc := (l.take (nb + ns)).foldl (fun c b => crcStep nc (bits poly 7 0 % 2 ^ nc) c b) 0
      let parErr := bit cfg 26 && (l.take (nb + ns + 1)).foldl (· != ·) false
      let crcErr := nc != 0 && msbNat (l.drop (nb + ns + boolNat (bit cfg 26))) != (if bit poly 8 then 2 ^ nc - 1 - crc else crc)
      Yields (.encoderReadDone e n l) s fun u => (u.enc e n).busy = false ∧ (u.enc e n).readTs = x.ts ∧
        (u.enc e n).mono = s.boot.time + bits (s.encTiming e n) 15 8 * bits cfg 13 0 ∧
        (u.enc e n).pos = (if parErr || crcErr then x.pos
          else msbNat (if bit cfg 20 then grayDecode false (l.take nb) else l.take nb)) ∧
        (u.enc e n).stat = msbNat ((l.drop nb).take ns) + (if parErr || crcErr then 0 else 2 ^ 4) + 2 ^ 5 * boolNat crcErr + 2 ^ 6 * boolNat parErr ∧
        (bits cfg 26 24 = 0 → (u.enc e n).stat = msbNat (l.drop nb) + 2 ^ 4) ∧
        (parErr || crcErr → bit (u.reg (edgeDA e) pgEnc 0x014) 0 = true))

/-- The link lanes: negotiation and traffic. A lane that is not switched off, on a die whose transmitters are not idle: block
lock starts the negotiation with a CAPS block, and ends it at version 2. In negotiation it sends CAPS every 1,400 cycles;
a CAPS of the drive selects the highest common version with three SELECT blocks, at version 1 settling at once; 10 ms
without one make it silent. A version 2 lock that has not come 100 µs later returns it to version 1, and it offers version
1 only. On a lane that is up: the loss of its blocks trips its group; SYNC carries the tick at local cycle 8; a frame of
the right length is latched where its CRC holds and counted where it does not. A TRIP block of the drive records its
reason and trips the lane's group; a tripped group repeats STOP, before the blocks that wait, when 64 blocks have passed;
an invalid block sets FAULT bit 5. (12_drive_edge.md R331; 12_drive_edge.md R332; 12_drive_edge.md R333; 12_drive_edge.md
R334; 12_drive_edge.md R322) -/
def Obligations.LinkLanes : Prop :=
  (∀ (s : State) (e n : Nat), s.laneOk e n = true →
    let x := s.lane e n
    (x.st = 1 ∨ x.st = 6 → Yields (.blockLock e n) s fun u => u.lane e n =
      { x with st := 2, tx := x.tx ++ [s.capsBlock e n], capsDue := s.boot.time + 1400 }) ∧
    (x.st = 3 → Yields (.blockLock e n) s fun u => (u.lane e n).ver = 2 ∧
      ((u.lane e n).st = 4 ↔ s.laneAxes e n ≤ x.peerAxes ∧ s.laneAxes e n ≤ 9)) ∧
    (x.st = 2 → x.capsDue ≤ s.boot.time → Yields (.capsSend e n) s fun u =>
      u.lane e n = { x with tx := x.tx ++ [s.capsBlock e n], capsDue := x.capsDue + 1400 }) ∧
    (x.st = 1 ∨ x.st = 2 ∨ x.st = 6 → x.since + 14000000 ≤ s.boot.time → Yields (.capsTimeout e n) s fun u =>
      u.lane e n = { x with st := 6, since := s.boot.time }) ∧
    (∀ versions axes, x.st = 2 →
      (s.laneMax e n = 2 → bit versions 1 = true → Yields (.caps e n versions axes) s fun u =>
        (u.lane e n).st = 3 ∧ (u.lane e n).tx = x.tx ++ List.replicate 3 (0xC8, ctlBytes (leBytes 1 2))) ∧
      (bit versions 0 = true → s.laneMax e n = 1 ∨ bit versions 1 = false → Yields (.caps e n versions axes) s fun u =>
        (u.lane e n).ver = 1 ∧ (u.lane e n).tx = x.tx ++ List.replicate 3 (0xC8, ctlBytes (leBytes 1 1)) ∧
        ((u.lane e n).st = 4 ↔ s.laneAxes e n ≤ axes % 16 ∧ s.laneAxes e n ≤ 4))) ∧
    (x.st = 3 → x.since + 140000 ≤ s.boot.time → Yields (.v2LockTimeout e n) s fun u => (u.lane e n).st = 1 ∧ s.setLane e n (u.lane e n) = u ∧
      u.laneMax e n = 1 ∧ (u.lane e n).v2fails = min 3 (x.v2fails + 1))) ∧
  (∀ (s : State) (e n : Nat), s.laneOk e n = true →
    let x := s.lane e n
    (s.laneUp e n = true → Yields (.linkLoss e n) s fun u => (u.edge e).tripped.getLsbD n = true ∧ (u.lane e n).loss = true ∧
      bit (u.reg (edgeDA e) pgDlk 0x014) 4 = true) ∧
    (s.laneUp e n = true → s.inTick = true → s.pacer.cycle = 8 → Yields (.sync e n) s fun u =>
      u.lane e n = { x with tx := x.tx ++ [(0xC2, ctlBytes (leBytes 4 (s.tick % 2 ^ 32)))] }) ∧
    (∀ data crc, s.laneUp e n = true → s.laneAxes e n ≠ 0 → data.length = 32 * s.laneAxes e n →
      (frameCrc data = crc.toNat → Yields (.feedbackFrame e n data crc) s fun u => (u.lane e n).frame = data ∧
        (u.lane e n).frameOk = true ∧ (u.lane e n).frameCycle = s.pacer.cycle) ∧
      (frameCrc data ≠ crc.toNat → Yields (.feedbackFrame e n data crc) s fun u => u.lane e n = { x with loss := false } ∧
        u.reg (edgeDA e) pgDlk (0x100 + 4 * n) = (s.reg (edgeDA e) pgDlk (0x100 + 4 * n) + 1) % 2 ^ 32)) ∧
    (∀ reason, Yields (.tripBlock e n reason) s fun u => (u.edge e).tripped.getLsbD n = true ∧
      (u.lane e n).reason = reason % 2 ^ 16) ∧
    ((s.edge e).tripped.getLsbD n = true → x.stopDue ≤ 1000 * s.boot.time → Yields (.stopRepeat e n) s fun u =>
      u.lane e n = { x with tx := stopBlock true :: x.tx, stopDue := x.stopDue + stopSpacing x.ver }) ∧
    (Yields (.invalidBlock e n) s fun u => bit (u.reg (edgeDA e) pgDlk 0x014) 5 = true ∧ u.lanes = s.lanes))

/-- RD and WR at stores, register pages, memory channels and fabric ports, and ARR. A well-formed RD inside the die store (or
inside the store of a core in use) is answered with status 0, the bytes and the poison of their granules, and no store
changes. A WR there writes each byte that its enables name, changes no byte outside its range, and is answered with status
0; one that enables a byte and touches the escrow of a die is answered with status 4 and changes nothing. ARR at a tile
die, on an enabled page, counts one arrival at its tally, saturating; one of class 2 at a fixed tally is dropped with
TALLY_REFUSED. A request to a register page reads or writes FAULT_MASK, and one of no byte is answered with status 0; one
to DRAM, not of class 0 and inside it, waits for the end of the cycle at the channel of its die; one to a port of a
running region waits at that port. A request of no such form changes no store and is answered with the status of its
error. (09_package_network.md R237; 09_package_network.md R239; 08_streamers.md R209; 08_streamers.md R216;
08_streamers.md R208; 02_tick_and_timetable.md R54) -/
def Obligations.RequestsAtStores : Prop :=
  (∀ (s : State) (p : Packet), dieKind p.dst.toNat = some .tile →
    let t := tileOfDA p.dst.toNat
    let a := p.addr.toNat
    let n := p.len.toNat
    let place := fun (sp : Sp) (unit : Nat) =>
      (sp = .die ∧ unit = t ∧ p.space = 2 ∧ p.dport = 9 ∧ a + n ≤ 0x3000000) ∨
      (sp = .core ∧ unit = coreKey t p.dport.toNat ∧ p.space = 1 ∧ p.dport ≠ 9 ∧ a + n ≤ 0x100000 ∧ s.place.dieState t ≠ 2 ∧
        s.place.roleOf t p.dport.toNat ≠ 14)
    (∀ sp unit, Arrived s p opRD → place sp unit → Yields (.rdPkt p) s fun u => SameStores s u ∧
      Sends s u { synthRsp p 0 with len := p.len, data := s.bytesAt sp unit a n, psn := s.psnList sp unit a n }) ∧
    (Arrived s p opWR → p.byteEn ≠ 0 → place .die t → s.escrowHit t a n = true → Yields (.wrPkt p) s fun u =>
      SameStores s u ∧ Sends s u (synthRsp p 4)) ∧
    (∀ sp unit, Arrived s p opWR → place sp unit → (sp = .die → s.escrowHit t a n = false ∨ p.byteEn = 0) → Yields (.wrPkt p) s fun u =>
      (∀ i, i < n → u.byte sp unit (a + i) = if p.byteEn.getLsbD (a % 64 + i) then p.data.getD i 0 else s.byte sp unit (a + i)) ∧
      SameBytesBut s u sp unit a n ∧ Sends s u (synthRsp p 0)) ∧
    (Arrived s p opARR → s.pageEn (tileDA t) pgStrDie = true → p.cls.toNat = 2 → p.aux.toNat % 1024 < 768 →
      Yields (.arr p) s fun u => bit (u.reg (tileDA t) pgStrDie 0x014) 0 = true ∧ u.tallies = s.tallies ∧ SameStores s u) ∧
    (Arrived s p opARR → s.pageEn (tileDA t) pgStrDie = true → ¬ (p.cls.toNat = 2 ∧ p.aux.toNat % 1024 < 768) →
      Yields (.arr p) s fun u => (u.tally t (p.aux.toNat % 1024)).count = min 0xFFFF ((s.tally t (p.aux.toNat % 1024)).count + 1) ∧ SameStores s u)) ∧
  (∀ (s : State) (p : Packet), Arrived s p opRD ∨ Arrived s p opWR →
    let i := if p.opc = opRD then Instr.rdPkt p else Instr.wrPkt p
    let da := p.dst.toNat
    let t := tileOfDA da
    let a := p.addr.toNat
    let n := p.len.toNat
    let pg := a / 4096
    let answers := fun (k : Nat) => Yields i s fun u => SameStores s u ∧ Sends s u (synthRsp p k)
    let idle := n = 0 ∨ (p.opc = opWR ∧ p.byteEn = 0)
    (p.space = 0 → idle → answers 0) ∧
    (p.space = 0 → ¬ idle → registerForm p = false ∨ blkAt da pg = none → answers 4) ∧
    (p.space = 0 → n ≠ 0 → registerForm p = true → (blkAt da pg).isSome = true → a % 4096 = 0x018 →
      (p.opc = opRD → Yields i s fun u => SameStores s u ∧
        Sends s u { synthRsp p 0 with len := 4, data := leBytes 4 (s.reg da pg 0x018), psn := [false] }) ∧
      (p.opc = opWR → p.byteEn ≠ 0 → s.retired da pg = false → Yields i s fun u => SameStores s u ∧
        u.reg da pg 0x018 = leNat p.data ∧ Sends s u (synthRsp p 0))) ∧
    (dieKind da = some .tile →
      (p.space = 1 → p.dport ≠ 9 → s.place.dieState t = 2 ∨ s.place.roleOf t p.dport.toNat = 14 → answers 5) ∧
      (p.space = 1 → p.dport ≠ 9 → s.place.dieState t ≠ 2 → s.place.roleOf t p.dport.toNat ≠ 14 → 0x100000 < a + n → answers 4) ∧
      (p.space = 2 → p.dport = 9 → 0x3000000 < a + n → answers 4) ∧
      ((p.space = 1 ∧ p.dport = 9) ∨ (p.space = 2 ∧ p.dport ≠ 9) → Yields i s fun u => SameStores s u ∧
        bit (u.reg da pgNi 0x014) 3 = true ∧ Sends s u (synthRsp p 4)) ∧
      (2 < p.space.toNat → answers 4)) ∧
    (dieKind da = some .memory → p.space = 3 →
      let mine := channelDA (s.channelOf a) = da
      (p.cls = 0 ∨ s.dramSize ≤ a ∨ ¬ mine → answers 4) ∧
      (p.cls ≠ 0 → a < s.dramSize → mine → Yields i s fun u => SameStores s u ∧ p ∈ u.memIn ∧
        u.memIn.length = s.memIn.length + 1 ∧ ∀ x ∈ s.memIn, x ∈ u.memIn)) ∧
    (∀ f, dieKind da = some .fabric → fabricOf da = some f → p.space = 4 →
      let port := a % 256
      (64 ≤ port ∨ s.portOwner f port = none → answers 4) ∧
      (∀ r d, port < 64 → s.portOwner f port = some (r, d) →
        ((s.region f r).isolatedNow = true → answers 3) ∧
        ((s.region f r).isolatedNow = false → n = 0 → answers 0) ∧
        (∀ k, (s.region f r).isolatedNow = false → n ≠ 0 →
          ((List.range 64).find? fun k => !((s.fport f port).reqs.map (·.tag)).contains k) = some k → Yields i s fun u =>
            SameStores s u ∧ (u.fport f port).reqs = (s.fport f port).reqs ++ [{ tag := k, p := p, since := s.boot.time }]))))

/-- RDR, WRR, TIMEOUT and TIMED_OUT_TAG_REUSE. A response without an outstanding request counts as late and sets its FAULT
bit. One that answers a request of a running stream, whatever its status, ends it: no request of that tag is open any
more, and of a write the other requests are as before. One for an initiator port of a running region is handed to its
logic. One for an edge die adds a piece to the record that it fetches, or ends the delivery of a record, whose tally
arrival is sent. A request whose timer has run out and that nothing answers is counted, its FAULT bit set, its tag held,
its record taken where none is valid, and one of class 0 or 1 is reported; a held tag is free again after twice the
timeout. (09_package_network.md R250; 09_package_network.md R251; 08_streamers.md R201) -/
def Obligations.ResponsesAndTimeouts : Prop :=
  (∀ (s : State) (p : Packet), (Arrived s p opRDR ∨ Arrived s p opWRR) →
      let i := if p.opc = opRDR then Instr.rdr p else Instr.wrr p
      (s.pendingReq p = none → Yields i s fun u =>
        u.reg p.dst.toNat pgNi 0x068 = (s.reg p.dst.toNat pgNi 0x068 + 1) % 2 ^ 32 ∧
        bit (u.reg p.dst.toNat pgNi 0x014) 2 = true ∧ u.net.outstanding = s.net.outstanding) ∧
      (∀ o st q, s.pendingReq p = some o → dieKind p.dst.toNat = some .tile → p.dport.toNat < 9 →
        let str := (s.core (tileOfDA p.dst.toNat) p.dport.toNat).str
        str.walker p.tag.toNat = none → takeReq p.tag.toNat str.streams = some (st, q) → str.running st.cls = some st →
        Yields i s fun u => u.net.outstanding = s.net.outstanding.erase o ∧
          ∃ st', (u.core (tileOfDA p.dst.toNat) p.dport.toNat).str.running st.cls = some st' ∧
            (st'.reqs.any fun x => x.tag == q.tag && x.data.isNone) = false ∧
            (q.write = true → st'.reqs = st.reqs.filter fun x => x.tag != q.tag)) ∧
      (∀ o f q r d, s.pendingReq p = some o → dieKind p.dst.toNat = some .fabric → fabricOf p.dst.toNat = some f →
        let port := 64 + p.dport.toNat
        (s.fport f port).reqs.find? (fun q => q.p.tag == p.tag) = some q → s.portOwner f port = some (r, d) →
        (s.region f r).isolatedNow = false → Yields i s fun u =>
          (u.fport f port).rsp = (s.fport f port).rsp ++ [(q.tag, p.data, p.psn, p.status != 0)] ∧
          (u.fport f port).reqs = (s.fport f port).reqs.filter fun y => y.tag != q.tag) ∧
      (∀ o e, s.pendingReq p = some o → edgeOf p.dst.toNat = some e → p.status = 0 →
        (∀ g off, p.opc = opRDR →
          let x := s.outGroup (edgeDA e) g
          ((List.range 16).find? fun g => (s.outGroup (edgeDA e) g).tags.any fun t => t.1 == p.tag.toNat) = some g →
          (x.tags.find? fun t => t.1 == p.tag.toNat) = some (p.tag.toNat, off) → Yields i s fun u =>
            (u.outGroup (edgeDA e) g).pieces = x.pieces ++ [(off, p.data)] ∧
            (u.outGroup (edgeDA e) g).tags = x.tags.filter (fun t => t.1 != p.tag.toNat) ∧
            ((u.outGroup (edgeDA e) g).fetched = true ↔ (u.outGroup (edgeDA e) g).tags = [] ∧ x.left = [])) ∧
        (∀ d t, p.opc = opWRR → ((s.edge e).deliveries.find? fun d => d.tags.contains p.tag.toNat) = some d →
          d.tags = [p.tag.toNat] → d.left = [] → s.physDie d.die = some t → Yields i s fun u =>
            Sends s u { arrivalPkt (edgeDA e) d.cls d.tally with dst := BitVec.ofNat 8 (tileDA t) } ∧ d ∉ (u.edge e).deliveries))) ∧
    (∀ (s : State) (da port tag : Nat) (o : OutReq),
      (s.net.outstanding.find? fun o => o.da == da && o.port == port && o.tag == tag) = some o →
      (s.net.arrived.any fun p => p.isResponse && s.pendingReq p == some o) = false → o.sent + s.niTimeout da ≤ s.boot.time →
      Yields (.timeout da port tag) s fun u =>
        u.net.heldTags = s.net.heldTags ++ [{ da := da, port := port, tag := tag, since := s.boot.time }] ∧
        u.reg da pgNi 0x064 = (s.reg da pgNi 0x064 + 1) % 2 ^ 32 ∧ bit (u.reg da pgNi 0x014) 0 = true ∧
        (let info := o.p.dst.toNat + 2 ^ 8 + o.p.cls.toNat * 2 ^ 16 + o.p.sport.toNat * 2 ^ 18 + 2 ^ 31
         (bit (s.reg da pgNi 0x060) 31 = false → u.reg da pgNi 0x060 = info) ∧
         (o.p.cls.toNat < 2 → Reports s u da o.p.cls.toNat 0x06 noRef info))) ∧
    (∀ (s : State) (da port tag : Nat) (h : HeldTag),
      (s.net.heldTags.find? fun h => h.da == da && h.port == port && h.tag == tag) = some h →
      h.since + 2 * s.niTimeout da ≤ s.boot.time → Yields (.timedOutTagReuse da port tag) s fun u =>
        u = s.setNet { s.net with heldTags := s.net.heldTags.erase h })

/-- FORWARD, AGE_INCREMENT, FLIT_CRC_ERROR, RETRAIN_COMPLETE and LINK_FAILURE. FORWARD of the granted packet of an output,
with nothing uncorrectable in it: at the local output it arrives at this die, which is its destination, and leaves the
router (at another die it is refused); at a mesh port it waits at the facing input of the neighbour in the same queue, one
hop on. Of two heads that both may leave by an output, one of a higher step of R246 is granted. After 28 core cycles of
waiting AGE_INCREMENT adds 1 to a head's AGE, which saturates at 255, and changes no other packet. A CRC error on a link
that carries flits counts and sets FAULT bit 0; with three more in the window the receive side retrains. A completed
retrain ends the retraining and charges and marks the lanes that newly failed it. The failure of a tile die's router fails
its links, and the die's retirement is pending. The first failed link outside a running tick is taken into NI_FAILED_LINK
at once, in a running one it awaits the restart; a second one marks the network failed, sets NET_FAILED and asks for a
disarm. (09_package_network.md R242; 09_package_network.md R246; 09_package_network.md R249; 09_package_network.md R253;
09_package_network.md R235; 09_package_network.md R244; 09_package_network.md R255) -/
def Obligations.RoutersAndLinks : Prop :=
  ((∀ (s : State) (da out : Nat) (x : QPacket), da < 256 → s.granted da out = some x → Yields (.forward da out none) s fun u =>
      (out < 4 → u.net.arrived = s.net.arrived ∧ u.net.queued.length = s.net.queued.length ∧
        ∃ z ∈ u.net.queued, z.da = neighbour da out ∧ z.inp = opposite out ∧ z.q = x.q ∧ z.p = { x.p with ptr := x.p.ptr + 1 }) ∧
      (4 ≤ out → x.p.dst.toNat = da →
        u.net.arrived = s.net.arrived ++ [x.p] ∧ u.net.queued.length + 1 = s.net.queued.length) ∧
      (4 ≤ out → x.p.dst.toNat ≠ da → bit (u.reg da pgNi 0x014) 3 = true)) ∧
    (∀ (s : State) (da out : Nat) (x y : QPacket), s.granted da out = some x → y ∈ s.heads da → s.mayLeave da out y = true →
      queueRank x.q ≤ queueRank y.q) ∧
    (∀ (s : State) (da inp q : Nat) (x : QPacket),
      (s.net.queued.find? fun x => x.da == da && x.inp == inp && x.q == q) = some x → x.aged + 28 ≤ s.boot.time →
      Yields (.ageIncrement da inp q) s fun u =>
        u.net.queued = s.net.queued.map (fun z => if z = x then { x with aged := x.aged + 28, p := { x.p with age := if x.p.age = 255 then 255 else x.p.age + 1 } } else z) ∧
        u.net.arrived = s.net.arrived)) ∧
  ((∀ (s : State) (da port : Nat), s.carries da port = true →
      let l := s.boot.time :: ((tget s.net.crcErrs (4 * da + port) []).filter fun t => decide (s.boot.time < t + crcWindow))
      Yields (.flitCrcError da port) s fun u =>
        u.reg da pgNoc (0x070 + 4 * port) = (s.reg da pgNoc (0x070 + 4 * port) + 1) % 2 ^ 32 ∧
        bit (u.reg da pgNoc 0x014) 0 = true ∧
        (if 4 ≤ l.length then (4 * da + port) ∈ u.net.retraining else u.net.retraining = s.net.retraining)) ∧
    (∀ (s : State) (da port : Nat) (bad : List Nat), (4 * da + port) ∈ s.net.retraining →
      Yields (.retrainComplete da port bad) s fun u => (4 * da + port) ∉ u.net.retraining ∧
        ∀ l ∈ bad, l < 68 → l ∉ tget s.net.badLanes (4 * da + port) [] →
          Charges s u da (ledgerRef da 0x06 (128 * port + l)) 0 0 noLoc ∧ l ∈ tget u.net.badLanes (4 * da + port) []) ∧
    (∀ (s : State) (n : Nat), 256 ≤ n → dieKind (n - 256) = some .tile → Yields (.linkFailure n) s fun u =>
      (∀ l ∈ elementLinks n, l ∈ u.net.failed) ∧
      ((∃ l ∈ elementLinks n, l ∉ s.net.failed) → s.place.dieState (tileOfDA (n - 256)) = 1 → (s.ledRec (ledgerRef (n - 256) 0x05 0)).state ≠ 3 →
        (u.ledRec (ledgerRef (n - 256) 0x05 0)).state = 2)) ∧
    (∀ (s : State) (n : Nat), n < 180 → n ∉ s.net.failed →
      (s.net.failedLink = none → s.net.awaiting = none → s.pacer.phase = .disarmed ∨ s.pacer.phase = .armed →
        Yields (.linkFailure n) s fun u => n ∈ u.net.failed ∧ u.net.failedLink = some n) ∧
      (s.net.failedLink = none → s.net.awaiting = none → s.pacer.phase = .running ∨ s.pacer.phase = .restarting →
        Yields (.linkFailure n) s fun u => n ∈ u.net.failed ∧ u.net.awaiting = some n) ∧
      (s.net.failedLink.isSome = true ∨ s.net.awaiting.isSome = true → Yields (.linkFailure n) s fun u =>
        n ∈ u.net.failed ∧ u.pacer.netFailed = true ∧ bit (u.reg pacerDA pgTkc 0x014) 6 = true ∧
        (s.pacer.phase = .running → u.pacer.disarmAt = true))))

/-- LEDGER_CHARGE and AGING_MEASUREMENT. A charge without a reserved code is logged first in the log; of a unit that does not
exist or is retired it does nothing else, and no record of another unit changes. A suspect charge counts. A confirmed one
counts and becomes the most recent, with its location; it sets a STATE of in service to watch and leaves a watch where it
is, unless it is permanent: at a known location, or within 2^24 ticks of TICK2; then a unit in service or on watch becomes
retirement pending (or, of a kind retired at once, retired) with its CAUSE, as does one charged by BIST. Corrected charges
count as confirmed for lanes and DRAM devices, and on their own otherwise. A charge with a reserved code changes nothing
in the Keeper. When the monitors of a die are due, each unit that they measure, whatever its STATE but retired, takes its
margin into MARGIN and into its last 16 measurements, whose change divided by 16 is SLOPE; a margin below the threshold,
or one that 64 slopes take there, makes a unit in service or on watch retirement pending by aging; the records of other
units stay. When they are not due, or there is no such die, nothing changes. (15_audit_and_ledger.md R380;
15_audit_and_ledger.md R406; 15_audit_and_ledger.md R407; 15_audit_and_ledger.md R408; 15_audit_and_ledger.md R409) -/
def Obligations.LedgerCharges : Prop :=
  (∀ (s : State) (p : Packet), ArrivedMsg s p 0x06 →
      let ref := pword p 0
      let k := bits (pword p 1) 1 0
      let loc := pword p 2
      (chargeOk p = false → Yields (.ledgerCharge p) s fun u => u.keeper = s.keeper) ∧
      (chargeOk p = true → Yields (.ledgerCharge p) s fun u =>
        ∃ e, u.keeper.log = (e :: s.keeper.log).take 65536 ∧ e.ref = BitVec.ofNat 32 ref ∧ e.ckind = k ∧
          e.tick = s.serviceTick (pword p 3) ∧ e.loc = BitVec.ofNat 32 loc) ∧
      (chargeOk p = true → validRef ref = false ∨ (s.ledRec ref).state = 3 → Yields (.ledgerCharge p) s fun u =>
        u.keeper.records = s.keeper.records) ∧
      (chargeOk p = true → validRef ref = true → (s.ledRec ref).state ≠ 3 →
        (∀ x, x ≠ ref → Yields (.ledgerCharge p) s fun u => u.ledRec x = s.ledRec x) ∧
        (k = 1 → Yields (.ledgerCharge p) s fun u =>
          u.ledRec ref = { s.ledRec ref with susp := min 0xFFFF ((s.ledRec ref).susp + 1) }) ∧
        (let r := s.ledRec ref
         let counts := k = 0 ∨ (k = 2 ∧ (refKind ref = 0x06 ∨ refKind ref = 0x07))
         let known := loc ≠ noLoc ∧ (loc = r.loc1.toNat ∨ loc = r.loc2.toNat)
         let thrice := ∃ x, r.tick2 = some x ∧ s.serviceTick (pword p 3) - x < 2 ^ 24
         (counts → Yields (.ledgerCharge p) s fun u => (u.ledRec ref).conf = min 0xFFFF (r.conf + 1) ∧
           (u.ledRec ref).tick1 = some (s.serviceTick (pword p 3)) ∧ (u.ledRec ref).loc1 = BitVec.ofNat 32 loc ∧
           (u.ledRec ref).tick2 = r.tick1 ∧ (u.ledRec ref).loc2 = r.loc1 ∧
           (r.state < 2 → known → 2 ≤ (u.ledRec ref).state ∧ (u.ledRec ref).cause = 2) ∧
           (r.state < 2 → ¬ known → thrice → 2 ≤ (u.ledRec ref).state ∧ (u.ledRec ref).cause = 1) ∧
           (r.state < 2 → ¬ known → ¬ thrice → (u.ledRec ref).state = 1)) ∧
         (k = 2 → ¬ counts → Yields (.ledgerCharge p) s fun u => u.ledRec ref = { r with corr := min (2 ^ 32 - 1) (r.corr + 1) }) ∧
         (k = 3 → r.state < 2 → Yields (.ledgerCharge p) s fun u => 2 ≤ (u.ledRec ref).state ∧ (u.ledRec ref).cause = 3)))) ∧
    (∀ (s : State) (da : Nat) (ms : List (Nat × Nat)),
      (dieKind da = none ∨ s.agingDue da = false → Yields (.agingMeasurement da ms) s fun u => u = s) ∧
      ((dieKind da).isSome = true → s.agingDue da = true →
        (∀ ref, (∀ m, (ref, m) ∉ ms.take 64) → Yields (.agingMeasurement da ms) s fun u => u.ledRec ref = s.ledRec ref) ∧
        (∀ ref m, ((ms.take 64).map (·.1)).Nodup → (ref, m) ∈ ms.take 64 → refDA ref = da → m < 2 ^ 16 → validRef ref = true →
          (s.ledRec ref).state ≠ 3 → Yields (.agingMeasurement da ms) s fun u => (u.ledRec ref).margin = m ∧
            (m < (s.ledRec ref).thresh → (s.ledRec ref).state < 2 → (u.ledRec ref).state = 2 ∧ (u.ledRec ref).cause = 4) ∧
            (let h := (m :: (s.ledRec ref).history).take 16
             let d : Int := (m : Int) - (h.getLastD 0 : Int)
             (u.ledRec ref).history = h ∧
             (h.length = 16 → d % 16 = 0 → (u.ledRec ref).slope = d / 16 ∧
               ((m : Int) + 64 * (d / 16) < (s.ledRec ref).thresh → (s.ledRec ref).state < 2 →
                 (u.ledRec ref).state = 2 ∧ (u.ledRec ref).cause = 4) ∧
               ((s.ledRec ref).thresh ≤ m → ((s.ledRec ref).thresh : Int) ≤ (m : Int) + 64 * (d / 16) →
                 (u.ledRec ref).state = (s.ledRec ref).state))))))

/-- SERVICE_TICK_SAVE, MAINTENANCE_STOP and LEDGER_COPY. The service tick is saved as it stands when 65,536 ticks have passed
since it was saved last, and nothing changes before that. A maintenance stop that the Keeper executes, while neither a
restart nor the load of a reserve die is under way, grants in a running tick the pending retirements of cores and dies,
and in a disarmed one applies them; in either case it applies those of lanes, DRAM devices, channels and region
configurations that aging has left for it, and counts both; a busy one changes nothing in the Keeper. A copy writes the 64
bytes of the record of the unit in W0 to the host address in W1 and W2; of an unknown unit it writes nothing. Each ends
the mailbox command; where fewer than 64 events wait, its event 0x07 carries the OP, the status (0x00, 0x02 busy, 0x03
unknown unit) and, for a stop that grants, the number of units. Where the Keeper does not execute that OP, nothing
changes. (15_audit_and_ledger.md R393; 15_audit_and_ledger.md R406; 15_audit_and_ledger.md R408; 15_audit_and_ledger.md
R411; 13_host_and_plant_links.md R345) -/
def Obligations.LedgerOperations : Prop :=
  (∀ s : State,
      (s.keeper.serviceSaved + 2 ^ 16 ≤ s.serviceNow → Yields .serviceTickSave s fun u =>
        u = s.setKeeper { s.keeper with serviceSaved := s.serviceNow }) ∧
      (s.serviceNow < s.keeper.serviceSaved + 2 ^ 16 → Yields .serviceTickSave s fun u => u = s)) ∧
    (∀ s : State,
      let said := fun (u : State) (op status w3 : Nat) => u.host.mailbox = none ∧ (s.host.held.length < 64 →
        ∃ e ∈ u.host.held, e.code = 0x07 ∧ e.w2 = BitVec.ofNat 32 (op + status * 256) ∧ e.w3 = BitVec.ofNat 32 w3)
      (s.host.mailbox ≠ some 3 → Yields .maintenanceStop s fun u => u = s) ∧
      (s.host.mailbox ≠ some 4 → Yields .ledgerCopy s fun u => u = s) ∧
      (s.host.mailbox = some 3 → s.stopBusy = false → s.disarmed = false → Yields .maintenanceStop s fun u =>
        (∀ r ∈ s.pendingUnits true, r ∈ u.keeper.granted) ∧ said u 3 0 ((s.pendingUnits true).length + s.agedUnits.length)) ∧
      (s.host.mailbox = some 3 → s.stopBusy = false → s.disarmed = true → Yields .maintenanceStop s fun u =>
        (∀ r ∈ s.pendingUnits true, (u.ledRec r).state = 3) ∧ u.host.mailbox = none) ∧
      (s.host.mailbox = some 3 → s.stopBusy = true → Yields .maintenanceStop s fun u => u.keeper = s.keeper ∧ said u 3 2 0) ∧
      (s.host.mailbox = some 4 → validRef (s.mbxWord 0) = true → Yields .ledgerCopy s fun u =>
        u.bytesAt .host 0 (s.mbxWord 1 + 2 ^ 32 * s.mbxWord 2) 64 = (s.ledRec (s.mbxWord 0)).bytes (s.mbxWord 0) ∧ said u 4 0 0) ∧
      (s.host.mailbox = some 4 → validRef (s.mbxWord 0) = false → Yields .ledgerCopy s fun u =>
        SameStores s u ∧ u.keeper = s.keeper ∧ said u 4 3 0))

/-- SESSION_REQUEST, CLOSE, FLR, LINK_DOWN, D3HOT, PERST and PCIE_LINK_UP. A request without an open session opens one of the
highest common major version with the lower of the two minor versions (2.2 and 1.4 on the device's side), or is refused
where there is none; with one open it only sets its FAULT bit. CLOSE closes it. The four link resets close it, stop every
DMA channel (its EN is 0, but where the host has written it in the same cycle, R31) and set FAULT bit 8; LINK_DOWN and
PERST take the link down too, and D3HOT leaves the function in D3hot. A training link shows its generation and width.
(13_host_and_plant_links.md R341; 13_host_and_plant_links.md R336; 13_host_and_plant_links.md R335;
17_power_up_and_shutdown.md R436) -/
def Obligations.SessionsAndLinkResets : Prop :=
  ∀ s : State,
    let quiet := fun (u : State) => u.sessionOpen = false ∧ (∀ c, c < 4 → u.dma c = none ∧
        if s.hostHolds (regKey pcieDA pgPci (0x098 + 32 * c) 0) = true then u.reg pcieDA pgPci (0x098 + 32 * c) = s.reg pcieDA pgPci (0x098 + 32 * c)
        else bit (u.reg pcieDA pgPci (0x098 + 32 * c)) 5 = false) ∧
      bit (u.reg pcieDA pgPci 0x014) 8 = true
    let down := fun (u : State) => quiet u ∧ u.host.linkUp = false ∧ u.reg pcieDA pgPci 0x040 = 0
    (∀ v : Word,
      let n := v.toNat
      let two := bits n 7 4 ≤ 2 ∧ 2 ≤ bits n 3 0
      let one := bits n 7 4 ≤ 1 ∧ 1 ≤ bits n 3 0
      (s.sessionOpen = true → Yields (.sessionRequest v) s fun u => u.sessionOpen = true ∧ bit (u.reg pcieDA pgPci 0x014) 6 = true) ∧
      (s.sessionOpen = false → two → Yields (.sessionRequest v) s fun u =>
        u.reg pcieDA pgPci 0x04C = 1 + 2 * 2 ^ 2 + min (bits n 23 16) 2 * 2 ^ 6) ∧
      (s.sessionOpen = false → ¬ two → one → Yields (.sessionRequest v) s fun u =>
        u.reg pcieDA pgPci 0x04C = 1 + 1 * 2 ^ 2 + min (bits n 15 8) 4 * 2 ^ 6) ∧
      (s.sessionOpen = false → ¬ two → ¬ one → Yields (.sessionRequest v) s fun u => u.reg pcieDA pgPci 0x04C = 2)) ∧
    (Yields .close s fun u => u.sessionOpen = false ∧ u.host = s.host) ∧
    Yields .flr s (fun u => quiet u ∧ u.pciConfig .power = 0) ∧ Yields .d3hot s (fun u => quiet u ∧ u.pciConfig .power = 3) ∧ Yields .linkDown s down ∧ Yields .perst s down ∧
    (∀ speed width, s.boot.porst = false → s.boot.power ≠ .halted → s.boot.power ≠ .testing → 1 ≤ speed → speed ≤ 5 →
      width ∈ [1, 2, 4, 8, 16] → Yields (.pcieLinkUp speed width) s fun u =>
        u.host.linkUp = true ∧ u.reg pcieDA pgPci 0x040 = speed + 8 * width)

/-- KICK restarts the host watchdog; its expiry closes the session. With PERIOD nonzero: KICK restarts the watchdog at the
present time. Before PERIOD ms (1,400,000 core cycles each) have passed since, an expiry does nothing. Once they have
passed, the session closes and WDT_EXPIRED (FAULT bit 7) is set; with STOP = 1 a running or restarting tick is to be
disarmed at its next edge, an armed one is disarmed at once, a disarmed one stays; with STOP = 0 the Pacer stays as it is.
(13_host_and_plant_links.md R342) -/
def Obligations.HostWatchdog : Prop :=
  ∀ s : State,
    let w := s.reg pcieDA pgPci 0x054
    let due := s.host.kicked + bits w 15 0 * 1400000
    bits w 15 0 ≠ 0 →
    (Yields .kick s fun u => u.host.kicked = s.boot.time ∧ u.boot.time = s.boot.time ∧ u.regs = s.regs) ∧
    (s.boot.time < due → Yields .watchdogExpiry s fun u => u = s) ∧
    (due ≤ s.boot.time → Yields .watchdogExpiry s fun u =>
      u.sessionOpen = false ∧ bit (u.reg pcieDA pgPci 0x014) 7 = true ∧
      (bit w 16 = true → s.pacer.phase = .running ∨ s.pacer.phase = .restarting → u.pacer = { s.pacer with disarmAt := true }) ∧
      (bit w 16 = true → s.pacer.phase = .armed → u.pacer.phase = .disarmed) ∧
      (bit w 16 = true → s.pacer.phase = .disarmed → u.pacer = s.pacer) ∧
      (bit w 16 = false → u.pacer = s.pacer))

/-- EVENT_WRITE and DMA_DESCRIPTOR. EVENT_WRITE with an open session of version 2, the ring enabled and room in it: the oldest
held event leaves, its 32 bytes stand at the head's entry, the head advances and vector 0 is signalled. A descriptor of an
enabled channel with work and none in progress: an ill-formed one gets STATUS 2 and an empty one STATUS 0, and the head
advances. For one between host memory and one 256-byte block of DRAM, the channel's request (a WR with exactly the bytes
of host memory, or a RD) is sent where a tag and tokens are there, and the descriptor is in progress. With the response to
its last request, one without error or poison, it ends with STATUS 0 and the head advances; the data of a read stand in
host memory. (13_host_and_plant_links.md R339; 13_host_and_plant_links.md R340; 13_host_and_plant_links.md R343) -/
def Obligations.EventRingAndDma : Prop :=
  ∀ s : State,
    (∀ (e : Event) (r : List Event), s.host.held = e :: r → s.host.msixMask.getLsbD 0 = false → s.sessionOpen = true → s.sessionMajor = 2 →
      bit (s.reg pcieDA pgPci 0x060) 4 = true → s.evRoom = true → Yields .eventWrite s fun u =>
        let n := 2 ^ bits (s.reg pcieDA pgPci 0x060) 3 0
        let head := s.reg pcieDA pgPci 0x068 % n
        u.host.held = r ∧ u.reg pcieDA pgPci 0x068 = (head + 1) % n ∧
        u.bytesAt .host 0 (s.hostBase 0x058 + 32 * head) 32 = e.bytes s.host.phase 2 ∧
        tget u.host.vectors 0 0 = tget s.host.vectors 0 0 + 1) ∧
    (∀ ch, ch < 4 →
      let ctrl := s.reg pcieDA pgPci (0x098 + 32 * ch)
      let size := 2 ^ bits ctrl 4 0
      let head := s.reg pcieDA pgPci (0x0A0 + 32 * ch) % size
      let place := s.hostBase (0x090 + 32 * ch) + 32 * head
      let w := fun i => s.word .host 0 (place + 4 * i)
      let a := w 4 + 2 ^ 32 * bits (w 5) 15 0
      let ends := fun (u : State) (place index st : Nat) => u.word .host 0 (place + 28) = st ∧ u.dma ch = none ∧
        u.reg pcieDA pgPci (0x0A0 + 32 * ch) = (index + 1) % size
      (bit ctrl 5 = true → head ≠ s.reg pcieDA pgPci (0x09C + 32 * ch) % size → s.dma ch = none →
        (dmaOk w = false → Yields (.dmaDescriptor ch [] []) s fun u => ends u place head 2) ∧
        (dmaOk w = true → w 1 = 0 → Yields (.dmaDescriptor ch [] []) s fun u => ends u place head 0) ∧
        (∀ t, dmaOk w = true → w 1 ≠ 0 → bits (w 0) 2 1 = 0 → a % 256 + w 1 ≤ 256 → s.freeTag pcieDA (1 + ch) = some t →
          s.hasTokens pcieDA (1 + ch) 2 (w 1) = true →
          let asks := fun (u : State) (data : Option (List Byte)) =>
            Sends s u { s.ioPacket pcieDA (1 + ch) { addr := a, n := w 1, data := data } with tag := BitVec.ofNat 10 t } ∧
            SameStores s u ∧ ∃ d, u.dma ch = some d ∧ d.place = place ∧ d.index = head ∧ d.run.left = [] ∧ d.run.tags = [(t, a)]
          (bit (w 0) 0 = false → Yields (.dmaDescriptor ch [] []) s fun u =>
            asks u (some (s.bytesAt .host 0 (w 2 + 2 ^ 32 * w 3) (w 1)))) ∧
          (bit (w 0) 0 = true → Yields (.dmaDescriptor ch [] []) s fun u => asks u none))) ∧
      (∀ (p : Packet) (o : OutReq) (d : DmaRun) (b : Nat), p.dst.toNat = pcieDA → p.dport.toNat = 1 + ch → p.status = 0 →
        s.pendingReq p = some o → (∀ x ∈ p.psn, x = false) → s.dma ch = some d → d.failed = false → d.poisoned = false →
        d.run.status = 0 → d.run.psn = false → d.run.left = [] → d.run.tags = [(p.tag.toNat, b)] →
        let w := fun i => d.words.getD i 0
        let h := w 2 + 2 ^ 32 * w 3 + (b - (w 4 + 2 ^ 32 * bits (w 5) 15 0))
        (Arrived s p opWRR → Yields (.wrr p) s fun u => ends u d.place d.index 0) ∧
        (Arrived s p opRDR → (h + p.data.length ≤ d.place + 28 ∨ d.place + 32 ≤ h) → Yields (.rdr p) s fun u =>
          u.bytesAt .host 0 h p.data.length = p.data ∧ ends u d.place d.index 0)))

/-- C is programmable from 700 to 4,095 cycles, D from 0 to 4,095. A host write to TKC_CLEAR of the unlocked TKC page, on a
device that answers and where E6 and the Pacer's die reach one another: a value below 700 leaves the register as it is and
sets CFG_REFUSED (FAULT bit 0); any value from 700 to 4,095 becomes C. A write to TKC_OUT makes any value from 0 to 4,095
D. (02_tick_and_timetable.md R38) -/
def Obligations.ClearRegister : Prop :=
  ∀ (s : State) (v : Word), s.answers = true → s.reached pacerDA = true → bit (s.reg pacerDA pgTkc 0x00C) 2 = false →
    (v.toNat % 4096 < 700 → Yields (.registerWrite pacerDA pgTkc 0x044 v) s fun u =>
      u.reg pacerDA pgTkc 0x044 = s.reg pacerDA pgTkc 0x044 ∧ bit (u.reg pacerDA pgTkc 0x014) 0 = true) ∧
    (700 ≤ v.toNat % 4096 → Yields (.registerWrite pacerDA pgTkc 0x044 v) s fun u =>
      bits (u.reg pacerDA pgTkc 0x044) 11 0 = v.toNat % 4096) ∧
    (Yields (.registerWrite pacerDA pgTkc 0x048 v) s fun u => bits (u.reg pacerDA pgTkc 0x048) 11 0 = v.toNat % 4096)

/-- REGISTER_WRITE, BROADCAST_WRITE, SRST, MAX_CLR, CLEARING_READ and LATCHING_READ. At a populated page that is not retired,
of a die that answers and that E6 reaches: a host write to FAULT_MASK stores the word, and a host write to any common
register leaves the page's lock; one to FAULT clears the bits that are written 1, but for one that an event has set in the
same cycle. A broadcast stores it in every populated page of that index that is not retired. SRST returns every block
register of an unlocked page to its reset value while the tick is disarmed, and does nothing to a locked page or outside
the disarmed tick. MAX_CLR clears a maximum; a clearing read clears VALID; a latching read puts the high word into the
register after it. A host write to a retired page changes no register of the page but FAULT. (01_dies_and_address_map.md
R28; 18_register_pages.md R449; 06_core_sequencer.md R158; 13_host_and_plant_links.md R338; 18_register_pages.md R457;
01_dies_and_address_map.md R30; 00_scope.md R9) -/
def Obligations.RegisterAccesses : Prop :=
  ∀ (s : State) (da page : Nat) (b : Blk), s.answers = true → s.reached da = true → da < 256 → page < 256 → blkAt da page = some b →
    (∀ v : Word, s.retired da page = false →
      (Yields (.registerWrite da page 0x018 v) s fun u => u.reg da page 0x018 = v.toNat) ∧
      (∀ off, off < 0x040 → Yields (.registerWrite da page off v) s fun u =>
        bit (u.reg da page 0x00C) 2 = bit (s.reg da page 0x00C) 2) ∧
      (Yields (.broadcastWrite page 0x018 v []) s fun u => u.reg da page 0x018 = v.toNat)) ∧
    (∀ (v : Word) (n : Nat), n < b.faultBits → s.freshBits (regKey da page 0x014 0) < 2 ^ 32 →
      Yields (.registerWrite da page 0x014 v) s fun u => bit (u.reg da page 0x014) n =
        (bit (s.reg da page 0x014) n && !(bit v.toNat n && !bit (s.freshBits (regKey da page 0x014 0)) n))) ∧
    (∀ (v : Word) (off : Nat), s.retired da page = true → off ≠ 0x014 →
      Yields (.registerWrite da page off v) s fun u => ∀ o i, o < 4096 → i < 4096 → u.reg da page o i = s.reg da page o i) ∧
    (s.retired da page = false →
      (bit (s.reg da page 0x00C) 2 = false → s.disarmed = true → Yields (.srst da page) s fun u =>
        ∀ off idx, 0x040 ≤ off → off < 4096 → idx < 4096 → u.reg da page off idx = (regReset da page off).toNat) ∧
      (bit (s.reg da page 0x00C) 2 = true ∨ s.disarmed = false → Yields (.srst da page) s fun u => u = s) ∧
      (∀ off v, maxCleared b off = some v → Yields (.maxClr da page off) s fun u => u.reg da page off = v)) ∧
    (∀ off, clearsOnRead b off = true → Yields (.clearingRead da page off) s fun u => bit (u.reg da page off) 31 = false) ∧
    (∀ off v, s.latchWord b da page off = some v → b ≠ .tsn → Yields (.latchingRead da page off) s fun u =>
      u.reg da page (off + 4) = v) ∧
    (b = .tsn → Yields (.latchingRead da page 0x070) s fun u => u.reg da page 0x074 = u.reg da page 0x074 1)

/-- RX_FRAME, TX_POLL, TX_DONE, SYNC_MESSAGE, SYNC_TIMEOUT, GATE_INTERVAL and PORT_LINK_CHANGE. A frame on a port that is up
joins the port's received frames; on an idle port E7 asks for the head receive descriptor. Where that comes without OWN,
the frame is dropped with FAULT bit 2; with OWN the blocks of its buffer are written, then length, time stamp and OWN = 0,
and then the head advances. A poll of an idle port asks for the head transmit descriptor, 1 us after the last one; one
without OWN is left, of one with OWN the buffer is read. Once a frame that is being sent has left, time stamp and OWN = 0
are written, and then the head advances. The eighth phase error within 20 ns locks; one beyond 1,000 ns and a timeout
unlock. A gate interval that is over ends with the next entry; a link that goes down sets FAULT bit 0. (Requests are sent
where a tag and tokens are there.) (13_host_and_plant_links.md R346; 13_host_and_plant_links.md R347;
13_host_and_plant_links.md R349; 13_host_and_plant_links.md R350) -/
def Obligations.PlantEthernet : Prop :=
  ∀ (s : State) (port : Nat), port < 4 →
    let x := s.eth port
    let ra := s.headDesc port 1
    let ta := s.headDesc port 0
    let asks := fun (u : State) (sport : Nat) (r : IoReq) (t : Nat) =>
      Sends s u { s.ioPacket tsnDA sport r with tag := BitVec.ofNat 10 t }
    let answers := fun (p : Packet) (sport : Nat) => p.dst.toNat = tsnDA ∧ p.dport.toNat = sport ∧ (s.pendingReq p).isSome = true
    let inHand := fun (e : EthRun) => e.run.tags.map (·.2) ++ e.run.left.map (·.addr)
    (∀ frame time, s.portUp port = true → frame ≠ [] → frame.length ≤ 9216 →
      (Yields (.rxFrame port frame time) s fun u => (u.eth port).rxq = x.rxq ++ [(frame, time)] ∧ SameStores s u) ∧
      (∀ t, x.rx = none → s.freeTag tsnDA port = some t → s.hasTokens tsnDA port 2 16 = true →
        Yields (.rxFrame port frame time) s fun u => asks u port { addr := ra, n := 16 } t ∧
          ∃ e, (u.eth port).rx = some e ∧ e.phase = 1 ∧ e.run.tags = [(t, ra)])) ∧
    (∀ (p : Packet) (e : EthRun) (f : List Byte × Word) (r : List (List Byte × Word)), answers p port → x.rx = some e →
      x.rxq = f :: r → e.run.left = [] →
      (Arrived s p opRDR → p.status = 0 → p.data.length = 16 → e.phase = 1 → e.run = { tags := [(p.tag.toNat, ra)] } →
        let w := fun i => word32At p.data (4 * i)
        (bit (w 2) 31 = false → Yields (.rdr p) s fun u => u.eth port = { x with rx := none, rxq := r } ∧
          bit (u.reg tsnDA pgTsn 0x014) 2 = true ∧ SameStores s u) ∧
        (bit (w 2) 31 = true → Yields (.rdr p) s fun u => ∃ e', (u.eth port).rx = some e' ∧ e'.phase = 2 ∧ e'.desc = p.data ∧
          inHand e' = (writesOf none (w 0 + 2 ^ 32 * bits (w 1) 9 0) f.1).map (·.addr))) ∧
      (∀ b, Arrived s p opWRR → e.phase = 2 → e.run.tags = [(p.tag.toNat, b)] → Yields (.wrr p) s fun u =>
        let word := clrBit (putBits (e.word 2) 13 0 f.1.length) 31
        let back : IoReq := { addr := ra + 8, n := 8, data := some (leBytes 4 word ++ leBytes 4 f.2.toNat) }
        ∃ e', (u.eth port).rx = some e' ∧ e'.phase = 3 ∧ (e'.run.left = [back] ∨ ∃ t, asks u port back t)) ∧
      (∀ b, Arrived s p opWRR → e.phase = 3 → e.run.tags = [(p.tag.toNat, b)] → Yields (.wrr p) s fun u =>
        u.eth port = { x with rx := none, rxq := r, rxHead := (x.rxHead + 1) % (s.ringOf port 1).2 })) ∧
    (∀ t, s.portUp port = true → x.tx = none → x.pollDue ≤ s.boot.time → s.freeTag tsnDA (4 + port) = some t →
      s.hasTokens tsnDA (4 + port) 2 16 = true → Yields (.txPoll port) s fun u => asks u (4 + port) { addr := ta, n := 16 } t ∧
        (u.eth port).pollDue = s.boot.time + 1400 ∧ SameStores s u ∧
        ∃ e, (u.eth port).tx = some e ∧ e.phase = 1 ∧ e.run.tags = [(t, ta)]) ∧
    (∀ (p : Packet) (e : EthRun), answers p (4 + port) → x.tx = some e → e.run.left = [] →
      (Arrived s p opRDR → p.status = 0 → p.data.length = 16 → e.phase = 1 → e.run = { tags := [(p.tag.toNat, ta)] } →
        let w := fun i => word32At p.data (4 * i)
        (bit (w 2) 31 = false → Yields (.rdr p) s fun u => u.eth port = { x with tx := none }) ∧
        (bit (w 2) 31 = true → bits (w 2) 13 0 ≠ 0 → bits (w 2) 13 0 ≤ 9216 → Yields (.rdr p) s fun u => ∃ e', (u.eth port).tx = some e' ∧ e'.phase = 2 ∧
          inHand e' = (readsOf none (w 0 + 2 ^ 32 * bits (w 1) 9 0) (bits (w 2) 13 0)).map (·.addr))) ∧
      (∀ b, Arrived s p opWRR → e.phase = 5 → e.run.tags = [(p.tag.toNat, b)] → Yields (.wrr p) s fun u =>
        u.eth port = { x with tx := none, txHead := (x.txHead + 1) % (s.ringOf port 0).2 })) ∧
    (∀ time e t, x.tx = some e → e.phase = 4 → e.began + s.frameCycles port e.data.length ≤ s.boot.time →
      s.freeTag tsnDA (4 + port) = some t → s.hasTokens tsnDA (4 + port) 2 8 = true → Yields (.txDone port time) s fun u =>
        let data := leBytes 4 (clrBit (e.word 2) 31) ++ leBytes 4 time.toNat
        asks u (4 + port) { addr := ta + 8, n := 8, data := some data } t ∧
        ∃ e', (u.eth port).tx = some e' ∧ e'.phase = 5 ∧ e'.run.tags = [(t, ta + 8)]) ∧
    (∀ err : Int, Yields (.syncMessage err) s fun u =>
      (-20 ≤ err → err ≤ 20 → 7 ≤ s.pacer.syncGood → u.pacer.netLock = true) ∧
      (err < -1000 ∨ 1000 < err → u.pacer.netLock = false ∧ u.pacer.syncGood = 0) ∧
      (-1000 ≤ err → err ≤ 1000 → (err < -20 ∨ 20 < err) → u.pacer.syncGood = 0 ∧ u.pacer.netLock = s.pacer.netLock)) ∧
    (Yields .syncTimeout s fun u => u.pacer.netLock = false ∧ u.pacer.syncGood = 0 ∧
      (s.pacer.netLock = true → s.onNetwork = true → s.running = true → u.pacer.offNetwork = true ∧
        bit (u.reg pacerDA pgTkc 0x014) 5 = true)) ∧
    (∀ g, x.gcl[x.gate]? = some g → x.gateAt + g.2 * 7 / 5 ≤ s.boot.time → Yields (.gateInterval port) s fun u =>
      u.eth port = { x with gate := (x.gate + 1) % x.gcl.length, gateAt := s.boot.time }) ∧
    (bits (s.portCfg port) 1 0 ≠ 0 → Yields (.portLinkChange port true) s fun u =>
      bit (u.reg tsnDA pgTsn (0x050 + 4 * port)) 0 = true) ∧
    (bit (s.reg tsnDA pgTsn (0x050 + 4 * port)) 0 = true → Yields (.portLinkChange port false) s fun u =>
      bit (u.reg tsnDA pgTsn (0x050 + 4 * port)) 0 = false ∧ bit (u.reg tsnDA pgTsn 0x014) 0 = true)

/-- DRAM_COMMIT, REQUEST_AGED, RAISE and the overdraft commands. On a ready channel without ALERT: where the committed
requests leave room, the next one leaves its queue and joins them; with no overdraft granted and Q1 not empty it is the
oldest Q1 request. The oldest committed request completes: a read that meets no wrong symbol and no armed injection is
answered with its data, and a write, which was answered when it came, leaves the committed ones. A Q2 request that has
waited the programmed age joins the aged ones. RAISE of a real-time port that has no overdraft joins the pending
overdrafts; of any other port it sets FAULT bit 5. The oldest pending one is granted when none is granted and the barrier
is empty, and counts; END by its port, and 1,120 core cycles, end it with the queued Q1 requests as the next barrier.
(10_memory_channels.md R264; 10_memory_channels.md R266; 10_memory_channels.md R267; 10_memory_channels.md R268) -/
def Obligations.ChannelService : Prop :=
  ∀ (s : State) (ch : Nat), s.chReady ch = true →
    let x := s.chan ch
    let da := channelDA ch
    (∀ m rule hit, x.alerted = false → x.hasRoom = true → s.nextCommit ch = some (m, rule, hit) → Yields (.dramCommit ch []) s fun u =>
      (u.chan ch).q1 = x.q1.filter (fun y => y.order != m.order) ∧ (u.chan ch).qr = x.qr.filter (fun y => y.order != m.order) ∧
      (u.chan ch).q2 = x.q2.filter (fun y => y.order != m.order) ∧ (u.chan ch).committed = x.committed ++ [m] ∧ SameStores s u) ∧
    (∀ m r, x.alerted = false → x.committed = m :: r → m.p.opc = opRD → (s.armedInject ch).1 = 0 →
      Yields (.dramCommit ch [[]]) s fun u =>
        Sends s u { synthRsp m.p 0 with len := BitVec.ofNat 9 m.data.length, data := m.data, psn := m.psn } ∧ SameStores s u ∧
        (x.q1 = [] → x.qr = [] → x.q2 = [] → (u.chan ch).committed = r)) ∧
    (∀ m r, x.alerted = false → x.committed = m :: r → m.p.opc = opWR → (s.armedInject ch).1 = 0 →
      Yields (.dramCommit ch [[]]) s fun u => SameStores s u ∧
        (x.q1 = [] → x.qr = [] → x.q2 = [] → (u.chan ch).committed = r ∧ u.net = s.net)) ∧
    (x.granted = none → x.q1 ≠ [] → ∃ m, s.nextCommit ch = some (m, 2, false) ∧ m ∈ x.q1 ∧ ∀ y ∈ x.q1, m.order ≤ y.order) ∧
    (∀ i m, x.q2[i]? = some m → s.reg da (pgMch ch) 0x04C % 256 ≠ 0 →
      m.since + 64 * (s.reg da (pgMch ch) 0x04C % 256) ≤ s.boot.time → Yields (.requestAged ch i) s fun u =>
        (u.chan ch).q2 = x.q2.set i { m with aged := true }) ∧
    (∀ src sport,
      (s.realTime ch src sport = false → Yields (.ovdRaise ch src sport) s fun u =>
        u.chans = s.chans ∧ bit (u.reg da (pgMch ch) 0x014) 5 = true) ∧
      (s.realTime ch src sport = true → (∀ o, x.granted = some o ∨ o ∈ x.pendOvd → (o.da, o.sport) ≠ (src, sport)) →
        Yields (.ovdRaise ch src sport) s fun u => (u.chan ch).pendOvd = x.pendOvd ++ [{ da := src, sport := sport }])) ∧
    (∀ o r, x.pendOvd = o :: r → x.granted = none → x.barrier = [] → Yields (.overdraftGrant ch) s fun u =>
      (u.chan ch).granted = some { o with since := s.boot.time } ∧ (u.chan ch).pendOvd = r ∧
      u.reg da (pgMch ch) 0x08C = (s.reg da (pgMch ch) 0x08C + 1) % 2 ^ 32) ∧
    (∀ o, x.granted = some o →
      (Yields (.overdraftEnd ch o.da o.sport) s fun u => u.chan ch = { x with granted := none, barrier := x.q1.map (·.order) }) ∧
      (o.since + 1120 ≤ s.boot.time → Yields (.overdraftExpiry ch) s fun u =>
        u.chan ch = { x with granted := none, barrier := x.q1.map (·.order) }))

/-- Refresh, neighbour refresh, ALERT and REPLAY, patrol scrub, module temperature. On a ready channel: a refresh that is due
every 2,730 cycles raises the debt; with Q1 empty and no request committed, or a debt of 4, it starts and lowers it. A
queued neighbour row is granted 1,950 ns after the last one, which raises the debt; where no refresh is due and it may
start, it is refreshed at once. The activate table is cleared when that is due. ALERT closes the rows; a replay counts,
and ends the alert, or is repeated, or at the third failure fails the channel and reports it. The scrub reads the next
burst when it is due, on an idle channel without an armed injection; a wrong symbol is counted and its device charged. A
module read above 95 degrees, when the reading is due, is hot and sets FAULT bit 7. (10_memory_channels.md R271;
10_memory_channels.md R272; 10_memory_channels.md R273; 10_memory_channels.md R275; 10_memory_channels.md R276;
10_memory_channels.md R277; 10_memory_channels.md R279; 10_memory_channels.md R281) -/
def Obligations.RefreshAndErrors : Prop :=
  ∀ (s : State) (ch : Nat), s.chReady ch = true →
    let x := s.chan ch
    let da := channelDA ch
    let now := s.boot.time
    (x.nextDue ≤ now → Yields (.refreshDue ch) s fun u => (u.chan ch).debt = x.debt + 1 ∧ (u.chan ch).dueRefresh = x.dueRefresh + 1 ∧
      (u.chan ch).nextDue = x.nextDue + 2730 ∧ min 7 (x.debt + 1) ≤ u.reg da (pgMch ch) 0x09C) ∧
    (now < x.nextDue → Yields (.refreshDue ch) s fun u => u = s) ∧
    (0 < x.dueRefresh → x.alerted = false → ((x.q1 = [] ∧ x.committed = [] ∧ 0 < x.debt) ∨ 4 ≤ x.debt) →
      Yields (.refreshStart ch) s fun u => (u.chan ch).dueRefresh = x.dueRefresh - 1 ∧ (u.chan ch).debt = x.debt - 1 ∧
        (u.chan ch).openRows = [] ∧ (u.chan ch).q1 = x.q1) ∧
    (x.q1 ≠ [] ∨ x.committed ≠ [] → x.debt < 4 → Yields (.refreshStart ch) s fun u => u = s) ∧
    (x.granting < x.neigh.length → (∀ n, x.lastNeigh = some n → n + 2730 ≤ now) →
      (0 < x.dueRefresh → Yields (.neighbourRefresh ch) s fun u => (u.chan ch).granting = x.granting + 1 ∧
        (u.chan ch).debt = x.debt + 1 ∧ (u.chan ch).lastNeigh = some now ∧ (u.chan ch).neigh = x.neigh) ∧
      (∀ k r, x.neigh = k :: r → x.dueRefresh = 0 → x.alerted = false → ((x.q1 = [] ∧ x.committed = []) ∨ 3 ≤ x.debt) →
        Yields (.neighbourRefresh ch) s fun u =>
          (u.chan ch).neigh = r ++ x.throttled.take 1 ∧ (u.chan ch).throttled = x.throttled.drop 1 ∧ (u.chan ch).heldBanks = [] ∧
          (u.chan ch).lastNeigh = some now ∧ (u.chan ch).debt = x.debt ∧ (u.chan ch).granting = x.granting ∧
          u.reg da (pgMch ch) 0x090 = (s.reg da (pgMch ch) 0x090 + 1) % 2 ^ 32)) ∧
    (x.tableDue ≤ now → Yields (.activateTableClear ch) s fun u =>
      u.chan ch = { x with activates := [], tableDue := x.tableDue + 44800000 }) ∧
    (now < x.tableDue → Yields (.activateTableClear ch) s fun u => u = s) ∧
    (Yields (.alert ch) s fun u => (u.chan ch).alerted = true ∧ (u.chan ch).openRows = [] ∧ (u.chan ch).q1 = x.q1 ∧
      (u.chan ch).committed = x.committed) ∧
    (x.alerted = true →
      (∀ ok, Yields (.replay ch ok) s fun u => u.reg da (pgMch ch) 0x088 = (s.reg da (pgMch ch) 0x088 + 1) % 2 ^ 32 ∧
        bit (u.reg da (pgMch ch) 0x014) 2 = true ∧ (u.chan ch).committed = x.committed ∧ SameStores s u) ∧
      (let hit := (s.armedInject ch).1 = 3 ∧ x.unsure ≠ 0
       (¬ hit → Yields (.replay ch true) s fun u => (u.chan ch).alerted = false ∧ (u.chan ch).replays = 0) ∧
       ∀ ok, ok = false ∨ hit →
      (x.replays < 2 → Yields (.replay ch ok) s fun u => (u.chan ch).alerted = true ∧ (u.chan ch).replays = x.replays + 1) ∧
      (2 ≤ x.replays → Yields (.replay ch ok) s fun u => (u.chan ch).step = 6 ∧ (u.chan ch).alerted = false ∧
        bit (u.reg da (pgMch ch) 0x014) 3 = true ∧ Reports s u da 2 0x0B (ledgerRef da 0x08 (ch % 2)) ch))) ∧
    (let l := 64 * x.scrubNext
     x.alerted = false → x.q1 = [] → x.qr = [] → x.q2 = [] → x.held (s.rowKey ch l) = false →
      s.reg da (pgMch ch) 0x054 % 256 ≠ 0 → s.scrubDue ch ≤ now → s.injected ch = [] →
      (Yields (.patrolScrub ch []) s fun u => SameStores s u ∧
        (u.chan ch).scrubNext = if x.scrubNext + 1 < s.moduleSize / 64 then x.scrubNext + 1 else 0) ∧
      (∀ sym, sym < 80 → s.sparedDev da (ch % 2) (s.groupOf ch l) ≠ some (sym / 8) → Yields (.patrolScrub ch [sym]) s fun u =>
        SameStores s u ∧ u.reg da (pgMch ch) 0x080 = (s.reg da (pgMch ch) 0x080 + 1) % 2 ^ 32 ∧
        Charges s u da (ledgerRef da 0x07 ((8 * (ch % 2) + s.groupOf ch l) * 10 + sym / 8)) 2 0
          (s.rowOf ch l % 2 ^ 17 + bits l 11 9 * 2 ^ 17 + bits l 8 7 * 2 ^ 20))) ∧
    (∀ degC : Int, x.tempDue ≤ now → Yields (.moduleTemperature ch degC) s fun u => (u.chan ch).degC = degC ∧
      (u.chan ch).modHot = decide (95 < degC) ∧ (95 < degC → bit (u.reg da (pgMch ch) 0x014) 7 = true))

/-- LOAD, UNLOAD and the phases of a reconfiguration; configuration and block-memory upsets. On enabled pages: LOAD of a
variant that the image does not hold is refused; one that may be served joins the queue and, first in it, starts the
verification. The verified variant isolates the region; after the drain (no request of the region is out, or the timeout
has passed) its isolation is completed, and it is loaded, released, and runs with what the variant declares, and the time
is recorded; UNLOAD leaves the region absent. A failed check, and a load beyond 50 ms, set their FAULT bits. A single
wrong configuration bit is counted and charged; more unload a region without fixed use and report one with it. A wrong bit
of a block memory with ECC is charged. (Where the phase after the command is named, the queue holds this command only.)
(11_logic_fabric.md R288; 11_logic_fabric.md R301; 11_logic_fabric.md R302; 11_logic_fabric.md R303; 11_logic_fabric.md
R304) -/
def Obligations.PartialReconfiguration : Prop :=
  ∀ (s : State) (f r : Nat), f < 24 → r < 16 → s.pageEn (fabricDA f) (pgFab r) = true → s.pageEn (fabricDA f) pgFabDie = true →
    let x := s.region f r
    let da := fabricDA f
    let q := (s.fab f).queue
    let flagged := fun (u : State) (n : Nat) => bit (u.reg da (pgFab r) 0x014) n = true
    (∀ v,
      (s.variantSeg f r v = none → Yields (.fabLoad f r v) s fun u => flagged u 0 ∧ u.regions = s.regions ∧ u.fabs = s.fabs) ∧
      (∀ g, s.variantSeg f r v = some g → s.fabBusy f r = false → s.usesRetired f g = false →
        Yields (.fabLoad f r v) s fun u => (u.fab f).queue = q ++ [(r, some v)] ∧
          (q = [] → u.region f r = { x with phase := .verifying, before := x.phase, target := some v }) ∧
          (q ≠ [] → u.regions = s.regions))) ∧
    (s.fabBusy f r = true → Yields (.fabUnload f r) s fun u => flagged u 0 ∧ u.regions = s.regions ∧ u.fabs = s.fabs) ∧
    (s.fabBusy f r = false → Yields (.fabUnload f r) s fun u => (u.fab f).queue = q ++ [(r, none)] ∧
      (q = [] → (u.region f r).phase = .isolating ∧ (u.region f r).isolated = s.boot.time)) ∧
    (s.servingIn f r .verifying = true →
      (∀ v g d, x.target = some v → s.variantSeg f r v = some g → s.variantDecl g = some d → s.keepsUse f r d.1 = true →
        Yields (.variantVerified f r true) s fun u => (u.region f r).phase = .isolating ∧ (u.region f r).next = d.1 ∧
          (u.region f r).nextCfg = d.2) ∧
      (∀ v g, x.target = some v → s.variantSeg f r v = some g → s.variantDecl g = none → q.length = 1 →
        Yields (.variantVerified f r true) s fun u => (u.region f r).phase = x.before ∧ flagged u 1 ∧ (u.fab f).queue = [])) ∧
    (s.servingIn f r .isolating = true → x.drained = none → x.isolated + 2 ≤ s.boot.time →
      ((∀ p ∈ x.initiators, (s.fport f p).reqs = []) ∨ x.isolated + 2 + s.niTimeout da ≤ s.boot.time) → Yields (.drainEnd f r) s fun u =>
      u.region f r = { x with drained := some s.boot.time } ∧ u.fabs = s.fabs) ∧
    (x.target ≠ none → ((s.isolationDone f r).region f r).phase = .loading ∧ ((s.isolationDone f r).region f r).loading = s.boot.time) ∧
    (x.target = none → q.length = 1 → ((s.isolationDone f r).region f r).phase = .absent ∧ ((s.isolationDone f r).fab f).queue = []) ∧
    (s.servingIn f r .loading = true →
      (x.loading + loadCycles (s.targetLen f r) ≤ s.boot.time → s.boot.time ≤ x.loading + 70000000 →
        Yields (.loadingDone f r) s fun u => (u.region f r).phase = .releasing ∧ (u.region f r).releasing = s.boot.time) ∧
      (x.loading + 70000000 < s.boot.time → q.length = 1 → Yields (.loadTimeout f r) s fun u =>
        (u.region f r).phase = .failed ∧ flagged u 2 ∧ (u.fab f).queue = [])) ∧
    (s.servingIn f r .releasing = true → x.releasing + s.releaseCycles f r ≤ s.boot.time → q.length = 1 →
      Yields (.releaseWait f r) s fun u => (u.region f r).phase = .running ∧ (u.region f r).decl = x.next ∧
        (u.region f r).variant = x.target.getD 0 ∧ (u.fab f).queue = [] ∧
        u.reg da (pgFab r) 0x050 = min (2 ^ 32 - 1) (5 * (s.boot.time - x.isolated) / 7)) ∧
    (x.runs = true →
      (∀ word, Yields (.configScrub f r word 1) s fun u => flagged u 3 ∧
        u.reg da (pgFab r) 0x054 = (s.reg da (pgFab r) 0x054 + 1) % 2 ^ 32 ∧ Charges s u da (ledgerRef da 0x0B r) 2 0 word) ∧
      (∀ word errs, 2 ≤ errs → Yields (.configScrub f r word errs) s fun u => flagged u 4 ∧
        (x.fixed = true → Reports s u da 0 0x0C noRef r) ∧ (x.fixed = false → (u.fab f).queue = q ++ [(r, none)])) ∧
      (∀ b row, b < 150 → row < 512 → (Config.ramCfg x.logicCfg b).simple = true → (Config.ramCfg x.logicCfg b).ecc = true →
        (Yields (.blockMemoryRead f r b row 1) s fun u => Charges s u da (ledgerRef da 0x0A (150 * r + b)) 2 0 row ∧
          bit (u.reg da pgFabDie 0x014) 1 = true) ∧
        (∀ errs, 2 ≤ errs → Yields (.blockMemoryRead f r b row errs) s fun u => bit (u.reg da pgFabDie 0x014) 2 = true ∧
          (tget (u.regionLogic f r).rams b {}).ded = true)))

/-- SIG, PORT_LATE, PORT_RESPONSE and INITIATOR_REQUEST. SIG strobes the region that owns its target port, and only leaves
where none does. An overdue request of a target port is marked, sets FAULT bit 5 and is reported for class 0 and 1. A
response of the logic of the right length ends the request and is sent with its data and their poison. A class 2 request
of an initiator port, and a class 0 or 1 request to a die store within its window and budget, within tokens and tags, is
sent as the port's own, as is an arrival or a signal; a class 0 or 1 request outside its window or budget is answered with
an error, flagged and reported. (11_logic_fabric.md R292; 11_logic_fabric.md R293; 11_logic_fabric.md R294;
11_logic_fabric.md R295; 11_logic_fabric.md R296) -/
def Obligations.FabricPorts : Prop :=
  (∀ (s : State) (p : Packet) (f : Nat), Arrived s p opSIG → fabricOf p.dst.toNat = some f →
      (∀ r d, p.addr.toNat % 256 < 64 → s.portOwner f (p.addr.toNat % 256) = some (r, d) → Yields (.sig p) s fun u =>
        u = (s.take p).strobe f r 3 (p.aux.toNat % 2 ^ 16)) ∧
      (s.portOwner f (p.addr.toNat % 256) = none ∨ 64 ≤ p.addr.toNat % 256 → Yields (.sig p) s fun u => u = s.take p)) ∧
    (∀ (s : State) (f port r : Nat) (d : PortDecl) (q : PortReq), f < 24 → port < 64 → s.portOwner f port = some (r, d) →
      ((s.fport f port).reqs.find? fun q => s.overdue f r d q) = some q →
      Yields (.portLate f port) s fun u => bit (u.reg (fabricDA f) (pgFab r) 0x014) 5 = true ∧
        (∀ y ∈ (u.fport f port).reqs, y.tag = q.tag → y.late = true) ∧
        (q.p.cls.toNat < 2 → Reports s u (fabricDA f) q.p.cls.toNat 0x08 noRef port)) ∧
    (∀ (s : State) (f port tag r : Nat) (d : PortDecl) (q : PortReq) (data : List Byte) (rsp : Option (List Bool)), f < 24 → port < 64 →
      s.portOwner f port = some (r, d) → ((s.fport f port).reqs.find? fun q => q.tag == tag) = some q →
      data.length = (if q.p.opc = opRD ∧ rsp.isSome = true then q.p.len.toNat else 0) →
      (rsp.getD []).length = (if data.length = 0 then 0 else (byteAddr q.p % 32 + data.length + 31) / 32) → (s.region f r).isolatedNow = false →
      Yields (.portResponse f port tag data rsp) s fun u =>
        (∀ y ∈ (u.fport f port).reqs, y.tag ≠ tag) ∧
        Sends s u { synthRsp q.p (if rsp.isSome then 0 else 4) with len := BitVec.ofNat 9 data.length, data := data, psn := rsp.getD [] }) ∧
    (∀ (s : State) (f port r : Nat) (d : PortDecl) (p : Packet), f < 24 → port < 16 → s.portOwner f (64 + port) = some (r, d) →
      (s.region f r).isolatedNow = false → p.isRequest = true →
      let x := s.fport f (64 + port)
      let da := fabricDA f
      (∀ t, d.cls = 2 → p.tag.toNat < 64 → (∀ y ∈ x.reqs, y.tag ≠ p.tag.toNat) → s.hasTokens da port 2 p.len.toNat = true →
        s.freeTag da port = some t → Yields (.initiatorRequest f port p) s fun u =>
          Sends s u { s.portPacket f port 2 p with tag := BitVec.ofNat 10 t } ∧
          ∃ y, (u.fport f (64 + port)).reqs = x.reqs ++ [y] ∧ y.tag = p.tag.toNat) ∧
      (∀ t, d.cls < 2 → p.space = 2 → d.wstart ≤ s.pacer.cycle → s.pacer.cycle ≤ d.wend → x.used < d.value → p.tag.toNat < 64 →
        (∀ y ∈ x.reqs, y.tag ≠ p.tag.toNat) → s.hasTokens da port d.cls p.len.toNat = true → s.freeTag da port = some t →
        Yields (.initiatorRequest f port p) s fun u =>
          Sends s u { s.portPacket f port d.cls p with tag := BitVec.ofNat 10 t } ∧ (u.fport f (64 + port)).used = x.used + 1 ∧
          ∃ y, (u.fport f (64 + port)).reqs = x.reqs ++ [y] ∧ y.tag = p.tag.toNat) ∧
      (d.cls < 2 → p.space = 2 → (s.pacer.cycle < d.wstart ∨ d.wend < s.pacer.cycle ∨ d.value ≤ x.used) →
        Yields (.initiatorRequest f port p) s fun u =>
          (u.fport f (64 + port)).rsp = x.rsp ++ [(p.tag.toNat, [], [], true)] ∧
          (u.fport f (64 + port)).reqs = x.reqs ∧ bit (u.reg da pgFabDie 0x014) 0 = true ∧
          Reports s u da d.cls 0x08 noRef port)) ∧
    (∀ (s : State) (f port r : Nat) (d : PortDecl) (p : Packet), f < 24 → port < 16 → s.portOwner f (64 + port) = some (r, d) →
      (s.region f r).isolatedNow = false → p.opc = opARR ∨ p.opc = opSIG → d.cls < 3 → s.mayOffer d (s.fport f (64 + port)).used = true →
      Yields (.initiatorRequest f port p) s fun u => Sends s u (s.portPacket f port d.cls p) ∧
        (u.fport f (64 + port)).used = (s.fport f (64 + port)).used + 1)

/-- The Mint, the temperatures and the intermediate rail. GRANT 256 cycles into a quantum: after a cut no allowance changes;
otherwise every bound die has at least its floor share more, and exactly that while class 2 is shed (each die bound once),
and no other die's allowance changes. MNT_RAIL shows the rail measured at a quantum's end. A quantum that drew more than
1,150 W times its length cuts: every allowance is 0 and FAULT bit 1 is set. While the tick is not running the bucket takes
the budget less the energy drawn, up to 450 J. A reported refund is credited once. A limit of 0 or at least the lowest one
is stored, another is refused. Four valid readings of a die with sound sensors, when its reading is due: the die counts
with the highest of them, and the hottest die of the package decides: shed from 100 degrees, warning from 105, shutdown
from 112 (readings in steps of 0.125 degrees). A rail below 1.71 V for 10 us sheds, below 1.62 V for 2 us shuts down, and
at 1.71 V or more changes nothing of the Mint but the time from which the recovery counts, where it is at most 1.74 V. The
recovery ends the shedding once 1 ms has passed since then, and does nothing before. (16_mint_and_thermal.md R420;
16_mint_and_thermal.md R424; 16_mint_and_thermal.md R425; 16_mint_and_thermal.md R426; 05_sparsity_and_gating.md R125;
16_mint_and_thermal.md R427; 16_mint_and_thermal.md R428; 16_mint_and_thermal.md R430) -/
def Obligations.EnergyAndTemperature : Prop :=
  (∀ s : State,
    (s.running = true → s.pacer.strobed = false → s.pacer.cycle = 1400 * s.mint.quantum + 256 →
      let p := s.period
      let len := if 1400 * s.mint.quantum < p then min 1400 (p - 1400 * s.mint.quantum) else 1400
      let share : Nat := s.efloor * 2 ^ 20 * len / max 1 p
      (s.mint.cut = true → Yields .grant s fun u => u.tiles = s.tiles ∧ u.mint = { s.mint with quantum := s.mint.quantum + 1 }) ∧
      (s.mint.cut = false → Yields .grant s fun u => u.mint.quantum = s.mint.quantum + 1 ∧ ∀ t,
        (t ∈ s.boundTiles → (s.tile t).allowance + (share : Int) ≤ (u.tile t).allowance) ∧
        (t ∉ s.boundTiles → (u.tile t).allowance = (s.tile t).allowance) ∧
        (t ∈ s.boundTiles → s.boundTiles.Nodup → s.shedNow = true → (u.tile t).allowance = (s.tile t).allowance + (share : Int)))) ∧
    (∀ energy mv amps,
      let len := if 1400 * s.mint.ended < s.period then min 1400 (s.period - 1400 * s.mint.ended) else 1400
      s.pacer.phase = .running ∨ s.pacer.phase = .restarting → s.pacer.cycle = 1400 * s.mint.ended + len →
      Yields (.quantumEnd energy mv amps) s fun u => bits (u.reg pacerDA pgMnt 0x068) 11 0 = mv % 2 ^ 12 ∧ bits (u.reg pacerDA pgMnt 0x068) 25 16 = amps % 2 ^ 10 ∧
        u.mint.energy = s.mint.energy + energy ∧ u.mint.ended = s.mint.ended + 1 ∧
        (1150 * len < energy * 1400 → u.mint.cut = true ∧ (∀ t, (u.tile t).allowance = 0) ∧
          bit (u.reg pacerDA pgMnt 0x014) 1 = true) ∧
        (energy * 1400 ≤ 1150 * len → u.mint.cut = s.mint.cut ∧ u.tiles = s.tiles)) ∧
    (∀ energy mv amps, s.pacer.phase = .disarmed ∨ s.pacer.phase = .armed → s.mint.updated + 21875 ≤ s.boot.time →
      Yields (.bucketUpdate energy mv amps) s fun u => u.mint.updated = s.mint.updated + 21875 ∧
        u.mint.bucket = min (450000000 * 1400) (s.mint.bucket + s.budget * 21875 - energy * 1400)) ∧
    (∀ t units, (t, units) ∈ s.mint.refunds → Yields (.refund t units) s fun u =>
      (u.tile t).allowance = (s.tile t).allowance + (units : Int) ∧ u.mint.refunds = s.mint.refunds.erase (t, units)) ∧
    (∀ watts : BitVec 10,
      (watts = 0 ∨ s.limitMin ≤ watts.toNat → Yields (.limit watts) s fun u => u.reg pacerDA pgMnt 0x050 = watts.toNat) ∧
      (watts ≠ 0 → watts.toNat < s.limitMin → Yields (.limit watts) s fun u =>
        u.reg pacerDA pgMnt 0x050 = s.reg pacerDA pgMnt 0x050 ∧ bit (u.reg pacerDA pgMnt 0x014) 3 = true))) ∧
  (∀ s : State,
    (∀ (da : Nat) (a b c d : Int), (dieKind da).isSome = true → s.pageEn da pgThm = true → tget s.mint.readAt da 0 ≤ s.boot.time →
      s.keeper.unusable.contains (da, 0xD0002) = false →
      (∀ x ∈ [a, b, c, d], -440 ≤ x ∧ x ≤ 1200) →
      let m := max (max a b) (max c d)
      Yields (.sensorReading da [a, b, c, d]) s fun u => tget? u.mint.temps da = some m ∧
        ∀ h, hottest (tput s.mint.temps da m) = some h →
          (800 ≤ h.2 → u.mint.shed = true) ∧ (840 ≤ h.2 → u.mint.warn = true) ∧ (896 ≤ h.2 → u.mint.shutdown = true) ∧
          (h.2 < 896 → u.mint.shutdown = s.mint.shutdown ∧ u.reg da pgThm 0x040 = wrap 16 m)) ∧
    (∀ mv us, mv < 1710 → 10 ≤ us → Yields (.railUndervoltage mv us) s fun u => u.mint.uvShed = true) ∧
    (∀ mv us, mv < 1620 → 2 ≤ us → Yields (.railUndervoltage mv us) s fun u => u.mint.shutdown = true) ∧
    (∀ mv us, 1710 ≤ mv → Yields (.railUndervoltage mv us) s fun u => u.pacer = s.pacer ∧
      u.mint = { s.mint with uvAt := if mv ≤ 1740 then s.boot.time else s.mint.uvAt }) ∧
    (s.mint.uvAt + 1400000 ≤ s.boot.time → Yields .undervoltageRecovery s fun u =>
      u = s.setMint { s.mint with uvShed := false }) ∧
    (s.boot.time < s.mint.uvAt + 1400000 → Yields .undervoltageRecovery s fun u => u = s))

/-- PORST_N low for 10 us resets every die with the effects of a power loss. PORST_N low for less than 10 us changes nothing.
From 10 us on, in every state, the device is left exactly as an abrupt power loss leaves it but that it is in reset with
its rails present: every register reads its reset word, and cores, tile units, network, channels, fabric, edges, host
link, Ethernet, Pacer and Mint are those of the reset state (the state of the TAP, whose pins no command moves, stays: log
entry 182). (17_power_up_and_shutdown.md R435) -/
def Obligations.PowerOnReset : Prop :=
  ∀ (s : State) (us : Nat),
    (us < 10 → Yields (.porst us) s fun u => u = s) ∧
    (10 ≤ us → Yields .powerLoss s fun v => Yields (.porst us) s fun u =>
      u = v.setBoot { v.boot with power := .reset } ∧ v.boot.power = .off ∧
      (∀ da page off idx, u.reg da page off idx = (regReset da page off).toNat) ∧
      u.cores = [] ∧ u.tiles = [] ∧ u.net = State.reset.net ∧ u.chans = [] ∧ u.regions = [] ∧ u.fports = [] ∧ u.fabs = [] ∧
      u.edges = [] ∧ u.sds = [] ∧ u.gens = [] ∧ u.encs = [] ∧ u.lanes = [] ∧ u.host = State.reset.host ∧ u.eths = [] ∧
      u.pacer = State.reset.pacer ∧ u.mint = State.reset.mint ∧
      u.boot = { State.reset.boot with trst := s.boot.trst, tap := s.boot.tap })

/-- POWER_LOSS, KEEPER_START, SHUTDOWN, NOBIST and BIST_GROUP_DONE. Without power the host's memory and an undisturbed flash
keep their bytes and every other store reads 0; fuses keep their bits where none was being blown. KEEPER_START begins a
load in pass 1, with the lifecycle of the fuses and the start routes. SHUTDOWN, where nothing forbids it, quiesces with an
empty network; otherwise it only sets CMD_REFUSED; NOBIST halts at once, every other die in reset. A signature of a block
of the running group is compared with the factory's (the blocks that the command does not name return their factory's: log
entry 179), one that differs makes its block retirement pending, and the next group begins; group 9 halts.
(17_power_up_and_shutdown.md R433; 17_power_up_and_shutdown.md R437; 17_power_up_and_shutdown.md R445;
17_power_up_and_shutdown.md R446; 17_power_up_and_shutdown.md R447; 17_power_up_and_shutdown.md R448) -/
def Obligations.PowerSequences : Prop :=
  ∀ s : State,
    (MemoryOk s → Yields .powerLoss s fun u => u.boot.power = .off ∧
      ((∀ word v, s.keeper.vlt ≠ .blowing word v) → u.keeper.fuses = s.keeper.fuses) ∧
      ∀ sp unit a, unit < 2 ^ 16 → a < 2 ^ 64 →
        (sp ≠ .host → sp ≠ .flash → u.byte sp unit a = 0) ∧
        (s.imgState ≠ 8 → sp = .host ∨ sp = .flash → u.byte sp unit a = s.byte sp unit a)) ∧
    (s.boot.porst = true → Yields .keeperStart s fun u => u.boot.porst = false ∧ u.boot.power = .loading ∧ u.boot.time = 0 ∧
      u.keeper.started = true ∧ u.keeper.lifecycle = s.fuseLife ∧ u.net.startRoutes = true ∧ u.imgState = 1) ∧
    (s.boot.porst = false → Yields .keeperStart s fun u => u = s) ∧
    (s.keeper.started = true →
      (s.shutdownOk = true → Yields .shutdown s fun u => u.boot.power = .quiescing ∧ u.net.queued = [] ∧ u.net.arrived = [] ∧
        u.net.outstanding = [] ∧ u.keeper.serviceSaved = u.serviceNow) ∧
      (s.shutdownOk = false → Yields .shutdown s fun u => u.boot = s.boot ∧ u.net = s.net ∧ u.cores = s.cores ∧
        bit (u.reg keeperDA pgBst 0x014) 1 = true) ∧
      (s.shutdownOk = true → Yields .nobist s fun u => u.boot.power = .halted ∧ ∀ da page off idx, da ≠ keeperDA → page < 256 →
        off < 4096 → idx < 4096 → u.reg da page off idx = (regReset da page off).toNat)) ∧
    (∀ sigs, s.boot.power = .quiescing → Yields (.bistGroupDone sigs) s fun u =>
      u.boot = { s.boot with power := .testing, bistGroup := 1 }) ∧
    (s.boot.power = .testing →
      (∀ sigs, s.boot.bistGroup ≠ 9 → Yields (.bistGroupDone sigs) s fun u =>
        (s.keeper.source = false ∨ s.inStep = false → u.boot = { s.boot with bistGroup := s.boot.bistGroup + 1 }) ∧ (s.boot.bistGroup = 8 → u.host.linkUp = false)) ∧
      (∀ x : BistSig, s.boot.bistGroup ≠ 9 → s.boot.bistGroup ≠ 0 → (x.da, x.block) ∈ groupBlocks s.boot.bistGroup →
        Yields (.bistGroupDone [x]) s fun u =>
          let ref := ledgerRef x.da 0x0D x.block
          (∀ y ∈ groupBlocks s.boot.bistGroup, y ≠ (x.da, x.block) →
            (u.ledRec (ledgerRef y.1 0x0D y.2)).bistLast = (s.ledRec (ledgerRef y.1 0x0D y.2)).bistFact) ∧
          (u.ledRec ref).bistLast = x.sig ∧ bit (u.reg x.da pgBst 0x050) x.block = decide (x.sig ≠ (s.ledRec ref).bistFact) ∧
          (x.sig ≠ (s.ledRec ref).bistFact → validRef ref = true → (s.ledRec ref).state < 2 →
            (u.ledRec ref).state = 2 ∧ (u.ledRec ref).cause = 3 ∧ bit (u.reg x.da pgBst 0x014) 0 = true)) ∧
      (∀ sigs, s.boot.bistGroup = 9 → Yields (.bistGroupDone sigs) s fun u => u.boot.power = .halted))

/-- RELOAD, RECOVERY_LOAD, LOAD_STEP, LOAD_STEP_TIMEOUT, ABORT, FLASH_WRITE_DONE and RESERVE_LOAD. RELOAD on an idle,
disarmed, cool device begins pass 1 from flash; a mailbox recovery load with a 4 KiB aligned address begins it from the
host. Pass 1 without an error leads to pass 2, with one to the unwinding with its code; pass 2, training (whose channels
first read their SPD and then train: log entry 99) and verification each lead to the next state or to the unwinding; the
unwinding leads to refused. A step that has lasted to its timeout, and ABORT in one of the four steps, refuse with codes
0x30 and 0x31. The end of a flash write leads to configured; one that succeeds leaves the image of the host on the four
erased devices, one that fails no valid MAGIC (log entry 142). The digest of the manifest stands once its signature has
verified. A loaded reserve die holds the segments of its logical die (said of an image of one CORE_DATA segment), its
configured pages are locked, and its eight logical cores await their rejoins, until which it stays unbound; with no other
load awaited, tasks are dispatched again. (14_image_and_vault.md R366; 14_image_and_vault.md R367; 14_image_and_vault.md
R368; 14_image_and_vault.md R369; 14_image_and_vault.md R370; 15_audit_and_ledger.md R397) -/
def Obligations.ImageLoads : Prop :=
  ∀ s : State,
    let live := 1 ≤ s.imgState ∧ s.imgState ≤ 4
    let begun := fun (u : State) (host : Bool) => u.imgState = 1 ∧ u.boot.power = .loading ∧ u.keeper.source = host ∧
      u.boot.loadStart = s.boot.time ∧ u.pacer.entries = []
    (s.keeper.started = true → s.boot.idle = true → s.loadRunning = false → s.disarmed = true → s.tooHot = false →
      Yields .reload s fun u => begun u false) ∧
    (s.keeper.started = true → s.boot.idle = true → s.loadRunning = true → Yields .reload s fun u =>
      bit (u.reg keeperDA pgImg 0x014) 1 = true ∧ u.boot = s.boot ∧ u.keeper = s.keeper) ∧
    (s.host.mailbox = some 2 → s.loadRunning = false → s.disarmed = true → s.tooHot = false →
      (s.mbxWord 0 + 2 ^ 32 * s.mbxWord 1) % 4096 = 0 → s.mbxWord 3 < 2 → Yields .recoveryLoad s fun u => begun u true ∧
        u.keeper.hostAddr = s.mbxWord 0 + 2 ^ 32 * s.mbxWord 1 ∧ u.keeper.writeFlash = bit (s.mbxWord 3) 0) ∧
    (∀ short, s.imgState = 1 → s.deadPll = none →
      (s.stepExpired = false → s.passOneErr short = none → Yields (.loadStep short) s fun u => u.imgState = 2) ∧
      (∀ c i, s.stepExpired = false → s.passOneErr short = some (c, i) → Yields (.loadStep short) s fun u => u.imgState = 7 ∧
        u.reg keeperDA pgImg 0x048 = (c + i * 256) % 2 ^ 32 ∧ bit (u.reg keeperDA pgImg 0x014) 0 = true ∧
        (s.signedErr short = none → u.keeper.manifestDigest = s.signedDigest))) ∧
    (∀ short, s.imgState = 2 → s.stepExpired = false → Yields (.loadStep short) s fun u => (u.imgState = 3 ∧ u.net.startRoutes = false) ∨ u.imgState = 7) ∧
    (∀ short, s.imgState = 3 → s.stepExpired = false →
      (s.channelsAt 1 ≠ [] → Yields (.loadStep short) s fun u => u.imgState = 3 ∧ u.channelsAt 1 = []) ∧
      (s.channelsAt 1 = [] → s.channelsAt 2 ≠ [] → Yields (.loadStep short) s fun u => u.imgState = 3 ∧
        u.channelsAt 3 = (List.range 12).filter fun ch => (s.chan ch).step == 2 || (s.chan ch).step == 3) ∧
      (s.channelsAt 1 = [] → s.channelsAt 2 = [] → Yields (.loadStep short) s fun u => u.imgState = 4 ∨ u.imgState = 7)) ∧
    (∀ short, s.imgState = 4 → s.stepExpired = false → Yields (.loadStep short) s fun u =>
      ((u.imgState = 5 ∨ u.imgState = 8) ∧ u.boot.power = .configured) ∨ u.imgState = 7) ∧
    (∀ short, s.imgState = 7 → Yields (.loadStep short) s fun u => u.imgState = 6 ∧ u.boot.power = .refused ∧ u.keeper.configured = []) ∧
    (s.stepExpired = true → Yields .loadStepTimeout s fun u => u.imgState = 7 ∧ u.reg keeperDA pgImg 0x048 = 0x30) ∧
    (live → Yields .imgAbort s fun u => u.imgState = 7 ∧ u.reg keeperDA pgImg 0x048 = 0x31 ∧
      bit (u.reg keeperDA pgImg 0x014) 3 = true) ∧
    (s.stepExpired = false → Yields .loadStepTimeout s fun u => u = s) ∧ (¬ live → Yields .imgAbort s fun u => u = s) ∧
    (∀ ok, s.imgState = 8 → Yields (.flashWriteDone ok) s fun u => u.imgState = 5) ∧
    (s.imgState = 8 → s.writeImage.readsBack = true → s.keeper.source = true → s.keeper.lenUnits ≤ 393216 →
      s.keeper.hostAddr + 4096 * s.keeper.lenUnits ≤ 2 ^ 64 → Yields (.flashWriteDone true) s fun u =>
        (∀ a, a < 4096 * s.keeper.lenUnits → u.byte .flash (flashPlace a).1 (flashPlace a).2 = s.byte .host 0 (s.keeper.hostAddr + a)) ∧
        ∀ d a, d < 4 → 1024 * s.keeper.lenUnits ≤ a → a < 2 ^ 29 → u.byte .flash d a = memDefault) ∧
    (∀ ok, s.imgState = 8 → ok = false ∨ s.writeImage.readsBack = false → Yields (.flashWriteDone ok) s fun u =>
      u.byte .flash 0 0 ≠ 0x4B) ∧
    (∀ l r, (s.keeper.reserveLoads.find? fun x => x.1 == l) = some (l, r) → s.place.unjoined.contains (16 * l) = false →
      Yields (.reserveLoad l) s fun u => (∀ k, k < 8 → u.place.unjoined.contains (16 * l + k) = true) ∧ u.physDie l = none ∧
        ((∀ x ∈ s.keeper.reserveLoads, x.1 = l ∨ s.place.unjoined.contains (16 * x.1) = true) → u.awaitsReserve = false) ∧
        (∀ k ∈ s.keeper.configured, k < 2 ^ 16 → k / 256 = tileDA r → bit (u.reg (tileDA r) (k % 256) 0x00C) 2 = true) ∧
        (∀ (g : SegEnt) (p : List Byte) (c : Nat), l < 56 → r < 60 → s.keeper.segs = [g] → g.typ = 5 → g.dakind = false → g.die = l →
          g.unit < 8 → s.place.coreOf r g.unit = some c → g.dest % 32 = 0 → g.dest + p.length ≤ 2 ^ 20 →
          s.payload 0 (s.stored g) = some p → u.bytesAt .core (coreKey r c) g.dest p.length = p))

/-- KEY_5A, KEY_A5, FUSE_PROGRAM_DONE and ATTESTATION_REPORT. KEY 0x5A opens a sequence and clears the status, unless fuses
are being blown. KEY 0xA5 within 1,000 us of it, with the conditions met, begins to blow the word; otherwise nothing is
blown and REFUSED is set. A blown word reads back with every bit asked for (DONE), every other fuse as it was unless RMA
destroys the secrets, or sets FAIL; RMA destroys them also where the failed command has set it (log entry 233). The
mailbox's attestation writes the 512 bytes of the report to the host address and ends the command. (14_image_and_vault.md
R373; 14_image_and_vault.md R375) -/
def Obligations.VaultCommands : Prop :=
  ∀ s : State,
    let word := s.reg keeperDA pgVlt 0x054 % 2 ^ 8
    let v := s.reg keeperDA pgVlt 0x058
    let status := fun (u : State) => u.reg keeperDA pgVlt 0x060
    (s.keeper.started = true →
      ((∀ w x, s.keeper.vlt ≠ .blowing w x) → Yields .key5a s fun u => u.keeper = { s.keeper with vlt := .opened s.boot.time } ∧ status u = 0) ∧
      (∀ w x, s.keeper.vlt = .blowing w x → Yields .key5a s fun u => u.keeper = s.keeper ∧ bit (status u) 2 = true) ∧
      (∀ t us, s.keeper.vlt = .opened t →
        (us ≤ 1000 → s.boot.time ≤ t + 1400000 → s.progOk word v = true → Yields (.keyA5 us) s fun u =>
          u.keeper = { s.keeper with vlt := .blowing word (BitVec.ofNat 32 v) } ∧ status u = 1) ∧
        (1000 < us ∨ t + 1400000 < s.boot.time ∨ s.progOk word v = false → Yields (.keyA5 us) s fun u =>
          u.keeper = { s.keeper with vlt := .idle } ∧ status u = 4 ∧ bit (u.reg keeperDA pgVlt 0x014) 0 = true))) ∧
    (∀ w x, s.keeper.vlt = .blowing w x →
      (Yields (.fuseProgramDone true) s fun u => u.keeper.vlt = .idle ∧ status u = 2 ∧
        (∀ i, bit x.toNat i = true → bit (u.fuse w) i = true) ∧
        (bit x.toNat 1 = false ∨ w ≠ 4 → bit (s.fuse 4) 1 = false → u.fuse w = s.fuse w ||| x.toNat ∧
          ∀ w', w' ≠ w → u.fuse w' = s.fuse w') ∧
        (w = 4 → bit x.toNat 1 = true → ∀ i, 56 ≤ i → i < 72 → u.fuse i = 2 ^ 32 - 1)) ∧
      (x ≠ 0 → Yields (.fuseProgramDone false) s fun u => u.keeper.vlt = .idle ∧ status u = 8 ∧
        bit (u.reg keeperDA pgVlt 0x014) 1 = true ∧
        (∀ w', w' ≠ w → w' < 56 ∨ 72 ≤ w' ∨ bit (u.fuse 4) 1 = false → u.fuse w' = s.fuse w') ∧
        (bit (u.fuse 4) 1 = true → ∀ i, 56 ≤ i → i < 72 → u.fuse i = 2 ^ 32 - 1))) ∧
    (s.host.mailbox = some 1 → Yields .attestationReport s fun u =>
      u.bytesAt .host 0 (s.mbxWord 0 + 2 ^ 32 * s.mbxWord 1) 512 = s.attestReport ∧ u.host.mailbox = none)

/-- No other command changes a byte of a store. Every command but those of mayStore (Safety.lean names them), in every state:
where it answers a next state, every byte of every store (core, coefficient, instruction, descriptor and die stores, DRAM,
host memory, flash) reads as before. (95_what_each_step_holds.md; 06_core_sequencer.md R133; 03_matrix_quads.md R477) -/
def Obligations.StoresFrame : Prop :=
  ∀ (i : Instr) (s t : State), exec i s = .next t → mayStore i = false → ∀ sp unit a, t.byte sp unit a = s.byte sp unit a

/-- Only its own commands change a unit. Every command but those of mayReset (tick edges, register accesses, loads, shutdowns,
loss of power), in every state: clearing verdicts, tallies, clearing entries, sigma-delta channels, encoders, Ethernet
ports, PWM generators, output groups, escrow, memory channels, Tellers, fabric queues, regions, their logic, ports and
stop-source cells, and the power state change only by the commands that each line names; and requests join the memory
dies' ports by no other command. (95_what_each_step_holds.md; opcode_table.json) -/
def Obligations.UnitsFrame : Prop :=
  ∀ (i : Instr) (s t : State), exec i s = .next t → mayReset i = false →
    (match i with
      | .verdict .. => True
      | _ => t.verdicts = s.verdicts) ∧
    (match i with
      | .barrier .. | .arr .. => True
      | _ => t.tallies = s.tallies) ∧
    (match i with
      | .clear .. | .restartStrobe .. | .digest .. | .escrowCommit .. => True
      | _ => t.clearings = s.clearings) ∧
    (match i with
      | .sample .. | .filterOutput .. | .comparatorOutput .. => True
      | _ => t.sds = s.sds) ∧
    (match i with
      | .sample .. | .encoderTrigger .. | .encoderReadDone .. => True
      | _ => t.encs = s.encs) ∧
    (match i with
      | .rxFrame .. | .txPoll .. | .txDone .. | .gateInterval .. | .rdr .. | .wrr .. | .timeout .. => True
      | _ => t.eths = s.eths) ∧
    (match i with
      | .recordApply .. | .updatePoint .. | .pwmEdge .. | .sgReset .. | .sgForce .. => True
      | _ => t.gens = s.gens) ∧
    (match i with
      | .release .. | .restartStrobe .. | .recordApply .. | .rdr .. | .wrr .. | .timeout .. => True
      | _ => t.outs = s.outs) ∧
    (match i with
      | .arm .. | .faultReport .. | .restoreAck .. | .escrowCommit .. | .auditSampleDone .. => True
      | _ => t.escrow = s.escrow) ∧
    (match i with
      | .dramCommit .. | .requestAged .. | .refreshDue .. | .refreshStart .. | .neighbourRefresh ..
      | .activateTableClear .. | .ovdRaise .. | .overdraftEnd .. | .overdraftGrant .. | .overdraftExpiry ..
      | .alert .. | .replay .. | .patrolScrub .. | .moduleTemperature .. => True
      | _ => t.chans = s.chans) ∧
    (match i with
      | .release .. | .rdr .. | .wrr .. | .timeout .. | .streamRequest .. | .tokenRefill ..
      | .dmaDescriptor .. | .rxFrame .. | .txPoll .. | .txDone .. | .initiatorRequest .. => True
      | _ => t.tellers = s.tellers) ∧
    (match i with
      | .fabLoad .. | .fabUnload .. | .variantVerified .. | .drainEnd .. | .loadTimeout .. | .releaseWait ..
      | .configScrub .. => True
      | _ => t.fabs = s.fabs) ∧
    (match i with
      | .fabLoad .. | .fabUnload .. | .variantVerified .. | .drainEnd .. | .loadingDone .. | .loadTimeout .. | .releaseWait ..
      | .configScrub .. | .sample .. | .recordApply .. | .sig .. => True
      | _ => t.regions = s.regions) ∧
    (match i with
      | .loadingDone .. | .blockMemoryRead .. => True
      | _ => t.logic = s.logic) ∧
    (match i with
      | .rdr .. | .wrr .. | .timeout .. | .drainEnd .. | .portLate .. | .initiatorRequest .. | .portResponse .. => True
      | _ => t.fports = s.fports) ∧
    (match i with
      | .stopSource .. | .stopSourceRelease .. | .releaseWait .. | .loadTimeout .. => True
      | _ => t.trips = s.trips) ∧
    (match i with
      | .flr .. | .linkDown .. | .d3hot .. | .perst .. | .imgAbort .. | .loadStepTimeout .. | .flashWriteDone .. => True
      | _ => t.boot = s.boot) ∧
    t.memIn = s.memIn
end

