-- ==== Sys2Proof/Laws/Table.lean ====
section
/-! SUPPORT. What reading a sparse table gives after a write, and that writes keep the rising order of its keys. -/

namespace Sys2Proof.Machine

variable {α : Type}

theorem tget?_tput_self (t : Table α) (k : Nat) (v : α) : tget? (tput t k v) k = some v := by
  induction t with
  | nil => simp [tput, tget?]
  | cons x r ih =>
    obtain ⟨j, w⟩ := x
    by_cases h : k < j
    · simp [tput, h, tget?]
    · by_cases e : k = j
      · simp [tput, e, tget?]
      · simp [tput, h, e, tget?, Ne.symm e, ih]

theorem tget?_tput_ne (t : Table α) (k i : Nat) (v : α) (h : i ≠ k) : tget? (tput t k v) i = tget? t i := by
  induction t with
  | nil => simp [tput, tget?, Ne.symm h]
  | cons x r ih =>
    obtain ⟨j, w⟩ := x
    by_cases l : k < j
    · simp [tput, l, tget?, Ne.symm h]
    · by_cases e : k = j
      · subst e; simp [tput, tget?, Ne.symm h]
      · simp [tput, l, e, tget?, ih]

theorem tget?_tdel_self (t : Table α) (k : Nat) : tget? (tdel t k) k = none := by
  induction t with
  | nil => rfl
  | cons x r ih =>
    obtain ⟨j, w⟩ := x
    by_cases e : j = k
    · simpa [tdel, e] using ih
    · simpa [tdel, e, tget?] using ih

theorem tget?_tdel_ne (t : Table α) (k i : Nat) (h : i ≠ k) : tget? (tdel t k) i = tget? t i := by
  induction t with
  | nil => rfl
  | cons x r ih =>
    obtain ⟨j, w⟩ := x
    by_cases e : j = k
    · subst e; simpa [tdel, tget?, Ne.symm h] using ih
    · by_cases f : j = i
      · subst f; simp [tdel, tget?, e]
      · simpa [tdel, tget?, e, f] using ih

@[simp] theorem tget_tput_self (t : Table α) (k : Nat) (v d : α) : tget (tput t k v) k d = v := by
  simp [tget, tget?_tput_self]

theorem tget_tput_ne (t : Table α) (k i : Nat) (v d : α) (h : i ≠ k) : tget (tput t k v) i d = tget t i d := by
  simp [tget, tget?_tput_ne t k i v h]

theorem tget_tput (t : Table α) (k i : Nat) (v d : α) : tget (tput t k v) i d = if i = k then v else tget t i d := by
  by_cases h : i = k
  · simp [h]
  · simp [h, tget_tput_ne]

@[simp] theorem tget_tputD_self [DecidableEq α] (t : Table α) (k : Nat) (v d : α) : tget (tputD d t k v) k d = v := by
  unfold tputD
  split
  · simp [tget, tget?_tdel_self, *]
  · simp

theorem tget_tputD_ne [DecidableEq α] (t : Table α) (k i : Nat) (v d e : α) (h : i ≠ k) :
    tget (tputD d t k v) i e = tget t i e := by
  unfold tputD
  split
  · simp [tget, tget?_tdel_ne t k i h]
  · exact tget_tput_ne t k i v e h

/-! ### Order of the keys -/

theorem tsorted_iff (t : Table α) : tsorted t = true ↔ t.Pairwise fun x y => x.1 < y.1 := by
  induction t with
  | nil => simp [tsorted]
  | cons x r ih =>
    cases r with
    | nil => simp [tsorted]
    | cons y r =>
      simp only [tsorted, Bool.and_eq_true, decide_eq_true_eq, ih, List.pairwise_cons]
      constructor
      · rintro ⟨h, h1, h2⟩
        refine ⟨fun z hz => ?_, h1, h2⟩
        rcases List.mem_cons.mp hz with rfl | hz
        · exact h
        · exact Nat.lt_trans h (h1 z hz)
      · rintro ⟨h, h1, h2⟩
        exact ⟨h y (by simp), h1, h2⟩

theorem mem_tput (t : Table α) (k : Nat) (v : α) (x : Nat × α) (h : x ∈ tput t k v) : x = (k, v) ∨ x ∈ t := by
  induction t with
  | nil => simpa [tput] using h
  | cons y r ih =>
    obtain ⟨j, w⟩ := y
    by_cases l : k < j
    · simpa [tput, l] using h
    · by_cases e : k = j
      · subst e
        simp only [tput, Nat.lt_irrefl, ite_true, ite_false, List.mem_cons] at h
        rcases h with h | h
        · exact .inl (by simpa using h)
        · exact .inr (by simp [h])
      · simp only [tput, l, e, ite_false, List.mem_cons] at h
        rcases h with h | h
        · exact .inr (by simp [h])
        · rcases ih h with h | h
          · exact .inl h
          · exact .inr (by simp [h])

theorem tsorted_tput (t : Table α) (k : Nat) (v : α) (h : tsorted t = true) : tsorted (tput t k v) = true := by
  rw [tsorted_iff] at *
  induction t with
  | nil => simp [tput]
  | cons y r ih =>
    obtain ⟨j, w⟩ := y
    obtain ⟨h1, h2⟩ := List.pairwise_cons.mp h
    by_cases l : k < j
    · simp only [tput, l, ite_true]
      refine List.pairwise_cons.mpr ⟨fun z hz => ?_, h⟩
      rcases List.mem_cons.mp hz with rfl | hz
      · exact l
      · exact Nat.lt_trans l (h1 z hz)
    · by_cases e : k = j
      · subst e
        simpa [tput] using List.pairwise_cons.mpr ⟨h1, h2⟩
      · simp only [tput, l, e, ite_false]
        refine List.pairwise_cons.mpr ⟨fun z hz => ?_, ih h2⟩
        rcases mem_tput r k v z hz with rfl | hz
        · show j < k
          omega
        · exact h1 z hz

theorem tsorted_filter (t : Table α) (p : Nat × α → Bool) (h : tsorted t = true) : tsorted (t.filter p) = true := by
  rw [tsorted_iff] at *
  exact h.filter p

theorem tsorted_tputD [DecidableEq α] (d : α) (t : Table α) (k : Nat) (v : α) (h : tsorted t = true) :
    tsorted (tputD d t k v) = true := by
  unfold tputD
  split
  · exact tsorted_filter t _ h
  · exact tsorted_tput t k v h

end Sys2Proof.Machine
end

