-- ==== Sys2Proof/Laws/Memory.lean ====
section
/-! SUPPORT. The memory: what a byte reads as after a write, and that every write keeps the canonical form. -/

namespace Sys2Proof.Machine

open Host (Cell)

/-! ### One byte -/

@[simp] theorem memGet_memPut_self (m : List Cell) (a : Nat) (b : Byte) : memGet (memPut m a b) a = b := by
  simp [memGet, memPut]

theorem memGet_memPut_ne (m : List Cell) (a k : Nat) (b : Byte) (h : k ≠ a) : memGet (memPut m a b) k = memGet m k := by
  simp [memGet, memPut, tget_tputD_ne m a k b memDefault memDefault h]

theorem wf_iff (m : List Cell) : Memory.wf m = true ↔ tsorted m = true ∧ ∀ c ∈ m, c.2 ≠ memDefault := by
  simp [Memory.wf]

theorem memPut_wf (m : List Cell) (a : Nat) (b : Byte) (h : Memory.wf m = true) : Memory.wf (memPut m a b) = true := by
  rw [wf_iff] at *
  refine ⟨tsorted_tputD _ m a b h.1, fun c hc => ?_⟩
  unfold memPut tputD at hc
  split at hc
  · exact h.2 c (List.mem_filter.mp hc).1
  · rcases mem_tput m a b c hc with rfl | hc
    · assumption
    · exact h.2 c hc

theorem filter_wf (m : List Cell) (p : Cell → Bool) (h : Memory.wf m = true) : Memory.wf (m.filter p) = true := by
  rw [wf_iff] at *
  exact ⟨tsorted_filter m p h.1, fun c hc => h.2 c (List.mem_filter.mp hc).1⟩

/-! ### Runs of bytes -/

theorem memPutAll_wf (m : List Cell) (a : Nat) (bs : List (Option Byte)) (h : Memory.wf m = true) :
    Memory.wf (memPutAll m a bs) = true := by
  induction bs generalizing m a with
  | nil => exact h
  | cons b r ih =>
    cases b with
    | none => exact ih m (a + 1) h
    | some b => exact ih _ (a + 1) (memPut_wf m a b h)

/-- A byte outside the run reads as before. -/
theorem memGet_memPutAll_out (m : List Cell) (a k : Nat) (bs : List (Option Byte)) (h : k < a ∨ a + bs.length ≤ k) :
    memGet (memPutAll m a bs) k = memGet m k := by
  induction bs generalizing m a with
  | nil => rfl
  | cons b r ih =>
    simp only [List.length_cons] at h
    cases b with
    | none => exact ih m (a + 1) (by omega)
    | some b =>
      show memGet (memPutAll (memPut m a b) (a + 1) r) k = _
      rw [ih _ _ (by omega), memGet_memPut_ne m a k b (by omega)]

/-- A byte of the run reads as written, where it was enabled. -/
theorem memGet_memPutAll_in (m : List Cell) (a i : Nat) (bs : List (Option Byte)) (b : Byte) (h : bs[i]? = some (some b)) :
    memGet (memPutAll m a bs) (a + i) = b := by
  induction bs generalizing m a i with
  | nil => simp at h
  | cons x r ih =>
    cases i with
    | zero =>
      simp only [List.getElem?_cons_zero, Option.some.injEq] at h
      subst h
      show memGet (memPutAll (memPut m a b) (a + 1) r) (a + 0) = b
      rw [memGet_memPutAll_out _ _ _ _ (by omega)]
      exact memGet_memPut_self m a b
    | succ i =>
      simp only [List.getElem?_cons_succ] at h
      cases x with
      | none =>
        show memGet (memPutAll m (a + 1) r) (a + (i + 1)) = b
        rw [← ih m (a + 1) i h]; congr 1; omega
      | some x =>
        show memGet (memPutAll (memPut m a x) (a + 1) r) (a + (i + 1)) = b
        rw [← ih (memPut m a x) (a + 1) i h]; congr 1; omega

/-! ### Writes to a store -/

/-- What taking an old granule into a capture leaves: only the die units change. -/
theorem captureOld_frame (s : State) (sp : Sp) (unit a : Nat) :
    ∃ u, s.captureOld sp unit a = { s with tiles := u } := by
  unfold State.captureOld State.setTile
  dsimp only
  cases sp <;> dsimp only
  all_goals (repeat' split)
  all_goals first | exact ⟨s.tiles, rfl⟩ | exact ⟨_, rfl⟩

theorem captureOld_mem (s : State) (sp : Sp) (unit a : Nat) : (s.captureOld sp unit a).mem = s.mem := by
  obtain ⟨u, h⟩ := captureOld_frame s sp unit a
  rw [h]

/-- What noting a write in a run digest leaves: only the die units change. -/
theorem noteRun_frame (s : State) (t c cls space die port a : Nat) (bs : List (Option Byte)) (ps : List Bool) :
    ∃ u, s.noteRun t c cls space die port a bs ps = { s with tiles := u } := by
  unfold State.noteRun
  split
  · split
    · exact ⟨_, rfl⟩
    · exact ⟨s.tiles, rfl⟩
  · exact ⟨s.tiles, rfl⟩

theorem writeGran_mem (s : State) (sp : Sp) (unit a : Nat) (bs : List (Option Byte)) (p : Bool) :
    (s.writeGran sp unit a bs p).mem = s.mem ∨ (s.writeGran sp unit a bs p).mem = memPutAll s.mem (gAddr sp unit a) bs := by
  unfold State.writeGran
  split
  · exact .inl rfl
  · exact .inr (by simp [captureOld_mem])

theorem writeGran_wf (s : State) (sp : Sp) (unit a : Nat) (bs : List (Option Byte)) (p : Bool)
    (h : Memory.wf s.mem = true) : Memory.wf (s.writeGran sp unit a bs p).mem = true := by
  rcases writeGran_mem s sp unit a bs p with e | e <;> rw [e]
  · exact h
  · exact memPutAll_wf _ _ _ h

theorem writePieces_wf (n : Nat) (s : State) (sp : Sp) (unit a : Nat) (bs : List (Option Byte)) (ps : List Bool)
    (h : Memory.wf s.mem = true) : Memory.wf (s.writePieces sp unit n a bs ps).mem = true := by
  induction n generalizing s a bs ps with
  | zero => exact h
  | succ n ih => exact ih _ _ _ _ (writeGran_wf s sp unit a _ _ h)

theorem write_wf (s : State) (sp : Sp) (unit a : Nat) (bs : List (Option Byte)) (ps : List Bool)
    (h : Memory.wf s.mem = true) : Memory.wf (s.write sp unit a bs ps).mem = true :=
  writePieces_wf _ s sp unit a bs ps h

theorem writeAll_wf (s : State) (sp : Sp) (unit a : Nat) (bs : List Byte) (p : Bool)
    (h : Memory.wf s.mem = true) : Memory.wf (s.writeAll sp unit a bs p).mem = true :=
  write_wf s sp unit a _ _ h

/-- A write of a run of a class is a write of its core store, but for the die units. -/
theorem writeRun_frame (s : State) (t c cls a : Nat) (bs : List Byte) (p : Bool) :
    ∃ u, s.writeRun t c cls a bs p = { s.writeAll .core (coreKey t c) a bs p with tiles := u } := by
  unfold State.writeRun
  exact noteRun_frame ..

theorem writeRun_wf (s : State) (t c cls a : Nat) (bs : List Byte) (p : Bool) (h : Memory.wf s.mem = true) :
    Memory.wf (s.writeRun t c cls a bs p).mem = true := by
  obtain ⟨u, e⟩ := writeRun_frame s t c cls a bs p
  rw [e]
  exact writeAll_wf s .core (coreKey t c) a bs p h

/-- A write changes no byte of the memory outside its run. -/
theorem writePieces_out (n : Nat) (s : State) (sp : Sp) (unit a : Nat) (bs : List (Option Byte)) (ps : List Bool) (k : Nat)
    (h : k < gAddr sp unit a ∨ gAddr sp unit a + bs.length ≤ k) :
    memGet (s.writePieces sp unit n a bs ps).mem k = memGet s.mem k := by
  induction n generalizing s a bs ps with
  | zero => rfl
  | succ n ih =>
    have g : ∀ d, gAddr sp unit (a + d) = gAddr sp unit a + d := fun d => by simp [gAddr]; omega
    show memGet ((s.writeGran sp unit a (bs.take (32 - a % 32)) (ps.headD false)).writePieces sp unit n _ _ _).mem k = _
    have hd : (bs.take (32 - a % 32)).length + (bs.drop (32 - a % 32)).length = bs.length := by
      rw [← List.length_append, List.take_append_drop]
    have ht : (bs.take (32 - a % 32)).length = min (32 - a % 32) bs.length := List.length_take
    by_cases e : bs.drop (32 - a % 32) = []
    · rw [ih _ _ _ _ (by rw [e, g]; simp only [List.length_nil]; omega)]
      rcases writeGran_mem s sp unit a (bs.take (32 - a % 32)) (ps.headD false) with e | e <;> rw [e]
      exact memGet_memPutAll_out _ _ _ _ (by omega)
    · rw [ih _ _ _ _ (by rw [g]; omega)]
      rcases writeGran_mem s sp unit a (bs.take (32 - a % 32)) (ps.headD false) with e | e <;> rw [e]
      exact memGet_memPutAll_out _ _ _ _ (by omega)

theorem write_out (s : State) (sp : Sp) (unit a : Nat) (bs : List (Option Byte)) (ps : List Bool) (k : Nat)
    (h : k < gAddr sp unit a ∨ gAddr sp unit a + bs.length ≤ k) :
    memGet (s.write sp unit a bs ps).mem k = memGet s.mem k :=
  writePieces_out _ s sp unit a bs ps k h

/-- The memory at reset lists nothing. -/
theorem reset_wf : Memory.wf State.reset.mem = true := rfl

end Sys2Proof.Machine
end

