-- ==== Sys2Proof/Laws/State.lean ====
section
/-! SUPPORT. What each update of the state leaves in each field: one lemma per field per update. -/

namespace Sys2Proof.Machine

variable (s : State)

/-! ### State.setCore -/

@[simp] theorem State.setCore_regs (t c : Nat) (v : Core) : (s.setCore t c v).regs = s.regs := rfl
@[simp] theorem State.setCore_mem (t c : Nat) (v : Core) : (s.setCore t c v).mem = s.mem := rfl
@[simp] theorem State.setCore_poison (t c : Nat) (v : Core) : (s.setCore t c v).poison = s.poison := rfl
@[simp] theorem State.setCore_zeroTags (t c : Nat) (v : Core) : (s.setCore t c v).zeroTags = s.zeroTags := rfl
@[simp] theorem State.setCore_cores (t c : Nat) (v : Core) :
    (s.setCore t c v).cores = tput s.cores (coreKey t c) v := rfl
@[simp] theorem State.setCore_tallies (t c : Nat) (v : Core) : (s.setCore t c v).tallies = s.tallies := rfl
@[simp] theorem State.setCore_tellers (t c : Nat) (v : Core) : (s.setCore t c v).tellers = s.tellers := rfl
@[simp] theorem State.setCore_escrow (t c : Nat) (v : Core) : (s.setCore t c v).escrow = s.escrow := rfl
@[simp] theorem State.setCore_clearings (t c : Nat) (v : Core) : (s.setCore t c v).clearings = s.clearings := rfl
@[simp] theorem State.setCore_tiles (t c : Nat) (v : Core) : (s.setCore t c v).tiles = s.tiles := rfl
@[simp] theorem State.setCore_net (t c : Nat) (v : Core) : (s.setCore t c v).net = s.net := rfl
@[simp] theorem State.setCore_chans (t c : Nat) (v : Core) : (s.setCore t c v).chans = s.chans := rfl
@[simp] theorem State.setCore_memIn (t c : Nat) (v : Core) : (s.setCore t c v).memIn = s.memIn := rfl
@[simp] theorem State.setCore_regions (t c : Nat) (v : Core) : (s.setCore t c v).regions = s.regions := rfl
@[simp] theorem State.setCore_logic (t c : Nat) (v : Core) : (s.setCore t c v).logic = s.logic := rfl
@[simp] theorem State.setCore_fports (t c : Nat) (v : Core) : (s.setCore t c v).fports = s.fports := rfl
@[simp] theorem State.setCore_trips (t c : Nat) (v : Core) : (s.setCore t c v).trips = s.trips := rfl
@[simp] theorem State.setCore_fabs (t c : Nat) (v : Core) : (s.setCore t c v).fabs = s.fabs := rfl
@[simp] theorem State.setCore_edges (t c : Nat) (v : Core) : (s.setCore t c v).edges = s.edges := rfl
@[simp] theorem State.setCore_sds (t c : Nat) (v : Core) : (s.setCore t c v).sds = s.sds := rfl
@[simp] theorem State.setCore_gens (t c : Nat) (v : Core) : (s.setCore t c v).gens = s.gens := rfl
@[simp] theorem State.setCore_outs (t c : Nat) (v : Core) : (s.setCore t c v).outs = s.outs := rfl
@[simp] theorem State.setCore_verdicts (t c : Nat) (v : Core) : (s.setCore t c v).verdicts = s.verdicts := rfl
@[simp] theorem State.setCore_encs (t c : Nat) (v : Core) : (s.setCore t c v).encs = s.encs := rfl
@[simp] theorem State.setCore_lanes (t c : Nat) (v : Core) : (s.setCore t c v).lanes = s.lanes := rfl
@[simp] theorem State.setCore_host (t c : Nat) (v : Core) : (s.setCore t c v).host = s.host := rfl
@[simp] theorem State.setCore_eths (t c : Nat) (v : Core) : (s.setCore t c v).eths = s.eths := rfl
@[simp] theorem State.setCore_keeper (t c : Nat) (v : Core) : (s.setCore t c v).keeper = s.keeper := rfl
@[simp] theorem State.setCore_pacer (t c : Nat) (v : Core) : (s.setCore t c v).pacer = s.pacer := rfl
@[simp] theorem State.setCore_mint (t c : Nat) (v : Core) : (s.setCore t c v).mint = s.mint := rfl
@[simp] theorem State.setCore_boot (t c : Nat) (v : Core) : (s.setCore t c v).boot = s.boot := rfl
@[simp] theorem State.setCore_freshAt (t c : Nat) (v : Core) : (s.setCore t c v).freshAt = s.freshAt := rfl
@[simp] theorem State.setCore_fresh (t c : Nat) (v : Core) : (s.setCore t c v).fresh = s.fresh := rfl
@[simp] theorem State.setCore_free (t c : Nat) (v : Core) : (s.setCore t c v).free = s.free := rfl
@[simp] theorem State.setCore_pending (t c : Nat) (v : Core) : (s.setCore t c v).pending = s.pending := rfl

/-! ### State.setTile -/

@[simp] theorem State.setTile_regs (t : Nat) (v : TileUnit) : (s.setTile t v).regs = s.regs := rfl
@[simp] theorem State.setTile_mem (t : Nat) (v : TileUnit) : (s.setTile t v).mem = s.mem := rfl
@[simp] theorem State.setTile_poison (t : Nat) (v : TileUnit) : (s.setTile t v).poison = s.poison := rfl
@[simp] theorem State.setTile_zeroTags (t : Nat) (v : TileUnit) : (s.setTile t v).zeroTags = s.zeroTags := rfl
@[simp] theorem State.setTile_cores (t : Nat) (v : TileUnit) : (s.setTile t v).cores = s.cores := rfl
@[simp] theorem State.setTile_tallies (t : Nat) (v : TileUnit) : (s.setTile t v).tallies = s.tallies := rfl
@[simp] theorem State.setTile_tellers (t : Nat) (v : TileUnit) : (s.setTile t v).tellers = s.tellers := rfl
@[simp] theorem State.setTile_escrow (t : Nat) (v : TileUnit) : (s.setTile t v).escrow = s.escrow := rfl
@[simp] theorem State.setTile_clearings (t : Nat) (v : TileUnit) : (s.setTile t v).clearings = s.clearings := rfl
@[simp] theorem State.setTile_tiles (t : Nat) (v : TileUnit) : (s.setTile t v).tiles = tput s.tiles t v := rfl
@[simp] theorem State.setTile_net (t : Nat) (v : TileUnit) : (s.setTile t v).net = s.net := rfl
@[simp] theorem State.setTile_chans (t : Nat) (v : TileUnit) : (s.setTile t v).chans = s.chans := rfl
@[simp] theorem State.setTile_memIn (t : Nat) (v : TileUnit) : (s.setTile t v).memIn = s.memIn := rfl
@[simp] theorem State.setTile_regions (t : Nat) (v : TileUnit) : (s.setTile t v).regions = s.regions := rfl
@[simp] theorem State.setTile_logic (t : Nat) (v : TileUnit) : (s.setTile t v).logic = s.logic := rfl
@[simp] theorem State.setTile_fports (t : Nat) (v : TileUnit) : (s.setTile t v).fports = s.fports := rfl
@[simp] theorem State.setTile_trips (t : Nat) (v : TileUnit) : (s.setTile t v).trips = s.trips := rfl
@[simp] theorem State.setTile_fabs (t : Nat) (v : TileUnit) : (s.setTile t v).fabs = s.fabs := rfl
@[simp] theorem State.setTile_edges (t : Nat) (v : TileUnit) : (s.setTile t v).edges = s.edges := rfl
@[simp] theorem State.setTile_sds (t : Nat) (v : TileUnit) : (s.setTile t v).sds = s.sds := rfl
@[simp] theorem State.setTile_gens (t : Nat) (v : TileUnit) : (s.setTile t v).gens = s.gens := rfl
@[simp] theorem State.setTile_outs (t : Nat) (v : TileUnit) : (s.setTile t v).outs = s.outs := rfl
@[simp] theorem State.setTile_verdicts (t : Nat) (v : TileUnit) : (s.setTile t v).verdicts = s.verdicts := rfl
@[simp] theorem State.setTile_encs (t : Nat) (v : TileUnit) : (s.setTile t v).encs = s.encs := rfl
@[simp] theorem State.setTile_lanes (t : Nat) (v : TileUnit) : (s.setTile t v).lanes = s.lanes := rfl
@[simp] theorem State.setTile_host (t : Nat) (v : TileUnit) : (s.setTile t v).host = s.host := rfl
@[simp] theorem State.setTile_eths (t : Nat) (v : TileUnit) : (s.setTile t v).eths = s.eths := rfl
@[simp] theorem State.setTile_keeper (t : Nat) (v : TileUnit) : (s.setTile t v).keeper = s.keeper := rfl
@[simp] theorem State.setTile_pacer (t : Nat) (v : TileUnit) : (s.setTile t v).pacer = s.pacer := rfl
@[simp] theorem State.setTile_mint (t : Nat) (v : TileUnit) : (s.setTile t v).mint = s.mint := rfl
@[simp] theorem State.setTile_boot (t : Nat) (v : TileUnit) : (s.setTile t v).boot = s.boot := rfl
@[simp] theorem State.setTile_freshAt (t : Nat) (v : TileUnit) : (s.setTile t v).freshAt = s.freshAt := rfl
@[simp] theorem State.setTile_fresh (t : Nat) (v : TileUnit) : (s.setTile t v).fresh = s.fresh := rfl
@[simp] theorem State.setTile_free (t : Nat) (v : TileUnit) : (s.setTile t v).free = s.free := rfl
@[simp] theorem State.setTile_pending (t : Nat) (v : TileUnit) : (s.setTile t v).pending = s.pending := rfl

/-! ### State.setNet -/

@[simp] theorem State.setNet_regs (n : Net) : (s.setNet n).regs = s.regs := rfl
@[simp] theorem State.setNet_mem (n : Net) : (s.setNet n).mem = s.mem := rfl
@[simp] theorem State.setNet_poison (n : Net) : (s.setNet n).poison = s.poison := rfl
@[simp] theorem State.setNet_zeroTags (n : Net) : (s.setNet n).zeroTags = s.zeroTags := rfl
@[simp] theorem State.setNet_cores (n : Net) : (s.setNet n).cores = s.cores := rfl
@[simp] theorem State.setNet_tallies (n : Net) : (s.setNet n).tallies = s.tallies := rfl
@[simp] theorem State.setNet_tellers (n : Net) : (s.setNet n).tellers = s.tellers := rfl
@[simp] theorem State.setNet_escrow (n : Net) : (s.setNet n).escrow = s.escrow := rfl
@[simp] theorem State.setNet_clearings (n : Net) : (s.setNet n).clearings = s.clearings := rfl
@[simp] theorem State.setNet_tiles (n : Net) : (s.setNet n).tiles = s.tiles := rfl
@[simp] theorem State.setNet_net (n : Net) : (s.setNet n).net = n := rfl
@[simp] theorem State.setNet_chans (n : Net) : (s.setNet n).chans = s.chans := rfl
@[simp] theorem State.setNet_memIn (n : Net) : (s.setNet n).memIn = s.memIn := rfl
@[simp] theorem State.setNet_regions (n : Net) : (s.setNet n).regions = s.regions := rfl
@[simp] theorem State.setNet_logic (n : Net) : (s.setNet n).logic = s.logic := rfl
@[simp] theorem State.setNet_fports (n : Net) : (s.setNet n).fports = s.fports := rfl
@[simp] theorem State.setNet_trips (n : Net) : (s.setNet n).trips = s.trips := rfl
@[simp] theorem State.setNet_fabs (n : Net) : (s.setNet n).fabs = s.fabs := rfl
@[simp] theorem State.setNet_edges (n : Net) : (s.setNet n).edges = s.edges := rfl
@[simp] theorem State.setNet_sds (n : Net) : (s.setNet n).sds = s.sds := rfl
@[simp] theorem State.setNet_gens (n : Net) : (s.setNet n).gens = s.gens := rfl
@[simp] theorem State.setNet_outs (n : Net) : (s.setNet n).outs = s.outs := rfl
@[simp] theorem State.setNet_verdicts (n : Net) : (s.setNet n).verdicts = s.verdicts := rfl
@[simp] theorem State.setNet_encs (n : Net) : (s.setNet n).encs = s.encs := rfl
@[simp] theorem State.setNet_lanes (n : Net) : (s.setNet n).lanes = s.lanes := rfl
@[simp] theorem State.setNet_host (n : Net) : (s.setNet n).host = s.host := rfl
@[simp] theorem State.setNet_eths (n : Net) : (s.setNet n).eths = s.eths := rfl
@[simp] theorem State.setNet_keeper (n : Net) : (s.setNet n).keeper = s.keeper := rfl
@[simp] theorem State.setNet_pacer (n : Net) : (s.setNet n).pacer = s.pacer := rfl
@[simp] theorem State.setNet_mint (n : Net) : (s.setNet n).mint = s.mint := rfl
@[simp] theorem State.setNet_boot (n : Net) : (s.setNet n).boot = s.boot := rfl
@[simp] theorem State.setNet_freshAt (n : Net) : (s.setNet n).freshAt = s.freshAt := rfl
@[simp] theorem State.setNet_fresh (n : Net) : (s.setNet n).fresh = s.fresh := rfl
@[simp] theorem State.setNet_free (n : Net) : (s.setNet n).free = s.free := rfl
@[simp] theorem State.setNet_pending (n : Net) : (s.setNet n).pending = s.pending := rfl

/-! ### State.setPacer -/

@[simp] theorem State.setPacer_regs (p : Pacer) : (s.setPacer p).regs = s.regs := rfl
@[simp] theorem State.setPacer_mem (p : Pacer) : (s.setPacer p).mem = s.mem := rfl
@[simp] theorem State.setPacer_poison (p : Pacer) : (s.setPacer p).poison = s.poison := rfl
@[simp] theorem State.setPacer_zeroTags (p : Pacer) : (s.setPacer p).zeroTags = s.zeroTags := rfl
@[simp] theorem State.setPacer_cores (p : Pacer) : (s.setPacer p).cores = s.cores := rfl
@[simp] theorem State.setPacer_tallies (p : Pacer) : (s.setPacer p).tallies = s.tallies := rfl
@[simp] theorem State.setPacer_tellers (p : Pacer) : (s.setPacer p).tellers = s.tellers := rfl
@[simp] theorem State.setPacer_escrow (p : Pacer) : (s.setPacer p).escrow = s.escrow := rfl
@[simp] theorem State.setPacer_clearings (p : Pacer) : (s.setPacer p).clearings = s.clearings := rfl
@[simp] theorem State.setPacer_tiles (p : Pacer) : (s.setPacer p).tiles = s.tiles := rfl
@[simp] theorem State.setPacer_net (p : Pacer) : (s.setPacer p).net = s.net := rfl
@[simp] theorem State.setPacer_chans (p : Pacer) : (s.setPacer p).chans = s.chans := rfl
@[simp] theorem State.setPacer_memIn (p : Pacer) : (s.setPacer p).memIn = s.memIn := rfl
@[simp] theorem State.setPacer_regions (p : Pacer) : (s.setPacer p).regions = s.regions := rfl
@[simp] theorem State.setPacer_logic (p : Pacer) : (s.setPacer p).logic = s.logic := rfl
@[simp] theorem State.setPacer_fports (p : Pacer) : (s.setPacer p).fports = s.fports := rfl
@[simp] theorem State.setPacer_trips (p : Pacer) : (s.setPacer p).trips = s.trips := rfl
@[simp] theorem State.setPacer_fabs (p : Pacer) : (s.setPacer p).fabs = s.fabs := rfl
@[simp] theorem State.setPacer_edges (p : Pacer) : (s.setPacer p).edges = s.edges := rfl
@[simp] theorem State.setPacer_sds (p : Pacer) : (s.setPacer p).sds = s.sds := rfl
@[simp] theorem State.setPacer_gens (p : Pacer) : (s.setPacer p).gens = s.gens := rfl
@[simp] theorem State.setPacer_outs (p : Pacer) : (s.setPacer p).outs = s.outs := rfl
@[simp] theorem State.setPacer_verdicts (p : Pacer) : (s.setPacer p).verdicts = s.verdicts := rfl
@[simp] theorem State.setPacer_encs (p : Pacer) : (s.setPacer p).encs = s.encs := rfl
@[simp] theorem State.setPacer_lanes (p : Pacer) : (s.setPacer p).lanes = s.lanes := rfl
@[simp] theorem State.setPacer_host (p : Pacer) : (s.setPacer p).host = s.host := rfl
@[simp] theorem State.setPacer_eths (p : Pacer) : (s.setPacer p).eths = s.eths := rfl
@[simp] theorem State.setPacer_keeper (p : Pacer) : (s.setPacer p).keeper = s.keeper := rfl
@[simp] theorem State.setPacer_pacer (p : Pacer) : (s.setPacer p).pacer = p := rfl
@[simp] theorem State.setPacer_mint (p : Pacer) : (s.setPacer p).mint = s.mint := rfl
@[simp] theorem State.setPacer_boot (p : Pacer) : (s.setPacer p).boot = s.boot := rfl
@[simp] theorem State.setPacer_freshAt (p : Pacer) : (s.setPacer p).freshAt = s.freshAt := rfl
@[simp] theorem State.setPacer_fresh (p : Pacer) : (s.setPacer p).fresh = s.fresh := rfl
@[simp] theorem State.setPacer_free (p : Pacer) : (s.setPacer p).free = s.free := rfl
@[simp] theorem State.setPacer_pending (p : Pacer) : (s.setPacer p).pending = s.pending := rfl

/-! ### State.setKeeper -/

@[simp] theorem State.setKeeper_regs (k : Keeper) : (s.setKeeper k).regs = s.regs := rfl
@[simp] theorem State.setKeeper_mem (k : Keeper) : (s.setKeeper k).mem = s.mem := rfl
@[simp] theorem State.setKeeper_poison (k : Keeper) : (s.setKeeper k).poison = s.poison := rfl
@[simp] theorem State.setKeeper_zeroTags (k : Keeper) : (s.setKeeper k).zeroTags = s.zeroTags := rfl
@[simp] theorem State.setKeeper_cores (k : Keeper) : (s.setKeeper k).cores = s.cores := rfl
@[simp] theorem State.setKeeper_tallies (k : Keeper) : (s.setKeeper k).tallies = s.tallies := rfl
@[simp] theorem State.setKeeper_tellers (k : Keeper) : (s.setKeeper k).tellers = s.tellers := rfl
@[simp] theorem State.setKeeper_escrow (k : Keeper) : (s.setKeeper k).escrow = s.escrow := rfl
@[simp] theorem State.setKeeper_clearings (k : Keeper) : (s.setKeeper k).clearings = s.clearings := rfl
@[simp] theorem State.setKeeper_tiles (k : Keeper) : (s.setKeeper k).tiles = s.tiles := rfl
@[simp] theorem State.setKeeper_net (k : Keeper) : (s.setKeeper k).net = s.net := rfl
@[simp] theorem State.setKeeper_chans (k : Keeper) : (s.setKeeper k).chans = s.chans := rfl
@[simp] theorem State.setKeeper_memIn (k : Keeper) : (s.setKeeper k).memIn = s.memIn := rfl
@[simp] theorem State.setKeeper_regions (k : Keeper) : (s.setKeeper k).regions = s.regions := rfl
@[simp] theorem State.setKeeper_logic (k : Keeper) : (s.setKeeper k).logic = s.logic := rfl
@[simp] theorem State.setKeeper_fports (k : Keeper) : (s.setKeeper k).fports = s.fports := rfl
@[simp] theorem State.setKeeper_trips (k : Keeper) : (s.setKeeper k).trips = s.trips := rfl
@[simp] theorem State.setKeeper_fabs (k : Keeper) : (s.setKeeper k).fabs = s.fabs := rfl
@[simp] theorem State.setKeeper_edges (k : Keeper) : (s.setKeeper k).edges = s.edges := rfl
@[simp] theorem State.setKeeper_sds (k : Keeper) : (s.setKeeper k).sds = s.sds := rfl
@[simp] theorem State.setKeeper_gens (k : Keeper) : (s.setKeeper k).gens = s.gens := rfl
@[simp] theorem State.setKeeper_outs (k : Keeper) : (s.setKeeper k).outs = s.outs := rfl
@[simp] theorem State.setKeeper_verdicts (k : Keeper) : (s.setKeeper k).verdicts = s.verdicts := rfl
@[simp] theorem State.setKeeper_encs (k : Keeper) : (s.setKeeper k).encs = s.encs := rfl
@[simp] theorem State.setKeeper_lanes (k : Keeper) : (s.setKeeper k).lanes = s.lanes := rfl
@[simp] theorem State.setKeeper_host (k : Keeper) : (s.setKeeper k).host = s.host := rfl
@[simp] theorem State.setKeeper_eths (k : Keeper) : (s.setKeeper k).eths = s.eths := rfl
@[simp] theorem State.setKeeper_keeper (k : Keeper) : (s.setKeeper k).keeper = k := rfl
@[simp] theorem State.setKeeper_pacer (k : Keeper) : (s.setKeeper k).pacer = s.pacer := rfl
@[simp] theorem State.setKeeper_mint (k : Keeper) : (s.setKeeper k).mint = s.mint := rfl
@[simp] theorem State.setKeeper_boot (k : Keeper) : (s.setKeeper k).boot = s.boot := rfl
@[simp] theorem State.setKeeper_freshAt (k : Keeper) : (s.setKeeper k).freshAt = s.freshAt := rfl
@[simp] theorem State.setKeeper_fresh (k : Keeper) : (s.setKeeper k).fresh = s.fresh := rfl
@[simp] theorem State.setKeeper_free (k : Keeper) : (s.setKeeper k).free = s.free := rfl
@[simp] theorem State.setKeeper_pending (k : Keeper) : (s.setKeeper k).pending = s.pending := rfl

/-! ### State.setMint -/

@[simp] theorem State.setMint_regs (m : Mint) : (s.setMint m).regs = s.regs := rfl
@[simp] theorem State.setMint_mem (m : Mint) : (s.setMint m).mem = s.mem := rfl
@[simp] theorem State.setMint_poison (m : Mint) : (s.setMint m).poison = s.poison := rfl
@[simp] theorem State.setMint_zeroTags (m : Mint) : (s.setMint m).zeroTags = s.zeroTags := rfl
@[simp] theorem State.setMint_cores (m : Mint) : (s.setMint m).cores = s.cores := rfl
@[simp] theorem State.setMint_tallies (m : Mint) : (s.setMint m).tallies = s.tallies := rfl
@[simp] theorem State.setMint_tellers (m : Mint) : (s.setMint m).tellers = s.tellers := rfl
@[simp] theorem State.setMint_escrow (m : Mint) : (s.setMint m).escrow = s.escrow := rfl
@[simp] theorem State.setMint_clearings (m : Mint) : (s.setMint m).clearings = s.clearings := rfl
@[simp] theorem State.setMint_tiles (m : Mint) : (s.setMint m).tiles = s.tiles := rfl
@[simp] theorem State.setMint_net (m : Mint) : (s.setMint m).net = s.net := rfl
@[simp] theorem State.setMint_chans (m : Mint) : (s.setMint m).chans = s.chans := rfl
@[simp] theorem State.setMint_memIn (m : Mint) : (s.setMint m).memIn = s.memIn := rfl
@[simp] theorem State.setMint_regions (m : Mint) : (s.setMint m).regions = s.regions := rfl
@[simp] theorem State.setMint_logic (m : Mint) : (s.setMint m).logic = s.logic := rfl
@[simp] theorem State.setMint_fports (m : Mint) : (s.setMint m).fports = s.fports := rfl
@[simp] theorem State.setMint_trips (m : Mint) : (s.setMint m).trips = s.trips := rfl
@[simp] theorem State.setMint_fabs (m : Mint) : (s.setMint m).fabs = s.fabs := rfl
@[simp] theorem State.setMint_edges (m : Mint) : (s.setMint m).edges = s.edges := rfl
@[simp] theorem State.setMint_sds (m : Mint) : (s.setMint m).sds = s.sds := rfl
@[simp] theorem State.setMint_gens (m : Mint) : (s.setMint m).gens = s.gens := rfl
@[simp] theorem State.setMint_outs (m : Mint) : (s.setMint m).outs = s.outs := rfl
@[simp] theorem State.setMint_verdicts (m : Mint) : (s.setMint m).verdicts = s.verdicts := rfl
@[simp] theorem State.setMint_encs (m : Mint) : (s.setMint m).encs = s.encs := rfl
@[simp] theorem State.setMint_lanes (m : Mint) : (s.setMint m).lanes = s.lanes := rfl
@[simp] theorem State.setMint_host (m : Mint) : (s.setMint m).host = s.host := rfl
@[simp] theorem State.setMint_eths (m : Mint) : (s.setMint m).eths = s.eths := rfl
@[simp] theorem State.setMint_keeper (m : Mint) : (s.setMint m).keeper = s.keeper := rfl
@[simp] theorem State.setMint_pacer (m : Mint) : (s.setMint m).pacer = s.pacer := rfl
@[simp] theorem State.setMint_mint (m : Mint) : (s.setMint m).mint = m := rfl
@[simp] theorem State.setMint_boot (m : Mint) : (s.setMint m).boot = s.boot := rfl
@[simp] theorem State.setMint_freshAt (m : Mint) : (s.setMint m).freshAt = s.freshAt := rfl
@[simp] theorem State.setMint_fresh (m : Mint) : (s.setMint m).fresh = s.fresh := rfl
@[simp] theorem State.setMint_free (m : Mint) : (s.setMint m).free = s.free := rfl
@[simp] theorem State.setMint_pending (m : Mint) : (s.setMint m).pending = s.pending := rfl

/-! ### State.setBoot -/

@[simp] theorem State.setBoot_regs (b : Boot) : (s.setBoot b).regs = s.regs := rfl
@[simp] theorem State.setBoot_mem (b : Boot) : (s.setBoot b).mem = s.mem := rfl
@[simp] theorem State.setBoot_poison (b : Boot) : (s.setBoot b).poison = s.poison := rfl
@[simp] theorem State.setBoot_zeroTags (b : Boot) : (s.setBoot b).zeroTags = s.zeroTags := rfl
@[simp] theorem State.setBoot_cores (b : Boot) : (s.setBoot b).cores = s.cores := rfl
@[simp] theorem State.setBoot_tallies (b : Boot) : (s.setBoot b).tallies = s.tallies := rfl
@[simp] theorem State.setBoot_tellers (b : Boot) : (s.setBoot b).tellers = s.tellers := rfl
@[simp] theorem State.setBoot_escrow (b : Boot) : (s.setBoot b).escrow = s.escrow := rfl
@[simp] theorem State.setBoot_clearings (b : Boot) : (s.setBoot b).clearings = s.clearings := rfl
@[simp] theorem State.setBoot_tiles (b : Boot) : (s.setBoot b).tiles = s.tiles := rfl
@[simp] theorem State.setBoot_net (b : Boot) : (s.setBoot b).net = s.net := rfl
@[simp] theorem State.setBoot_chans (b : Boot) : (s.setBoot b).chans = s.chans := rfl
@[simp] theorem State.setBoot_memIn (b : Boot) : (s.setBoot b).memIn = s.memIn := rfl
@[simp] theorem State.setBoot_regions (b : Boot) : (s.setBoot b).regions = s.regions := rfl
@[simp] theorem State.setBoot_logic (b : Boot) : (s.setBoot b).logic = s.logic := rfl
@[simp] theorem State.setBoot_fports (b : Boot) : (s.setBoot b).fports = s.fports := rfl
@[simp] theorem State.setBoot_trips (b : Boot) : (s.setBoot b).trips = s.trips := rfl
@[simp] theorem State.setBoot_fabs (b : Boot) : (s.setBoot b).fabs = s.fabs := rfl
@[simp] theorem State.setBoot_edges (b : Boot) : (s.setBoot b).edges = s.edges := rfl
@[simp] theorem State.setBoot_sds (b : Boot) : (s.setBoot b).sds = s.sds := rfl
@[simp] theorem State.setBoot_gens (b : Boot) : (s.setBoot b).gens = s.gens := rfl
@[simp] theorem State.setBoot_outs (b : Boot) : (s.setBoot b).outs = s.outs := rfl
@[simp] theorem State.setBoot_verdicts (b : Boot) : (s.setBoot b).verdicts = s.verdicts := rfl
@[simp] theorem State.setBoot_encs (b : Boot) : (s.setBoot b).encs = s.encs := rfl
@[simp] theorem State.setBoot_lanes (b : Boot) : (s.setBoot b).lanes = s.lanes := rfl
@[simp] theorem State.setBoot_host (b : Boot) : (s.setBoot b).host = s.host := rfl
@[simp] theorem State.setBoot_eths (b : Boot) : (s.setBoot b).eths = s.eths := rfl
@[simp] theorem State.setBoot_keeper (b : Boot) : (s.setBoot b).keeper = s.keeper := rfl
@[simp] theorem State.setBoot_pacer (b : Boot) : (s.setBoot b).pacer = s.pacer := rfl
@[simp] theorem State.setBoot_mint (b : Boot) : (s.setBoot b).mint = s.mint := rfl
@[simp] theorem State.setBoot_boot (b : Boot) : (s.setBoot b).boot = b := rfl
@[simp] theorem State.setBoot_freshAt (b : Boot) : (s.setBoot b).freshAt = s.freshAt := rfl
@[simp] theorem State.setBoot_fresh (b : Boot) : (s.setBoot b).fresh = s.fresh := rfl
@[simp] theorem State.setBoot_free (b : Boot) : (s.setBoot b).free = s.free := rfl
@[simp] theorem State.setBoot_pending (b : Boot) : (s.setBoot b).pending = s.pending := rfl

/-! ### State.setHost -/

@[simp] theorem State.setHost_regs (h : HostIf) : (s.setHost h).regs = s.regs := rfl
@[simp] theorem State.setHost_mem (h : HostIf) : (s.setHost h).mem = s.mem := rfl
@[simp] theorem State.setHost_poison (h : HostIf) : (s.setHost h).poison = s.poison := rfl
@[simp] theorem State.setHost_zeroTags (h : HostIf) : (s.setHost h).zeroTags = s.zeroTags := rfl
@[simp] theorem State.setHost_cores (h : HostIf) : (s.setHost h).cores = s.cores := rfl
@[simp] theorem State.setHost_tallies (h : HostIf) : (s.setHost h).tallies = s.tallies := rfl
@[simp] theorem State.setHost_tellers (h : HostIf) : (s.setHost h).tellers = s.tellers := rfl
@[simp] theorem State.setHost_escrow (h : HostIf) : (s.setHost h).escrow = s.escrow := rfl
@[simp] theorem State.setHost_clearings (h : HostIf) : (s.setHost h).clearings = s.clearings := rfl
@[simp] theorem State.setHost_tiles (h : HostIf) : (s.setHost h).tiles = s.tiles := rfl
@[simp] theorem State.setHost_net (h : HostIf) : (s.setHost h).net = s.net := rfl
@[simp] theorem State.setHost_chans (h : HostIf) : (s.setHost h).chans = s.chans := rfl
@[simp] theorem State.setHost_memIn (h : HostIf) : (s.setHost h).memIn = s.memIn := rfl
@[simp] theorem State.setHost_regions (h : HostIf) : (s.setHost h).regions = s.regions := rfl
@[simp] theorem State.setHost_logic (h : HostIf) : (s.setHost h).logic = s.logic := rfl
@[simp] theorem State.setHost_fports (h : HostIf) : (s.setHost h).fports = s.fports := rfl
@[simp] theorem State.setHost_trips (h : HostIf) : (s.setHost h).trips = s.trips := rfl
@[simp] theorem State.setHost_fabs (h : HostIf) : (s.setHost h).fabs = s.fabs := rfl
@[simp] theorem State.setHost_edges (h : HostIf) : (s.setHost h).edges = s.edges := rfl
@[simp] theorem State.setHost_sds (h : HostIf) : (s.setHost h).sds = s.sds := rfl
@[simp] theorem State.setHost_gens (h : HostIf) : (s.setHost h).gens = s.gens := rfl
@[simp] theorem State.setHost_outs (h : HostIf) : (s.setHost h).outs = s.outs := rfl
@[simp] theorem State.setHost_verdicts (h : HostIf) : (s.setHost h).verdicts = s.verdicts := rfl
@[simp] theorem State.setHost_encs (h : HostIf) : (s.setHost h).encs = s.encs := rfl
@[simp] theorem State.setHost_lanes (h : HostIf) : (s.setHost h).lanes = s.lanes := rfl
@[simp] theorem State.setHost_host (h : HostIf) : (s.setHost h).host = h := rfl
@[simp] theorem State.setHost_eths (h : HostIf) : (s.setHost h).eths = s.eths := rfl
@[simp] theorem State.setHost_keeper (h : HostIf) : (s.setHost h).keeper = s.keeper := rfl
@[simp] theorem State.setHost_pacer (h : HostIf) : (s.setHost h).pacer = s.pacer := rfl
@[simp] theorem State.setHost_mint (h : HostIf) : (s.setHost h).mint = s.mint := rfl
@[simp] theorem State.setHost_boot (h : HostIf) : (s.setHost h).boot = s.boot := rfl
@[simp] theorem State.setHost_freshAt (h : HostIf) : (s.setHost h).freshAt = s.freshAt := rfl
@[simp] theorem State.setHost_fresh (h : HostIf) : (s.setHost h).fresh = s.fresh := rfl
@[simp] theorem State.setHost_free (h : HostIf) : (s.setHost h).free = s.free := rfl
@[simp] theorem State.setHost_pending (h : HostIf) : (s.setHost h).pending = s.pending := rfl

/-! ### State.setReg -/

@[simp] theorem State.setReg_regs (da page off v i : Nat) :
    (s.setReg da page off v i).regs = tputD (regReset da page off) s.regs (regKey da page off i) (BitVec.ofNat 32 v) := rfl
@[simp] theorem State.setReg_mem (da page off v i : Nat) : (s.setReg da page off v i).mem = s.mem := rfl
@[simp] theorem State.setReg_poison (da page off v i : Nat) : (s.setReg da page off v i).poison = s.poison := rfl
@[simp] theorem State.setReg_zeroTags (da page off v i : Nat) : (s.setReg da page off v i).zeroTags = s.zeroTags := rfl
@[simp] theorem State.setReg_cores (da page off v i : Nat) : (s.setReg da page off v i).cores = s.cores := rfl
@[simp] theorem State.setReg_tallies (da page off v i : Nat) : (s.setReg da page off v i).tallies = s.tallies := rfl
@[simp] theorem State.setReg_tellers (da page off v i : Nat) : (s.setReg da page off v i).tellers = s.tellers := rfl
@[simp] theorem State.setReg_escrow (da page off v i : Nat) : (s.setReg da page off v i).escrow = s.escrow := rfl
@[simp] theorem State.setReg_clearings (da page off v i : Nat) :
    (s.setReg da page off v i).clearings = s.clearings := rfl
@[simp] theorem State.setReg_tiles (da page off v i : Nat) : (s.setReg da page off v i).tiles = s.tiles := rfl
@[simp] theorem State.setReg_net (da page off v i : Nat) : (s.setReg da page off v i).net = s.net := rfl
@[simp] theorem State.setReg_chans (da page off v i : Nat) : (s.setReg da page off v i).chans = s.chans := rfl
@[simp] theorem State.setReg_memIn (da page off v i : Nat) : (s.setReg da page off v i).memIn = s.memIn := rfl
@[simp] theorem State.setReg_regions (da page off v i : Nat) : (s.setReg da page off v i).regions = s.regions := rfl
@[simp] theorem State.setReg_logic (da page off v i : Nat) : (s.setReg da page off v i).logic = s.logic := rfl
@[simp] theorem State.setReg_fports (da page off v i : Nat) : (s.setReg da page off v i).fports = s.fports := rfl
@[simp] theorem State.setReg_trips (da page off v i : Nat) : (s.setReg da page off v i).trips = s.trips := rfl
@[simp] theorem State.setReg_fabs (da page off v i : Nat) : (s.setReg da page off v i).fabs = s.fabs := rfl
@[simp] theorem State.setReg_edges (da page off v i : Nat) : (s.setReg da page off v i).edges = s.edges := rfl
@[simp] theorem State.setReg_sds (da page off v i : Nat) : (s.setReg da page off v i).sds = s.sds := rfl
@[simp] theorem State.setReg_gens (da page off v i : Nat) : (s.setReg da page off v i).gens = s.gens := rfl
@[simp] theorem State.setReg_outs (da page off v i : Nat) : (s.setReg da page off v i).outs = s.outs := rfl
@[simp] theorem State.setReg_verdicts (da page off v i : Nat) : (s.setReg da page off v i).verdicts = s.verdicts := rfl
@[simp] theorem State.setReg_encs (da page off v i : Nat) : (s.setReg da page off v i).encs = s.encs := rfl
@[simp] theorem State.setReg_lanes (da page off v i : Nat) : (s.setReg da page off v i).lanes = s.lanes := rfl
@[simp] theorem State.setReg_host (da page off v i : Nat) : (s.setReg da page off v i).host = s.host := rfl
@[simp] theorem State.setReg_eths (da page off v i : Nat) : (s.setReg da page off v i).eths = s.eths := rfl
@[simp] theorem State.setReg_keeper (da page off v i : Nat) : (s.setReg da page off v i).keeper = s.keeper := rfl
@[simp] theorem State.setReg_pacer (da page off v i : Nat) : (s.setReg da page off v i).pacer = s.pacer := rfl
@[simp] theorem State.setReg_mint (da page off v i : Nat) : (s.setReg da page off v i).mint = s.mint := rfl
@[simp] theorem State.setReg_boot (da page off v i : Nat) : (s.setReg da page off v i).boot = s.boot := rfl
@[simp] theorem State.setReg_freshAt (da page off v i : Nat) : (s.setReg da page off v i).freshAt = s.freshAt := rfl
@[simp] theorem State.setReg_fresh (da page off v i : Nat) : (s.setReg da page off v i).fresh = s.fresh := rfl
@[simp] theorem State.setReg_free (da page off v i : Nat) : (s.setReg da page off v i).free = s.free := rfl
@[simp] theorem State.setReg_pending (da page off v i : Nat) : (s.setReg da page off v i).pending = s.pending := rfl

/-! ### State.setTally -/

@[simp] theorem State.setTally_regs (t i : Nat) (v : Tally) : (s.setTally t i v).regs = s.regs := rfl
@[simp] theorem State.setTally_mem (t i : Nat) (v : Tally) : (s.setTally t i v).mem = s.mem := rfl
@[simp] theorem State.setTally_poison (t i : Nat) (v : Tally) : (s.setTally t i v).poison = s.poison := rfl
@[simp] theorem State.setTally_zeroTags (t i : Nat) (v : Tally) : (s.setTally t i v).zeroTags = s.zeroTags := rfl
@[simp] theorem State.setTally_cores (t i : Nat) (v : Tally) : (s.setTally t i v).cores = s.cores := rfl
@[simp] theorem State.setTally_tallies (t i : Nat) (v : Tally) :
    (s.setTally t i v).tallies = tput s.tallies (1024 * t + i) v := rfl
@[simp] theorem State.setTally_tellers (t i : Nat) (v : Tally) : (s.setTally t i v).tellers = s.tellers := rfl
@[simp] theorem State.setTally_escrow (t i : Nat) (v : Tally) : (s.setTally t i v).escrow = s.escrow := rfl
@[simp] theorem State.setTally_clearings (t i : Nat) (v : Tally) : (s.setTally t i v).clearings = s.clearings := rfl
@[simp] theorem State.setTally_tiles (t i : Nat) (v : Tally) : (s.setTally t i v).tiles = s.tiles := rfl
@[simp] theorem State.setTally_net (t i : Nat) (v : Tally) : (s.setTally t i v).net = s.net := rfl
@[simp] theorem State.setTally_chans (t i : Nat) (v : Tally) : (s.setTally t i v).chans = s.chans := rfl
@[simp] theorem State.setTally_memIn (t i : Nat) (v : Tally) : (s.setTally t i v).memIn = s.memIn := rfl
@[simp] theorem State.setTally_regions (t i : Nat) (v : Tally) : (s.setTally t i v).regions = s.regions := rfl
@[simp] theorem State.setTally_logic (t i : Nat) (v : Tally) : (s.setTally t i v).logic = s.logic := rfl
@[simp] theorem State.setTally_fports (t i : Nat) (v : Tally) : (s.setTally t i v).fports = s.fports := rfl
@[simp] theorem State.setTally_trips (t i : Nat) (v : Tally) : (s.setTally t i v).trips = s.trips := rfl
@[simp] theorem State.setTally_fabs (t i : Nat) (v : Tally) : (s.setTally t i v).fabs = s.fabs := rfl
@[simp] theorem State.setTally_edges (t i : Nat) (v : Tally) : (s.setTally t i v).edges = s.edges := rfl
@[simp] theorem State.setTally_sds (t i : Nat) (v : Tally) : (s.setTally t i v).sds = s.sds := rfl
@[simp] theorem State.setTally_gens (t i : Nat) (v : Tally) : (s.setTally t i v).gens = s.gens := rfl
@[simp] theorem State.setTally_outs (t i : Nat) (v : Tally) : (s.setTally t i v).outs = s.outs := rfl
@[simp] theorem State.setTally_verdicts (t i : Nat) (v : Tally) : (s.setTally t i v).verdicts = s.verdicts := rfl
@[simp] theorem State.setTally_encs (t i : Nat) (v : Tally) : (s.setTally t i v).encs = s.encs := rfl
@[simp] theorem State.setTally_lanes (t i : Nat) (v : Tally) : (s.setTally t i v).lanes = s.lanes := rfl
@[simp] theorem State.setTally_host (t i : Nat) (v : Tally) : (s.setTally t i v).host = s.host := rfl
@[simp] theorem State.setTally_eths (t i : Nat) (v : Tally) : (s.setTally t i v).eths = s.eths := rfl
@[simp] theorem State.setTally_keeper (t i : Nat) (v : Tally) : (s.setTally t i v).keeper = s.keeper := rfl
@[simp] theorem State.setTally_pacer (t i : Nat) (v : Tally) : (s.setTally t i v).pacer = s.pacer := rfl
@[simp] theorem State.setTally_mint (t i : Nat) (v : Tally) : (s.setTally t i v).mint = s.mint := rfl
@[simp] theorem State.setTally_boot (t i : Nat) (v : Tally) : (s.setTally t i v).boot = s.boot := rfl
@[simp] theorem State.setTally_freshAt (t i : Nat) (v : Tally) : (s.setTally t i v).freshAt = s.freshAt := rfl
@[simp] theorem State.setTally_fresh (t i : Nat) (v : Tally) : (s.setTally t i v).fresh = s.fresh := rfl
@[simp] theorem State.setTally_free (t i : Nat) (v : Tally) : (s.setTally t i v).free = s.free := rfl
@[simp] theorem State.setTally_pending (t i : Nat) (v : Tally) : (s.setTally t i v).pending = s.pending := rfl

/-! ### State.setTeller -/

@[simp] theorem State.setTeller_regs (da i : Nat) (v : Teller) : (s.setTeller da i v).regs = s.regs := rfl
@[simp] theorem State.setTeller_mem (da i : Nat) (v : Teller) : (s.setTeller da i v).mem = s.mem := rfl
@[simp] theorem State.setTeller_poison (da i : Nat) (v : Teller) : (s.setTeller da i v).poison = s.poison := rfl
@[simp] theorem State.setTeller_zeroTags (da i : Nat) (v : Teller) : (s.setTeller da i v).zeroTags = s.zeroTags := rfl
@[simp] theorem State.setTeller_cores (da i : Nat) (v : Teller) : (s.setTeller da i v).cores = s.cores := rfl
@[simp] theorem State.setTeller_tallies (da i : Nat) (v : Teller) : (s.setTeller da i v).tallies = s.tallies := rfl
@[simp] theorem State.setTeller_tellers (da i : Nat) (v : Teller) :
    (s.setTeller da i v).tellers = tput s.tellers (16 * da + i) v := rfl
@[simp] theorem State.setTeller_escrow (da i : Nat) (v : Teller) : (s.setTeller da i v).escrow = s.escrow := rfl
@[simp] theorem State.setTeller_clearings (da i : Nat) (v : Teller) :
    (s.setTeller da i v).clearings = s.clearings := rfl
@[simp] theorem State.setTeller_tiles (da i : Nat) (v : Teller) : (s.setTeller da i v).tiles = s.tiles := rfl
@[simp] theorem State.setTeller_net (da i : Nat) (v : Teller) : (s.setTeller da i v).net = s.net := rfl
@[simp] theorem State.setTeller_chans (da i : Nat) (v : Teller) : (s.setTeller da i v).chans = s.chans := rfl
@[simp] theorem State.setTeller_memIn (da i : Nat) (v : Teller) : (s.setTeller da i v).memIn = s.memIn := rfl
@[simp] theorem State.setTeller_regions (da i : Nat) (v : Teller) : (s.setTeller da i v).regions = s.regions := rfl
@[simp] theorem State.setTeller_logic (da i : Nat) (v : Teller) : (s.setTeller da i v).logic = s.logic := rfl
@[simp] theorem State.setTeller_fports (da i : Nat) (v : Teller) : (s.setTeller da i v).fports = s.fports := rfl
@[simp] theorem State.setTeller_trips (da i : Nat) (v : Teller) : (s.setTeller da i v).trips = s.trips := rfl
@[simp] theorem State.setTeller_fabs (da i : Nat) (v : Teller) : (s.setTeller da i v).fabs = s.fabs := rfl
@[simp] theorem State.setTeller_edges (da i : Nat) (v : Teller) : (s.setTeller da i v).edges = s.edges := rfl
@[simp] theorem State.setTeller_sds (da i : Nat) (v : Teller) : (s.setTeller da i v).sds = s.sds := rfl
@[simp] theorem State.setTeller_gens (da i : Nat) (v : Teller) : (s.setTeller da i v).gens = s.gens := rfl
@[simp] theorem State.setTeller_outs (da i : Nat) (v : Teller) : (s.setTeller da i v).outs = s.outs := rfl
@[simp] theorem State.setTeller_verdicts (da i : Nat) (v : Teller) : (s.setTeller da i v).verdicts = s.verdicts := rfl
@[simp] theorem State.setTeller_encs (da i : Nat) (v : Teller) : (s.setTeller da i v).encs = s.encs := rfl
@[simp] theorem State.setTeller_lanes (da i : Nat) (v : Teller) : (s.setTeller da i v).lanes = s.lanes := rfl
@[simp] theorem State.setTeller_host (da i : Nat) (v : Teller) : (s.setTeller da i v).host = s.host := rfl
@[simp] theorem State.setTeller_eths (da i : Nat) (v : Teller) : (s.setTeller da i v).eths = s.eths := rfl
@[simp] theorem State.setTeller_keeper (da i : Nat) (v : Teller) : (s.setTeller da i v).keeper = s.keeper := rfl
@[simp] theorem State.setTeller_pacer (da i : Nat) (v : Teller) : (s.setTeller da i v).pacer = s.pacer := rfl
@[simp] theorem State.setTeller_mint (da i : Nat) (v : Teller) : (s.setTeller da i v).mint = s.mint := rfl
@[simp] theorem State.setTeller_boot (da i : Nat) (v : Teller) : (s.setTeller da i v).boot = s.boot := rfl
@[simp] theorem State.setTeller_freshAt (da i : Nat) (v : Teller) : (s.setTeller da i v).freshAt = s.freshAt := rfl
@[simp] theorem State.setTeller_fresh (da i : Nat) (v : Teller) : (s.setTeller da i v).fresh = s.fresh := rfl
@[simp] theorem State.setTeller_free (da i : Nat) (v : Teller) : (s.setTeller da i v).free = s.free := rfl
@[simp] theorem State.setTeller_pending (da i : Nat) (v : Teller) : (s.setTeller da i v).pending = s.pending := rfl

/-! ### State.setClearing -/

@[simp] theorem State.setClearing_regs (t c : Nat) (v : Clearing) : (s.setClearing t c v).regs = s.regs := rfl
@[simp] theorem State.setClearing_mem (t c : Nat) (v : Clearing) : (s.setClearing t c v).mem = s.mem := rfl
@[simp] theorem State.setClearing_poison (t c : Nat) (v : Clearing) : (s.setClearing t c v).poison = s.poison := rfl
@[simp] theorem State.setClearing_zeroTags (t c : Nat) (v : Clearing) :
    (s.setClearing t c v).zeroTags = s.zeroTags := rfl
@[simp] theorem State.setClearing_cores (t c : Nat) (v : Clearing) : (s.setClearing t c v).cores = s.cores := rfl
@[simp] theorem State.setClearing_tallies (t c : Nat) (v : Clearing) : (s.setClearing t c v).tallies = s.tallies := rfl
@[simp] theorem State.setClearing_tellers (t c : Nat) (v : Clearing) : (s.setClearing t c v).tellers = s.tellers := rfl
@[simp] theorem State.setClearing_escrow (t c : Nat) (v : Clearing) : (s.setClearing t c v).escrow = s.escrow := rfl
@[simp] theorem State.setClearing_clearings (t c : Nat) (v : Clearing) :
    (s.setClearing t c v).clearings = tput s.clearings (coreKey t c) v := rfl
@[simp] theorem State.setClearing_tiles (t c : Nat) (v : Clearing) : (s.setClearing t c v).tiles = s.tiles := rfl
@[simp] theorem State.setClearing_net (t c : Nat) (v : Clearing) : (s.setClearing t c v).net = s.net := rfl
@[simp] theorem State.setClearing_chans (t c : Nat) (v : Clearing) : (s.setClearing t c v).chans = s.chans := rfl
@[simp] theorem State.setClearing_memIn (t c : Nat) (v : Clearing) : (s.setClearing t c v).memIn = s.memIn := rfl
@[simp] theorem State.setClearing_regions (t c : Nat) (v : Clearing) : (s.setClearing t c v).regions = s.regions := rfl
@[simp] theorem State.setClearing_logic (t c : Nat) (v : Clearing) : (s.setClearing t c v).logic = s.logic := rfl
@[simp] theorem State.setClearing_fports (t c : Nat) (v : Clearing) : (s.setClearing t c v).fports = s.fports := rfl
@[simp] theorem State.setClearing_trips (t c : Nat) (v : Clearing) : (s.setClearing t c v).trips = s.trips := rfl
@[simp] theorem State.setClearing_fabs (t c : Nat) (v : Clearing) : (s.setClearing t c v).fabs = s.fabs := rfl
@[simp] theorem State.setClearing_edges (t c : Nat) (v : Clearing) : (s.setClearing t c v).edges = s.edges := rfl
@[simp] theorem State.setClearing_sds (t c : Nat) (v : Clearing) : (s.setClearing t c v).sds = s.sds := rfl
@[simp] theorem State.setClearing_gens (t c : Nat) (v : Clearing) : (s.setClearing t c v).gens = s.gens := rfl
@[simp] theorem State.setClearing_outs (t c : Nat) (v : Clearing) : (s.setClearing t c v).outs = s.outs := rfl
@[simp] theorem State.setClearing_verdicts (t c : Nat) (v : Clearing) :
    (s.setClearing t c v).verdicts = s.verdicts := rfl
@[simp] theorem State.setClearing_encs (t c : Nat) (v : Clearing) : (s.setClearing t c v).encs = s.encs := rfl
@[simp] theorem State.setClearing_lanes (t c : Nat) (v : Clearing) : (s.setClearing t c v).lanes = s.lanes := rfl
@[simp] theorem State.setClearing_host (t c : Nat) (v : Clearing) : (s.setClearing t c v).host = s.host := rfl
@[simp] theorem State.setClearing_eths (t c : Nat) (v : Clearing) : (s.setClearing t c v).eths = s.eths := rfl
@[simp] theorem State.setClearing_keeper (t c : Nat) (v : Clearing) : (s.setClearing t c v).keeper = s.keeper := rfl
@[simp] theorem State.setClearing_pacer (t c : Nat) (v : Clearing) : (s.setClearing t c v).pacer = s.pacer := rfl
@[simp] theorem State.setClearing_mint (t c : Nat) (v : Clearing) : (s.setClearing t c v).mint = s.mint := rfl
@[simp] theorem State.setClearing_boot (t c : Nat) (v : Clearing) : (s.setClearing t c v).boot = s.boot := rfl
@[simp] theorem State.setClearing_freshAt (t c : Nat) (v : Clearing) : (s.setClearing t c v).freshAt = s.freshAt := rfl
@[simp] theorem State.setClearing_fresh (t c : Nat) (v : Clearing) : (s.setClearing t c v).fresh = s.fresh := rfl
@[simp] theorem State.setClearing_free (t c : Nat) (v : Clearing) : (s.setClearing t c v).free = s.free := rfl
@[simp] theorem State.setClearing_pending (t c : Nat) (v : Clearing) : (s.setClearing t c v).pending = s.pending := rfl

/-! ### State.setChan -/

@[simp] theorem State.setChan_regs (ch : Nat) (v : Chan) : (s.setChan ch v).regs = s.regs := rfl
@[simp] theorem State.setChan_mem (ch : Nat) (v : Chan) : (s.setChan ch v).mem = s.mem := rfl
@[simp] theorem State.setChan_poison (ch : Nat) (v : Chan) : (s.setChan ch v).poison = s.poison := rfl
@[simp] theorem State.setChan_zeroTags (ch : Nat) (v : Chan) : (s.setChan ch v).zeroTags = s.zeroTags := rfl
@[simp] theorem State.setChan_cores (ch : Nat) (v : Chan) : (s.setChan ch v).cores = s.cores := rfl
@[simp] theorem State.setChan_tallies (ch : Nat) (v : Chan) : (s.setChan ch v).tallies = s.tallies := rfl
@[simp] theorem State.setChan_tellers (ch : Nat) (v : Chan) : (s.setChan ch v).tellers = s.tellers := rfl
@[simp] theorem State.setChan_escrow (ch : Nat) (v : Chan) : (s.setChan ch v).escrow = s.escrow := rfl
@[simp] theorem State.setChan_clearings (ch : Nat) (v : Chan) : (s.setChan ch v).clearings = s.clearings := rfl
@[simp] theorem State.setChan_tiles (ch : Nat) (v : Chan) : (s.setChan ch v).tiles = s.tiles := rfl
@[simp] theorem State.setChan_net (ch : Nat) (v : Chan) : (s.setChan ch v).net = s.net := rfl
@[simp] theorem State.setChan_chans (ch : Nat) (v : Chan) : (s.setChan ch v).chans = tput s.chans ch v := rfl
@[simp] theorem State.setChan_memIn (ch : Nat) (v : Chan) : (s.setChan ch v).memIn = s.memIn := rfl
@[simp] theorem State.setChan_regions (ch : Nat) (v : Chan) : (s.setChan ch v).regions = s.regions := rfl
@[simp] theorem State.setChan_logic (ch : Nat) (v : Chan) : (s.setChan ch v).logic = s.logic := rfl
@[simp] theorem State.setChan_fports (ch : Nat) (v : Chan) : (s.setChan ch v).fports = s.fports := rfl
@[simp] theorem State.setChan_trips (ch : Nat) (v : Chan) : (s.setChan ch v).trips = s.trips := rfl
@[simp] theorem State.setChan_fabs (ch : Nat) (v : Chan) : (s.setChan ch v).fabs = s.fabs := rfl
@[simp] theorem State.setChan_edges (ch : Nat) (v : Chan) : (s.setChan ch v).edges = s.edges := rfl
@[simp] theorem State.setChan_sds (ch : Nat) (v : Chan) : (s.setChan ch v).sds = s.sds := rfl
@[simp] theorem State.setChan_gens (ch : Nat) (v : Chan) : (s.setChan ch v).gens = s.gens := rfl
@[simp] theorem State.setChan_outs (ch : Nat) (v : Chan) : (s.setChan ch v).outs = s.outs := rfl
@[simp] theorem State.setChan_verdicts (ch : Nat) (v : Chan) : (s.setChan ch v).verdicts = s.verdicts := rfl
@[simp] theorem State.setChan_encs (ch : Nat) (v : Chan) : (s.setChan ch v).encs = s.encs := rfl
@[simp] theorem State.setChan_lanes (ch : Nat) (v : Chan) : (s.setChan ch v).lanes = s.lanes := rfl
@[simp] theorem State.setChan_host (ch : Nat) (v : Chan) : (s.setChan ch v).host = s.host := rfl
@[simp] theorem State.setChan_eths (ch : Nat) (v : Chan) : (s.setChan ch v).eths = s.eths := rfl
@[simp] theorem State.setChan_keeper (ch : Nat) (v : Chan) : (s.setChan ch v).keeper = s.keeper := rfl
@[simp] theorem State.setChan_pacer (ch : Nat) (v : Chan) : (s.setChan ch v).pacer = s.pacer := rfl
@[simp] theorem State.setChan_mint (ch : Nat) (v : Chan) : (s.setChan ch v).mint = s.mint := rfl
@[simp] theorem State.setChan_boot (ch : Nat) (v : Chan) : (s.setChan ch v).boot = s.boot := rfl
@[simp] theorem State.setChan_freshAt (ch : Nat) (v : Chan) : (s.setChan ch v).freshAt = s.freshAt := rfl
@[simp] theorem State.setChan_fresh (ch : Nat) (v : Chan) : (s.setChan ch v).fresh = s.fresh := rfl
@[simp] theorem State.setChan_free (ch : Nat) (v : Chan) : (s.setChan ch v).free = s.free := rfl
@[simp] theorem State.setChan_pending (ch : Nat) (v : Chan) : (s.setChan ch v).pending = s.pending := rfl

/-! ### State.setRegion -/

@[simp] theorem State.setRegion_regs (f r : Nat) (v : Region) : (s.setRegion f r v).regs = s.regs := rfl
@[simp] theorem State.setRegion_mem (f r : Nat) (v : Region) : (s.setRegion f r v).mem = s.mem := rfl
@[simp] theorem State.setRegion_poison (f r : Nat) (v : Region) : (s.setRegion f r v).poison = s.poison := rfl
@[simp] theorem State.setRegion_zeroTags (f r : Nat) (v : Region) : (s.setRegion f r v).zeroTags = s.zeroTags := rfl
@[simp] theorem State.setRegion_cores (f r : Nat) (v : Region) : (s.setRegion f r v).cores = s.cores := rfl
@[simp] theorem State.setRegion_tallies (f r : Nat) (v : Region) : (s.setRegion f r v).tallies = s.tallies := rfl
@[simp] theorem State.setRegion_tellers (f r : Nat) (v : Region) : (s.setRegion f r v).tellers = s.tellers := rfl
@[simp] theorem State.setRegion_escrow (f r : Nat) (v : Region) : (s.setRegion f r v).escrow = s.escrow := rfl
@[simp] theorem State.setRegion_clearings (f r : Nat) (v : Region) : (s.setRegion f r v).clearings = s.clearings := rfl
@[simp] theorem State.setRegion_tiles (f r : Nat) (v : Region) : (s.setRegion f r v).tiles = s.tiles := rfl
@[simp] theorem State.setRegion_net (f r : Nat) (v : Region) : (s.setRegion f r v).net = s.net := rfl
@[simp] theorem State.setRegion_chans (f r : Nat) (v : Region) : (s.setRegion f r v).chans = s.chans := rfl
@[simp] theorem State.setRegion_memIn (f r : Nat) (v : Region) : (s.setRegion f r v).memIn = s.memIn := rfl
@[simp] theorem State.setRegion_regions (f r : Nat) (v : Region) :
    (s.setRegion f r v).regions = tput s.regions (16 * f + r) v := rfl
@[simp] theorem State.setRegion_logic (f r : Nat) (v : Region) : (s.setRegion f r v).logic = s.logic := rfl
@[simp] theorem State.setRegion_fports (f r : Nat) (v : Region) : (s.setRegion f r v).fports = s.fports := rfl
@[simp] theorem State.setRegion_trips (f r : Nat) (v : Region) : (s.setRegion f r v).trips = s.trips := rfl
@[simp] theorem State.setRegion_fabs (f r : Nat) (v : Region) : (s.setRegion f r v).fabs = s.fabs := rfl
@[simp] theorem State.setRegion_edges (f r : Nat) (v : Region) : (s.setRegion f r v).edges = s.edges := rfl
@[simp] theorem State.setRegion_sds (f r : Nat) (v : Region) : (s.setRegion f r v).sds = s.sds := rfl
@[simp] theorem State.setRegion_gens (f r : Nat) (v : Region) : (s.setRegion f r v).gens = s.gens := rfl
@[simp] theorem State.setRegion_outs (f r : Nat) (v : Region) : (s.setRegion f r v).outs = s.outs := rfl
@[simp] theorem State.setRegion_verdicts (f r : Nat) (v : Region) : (s.setRegion f r v).verdicts = s.verdicts := rfl
@[simp] theorem State.setRegion_encs (f r : Nat) (v : Region) : (s.setRegion f r v).encs = s.encs := rfl
@[simp] theorem State.setRegion_lanes (f r : Nat) (v : Region) : (s.setRegion f r v).lanes = s.lanes := rfl
@[simp] theorem State.setRegion_host (f r : Nat) (v : Region) : (s.setRegion f r v).host = s.host := rfl
@[simp] theorem State.setRegion_eths (f r : Nat) (v : Region) : (s.setRegion f r v).eths = s.eths := rfl
@[simp] theorem State.setRegion_keeper (f r : Nat) (v : Region) : (s.setRegion f r v).keeper = s.keeper := rfl
@[simp] theorem State.setRegion_pacer (f r : Nat) (v : Region) : (s.setRegion f r v).pacer = s.pacer := rfl
@[simp] theorem State.setRegion_mint (f r : Nat) (v : Region) : (s.setRegion f r v).mint = s.mint := rfl
@[simp] theorem State.setRegion_boot (f r : Nat) (v : Region) : (s.setRegion f r v).boot = s.boot := rfl
@[simp] theorem State.setRegion_freshAt (f r : Nat) (v : Region) : (s.setRegion f r v).freshAt = s.freshAt := rfl
@[simp] theorem State.setRegion_fresh (f r : Nat) (v : Region) : (s.setRegion f r v).fresh = s.fresh := rfl
@[simp] theorem State.setRegion_free (f r : Nat) (v : Region) : (s.setRegion f r v).free = s.free := rfl
@[simp] theorem State.setRegion_pending (f r : Nat) (v : Region) : (s.setRegion f r v).pending = s.pending := rfl

/-! ### State.setLogic -/

@[simp] theorem State.setLogic_regs (f r : Nat) (v : Logic) : (s.setLogic f r v).regs = s.regs := rfl
@[simp] theorem State.setLogic_mem (f r : Nat) (v : Logic) : (s.setLogic f r v).mem = s.mem := rfl
@[simp] theorem State.setLogic_poison (f r : Nat) (v : Logic) : (s.setLogic f r v).poison = s.poison := rfl
@[simp] theorem State.setLogic_zeroTags (f r : Nat) (v : Logic) : (s.setLogic f r v).zeroTags = s.zeroTags := rfl
@[simp] theorem State.setLogic_cores (f r : Nat) (v : Logic) : (s.setLogic f r v).cores = s.cores := rfl
@[simp] theorem State.setLogic_tallies (f r : Nat) (v : Logic) : (s.setLogic f r v).tallies = s.tallies := rfl
@[simp] theorem State.setLogic_tellers (f r : Nat) (v : Logic) : (s.setLogic f r v).tellers = s.tellers := rfl
@[simp] theorem State.setLogic_escrow (f r : Nat) (v : Logic) : (s.setLogic f r v).escrow = s.escrow := rfl
@[simp] theorem State.setLogic_clearings (f r : Nat) (v : Logic) : (s.setLogic f r v).clearings = s.clearings := rfl
@[simp] theorem State.setLogic_tiles (f r : Nat) (v : Logic) : (s.setLogic f r v).tiles = s.tiles := rfl
@[simp] theorem State.setLogic_net (f r : Nat) (v : Logic) : (s.setLogic f r v).net = s.net := rfl
@[simp] theorem State.setLogic_chans (f r : Nat) (v : Logic) : (s.setLogic f r v).chans = s.chans := rfl
@[simp] theorem State.setLogic_memIn (f r : Nat) (v : Logic) : (s.setLogic f r v).memIn = s.memIn := rfl
@[simp] theorem State.setLogic_regions (f r : Nat) (v : Logic) : (s.setLogic f r v).regions = s.regions := rfl
@[simp] theorem State.setLogic_logic (f r : Nat) (v : Logic) :
    (s.setLogic f r v).logic = tput s.logic (16 * f + r) v := rfl
@[simp] theorem State.setLogic_fports (f r : Nat) (v : Logic) : (s.setLogic f r v).fports = s.fports := rfl
@[simp] theorem State.setLogic_trips (f r : Nat) (v : Logic) : (s.setLogic f r v).trips = s.trips := rfl
@[simp] theorem State.setLogic_fabs (f r : Nat) (v : Logic) : (s.setLogic f r v).fabs = s.fabs := rfl
@[simp] theorem State.setLogic_edges (f r : Nat) (v : Logic) : (s.setLogic f r v).edges = s.edges := rfl
@[simp] theorem State.setLogic_sds (f r : Nat) (v : Logic) : (s.setLogic f r v).sds = s.sds := rfl
@[simp] theorem State.setLogic_gens (f r : Nat) (v : Logic) : (s.setLogic f r v).gens = s.gens := rfl
@[simp] theorem State.setLogic_outs (f r : Nat) (v : Logic) : (s.setLogic f r v).outs = s.outs := rfl
@[simp] theorem State.setLogic_verdicts (f r : Nat) (v : Logic) : (s.setLogic f r v).verdicts = s.verdicts := rfl
@[simp] theorem State.setLogic_encs (f r : Nat) (v : Logic) : (s.setLogic f r v).encs = s.encs := rfl
@[simp] theorem State.setLogic_lanes (f r : Nat) (v : Logic) : (s.setLogic f r v).lanes = s.lanes := rfl
@[simp] theorem State.setLogic_host (f r : Nat) (v : Logic) : (s.setLogic f r v).host = s.host := rfl
@[simp] theorem State.setLogic_eths (f r : Nat) (v : Logic) : (s.setLogic f r v).eths = s.eths := rfl
@[simp] theorem State.setLogic_keeper (f r : Nat) (v : Logic) : (s.setLogic f r v).keeper = s.keeper := rfl
@[simp] theorem State.setLogic_pacer (f r : Nat) (v : Logic) : (s.setLogic f r v).pacer = s.pacer := rfl
@[simp] theorem State.setLogic_mint (f r : Nat) (v : Logic) : (s.setLogic f r v).mint = s.mint := rfl
@[simp] theorem State.setLogic_boot (f r : Nat) (v : Logic) : (s.setLogic f r v).boot = s.boot := rfl
@[simp] theorem State.setLogic_freshAt (f r : Nat) (v : Logic) : (s.setLogic f r v).freshAt = s.freshAt := rfl
@[simp] theorem State.setLogic_fresh (f r : Nat) (v : Logic) : (s.setLogic f r v).fresh = s.fresh := rfl
@[simp] theorem State.setLogic_free (f r : Nat) (v : Logic) : (s.setLogic f r v).free = s.free := rfl
@[simp] theorem State.setLogic_pending (f r : Nat) (v : Logic) : (s.setLogic f r v).pending = s.pending := rfl

/-! ### State.setFport -/

@[simp] theorem State.setFport_regs (f p : Nat) (v : FabPort) : (s.setFport f p v).regs = s.regs := rfl
@[simp] theorem State.setFport_mem (f p : Nat) (v : FabPort) : (s.setFport f p v).mem = s.mem := rfl
@[simp] theorem State.setFport_poison (f p : Nat) (v : FabPort) : (s.setFport f p v).poison = s.poison := rfl
@[simp] theorem State.setFport_zeroTags (f p : Nat) (v : FabPort) : (s.setFport f p v).zeroTags = s.zeroTags := rfl
@[simp] theorem State.setFport_cores (f p : Nat) (v : FabPort) : (s.setFport f p v).cores = s.cores := rfl
@[simp] theorem State.setFport_tallies (f p : Nat) (v : FabPort) : (s.setFport f p v).tallies = s.tallies := rfl
@[simp] theorem State.setFport_tellers (f p : Nat) (v : FabPort) : (s.setFport f p v).tellers = s.tellers := rfl
@[simp] theorem State.setFport_escrow (f p : Nat) (v : FabPort) : (s.setFport f p v).escrow = s.escrow := rfl
@[simp] theorem State.setFport_clearings (f p : Nat) (v : FabPort) : (s.setFport f p v).clearings = s.clearings := rfl
@[simp] theorem State.setFport_tiles (f p : Nat) (v : FabPort) : (s.setFport f p v).tiles = s.tiles := rfl
@[simp] theorem State.setFport_net (f p : Nat) (v : FabPort) : (s.setFport f p v).net = s.net := rfl
@[simp] theorem State.setFport_chans (f p : Nat) (v : FabPort) : (s.setFport f p v).chans = s.chans := rfl
@[simp] theorem State.setFport_memIn (f p : Nat) (v : FabPort) : (s.setFport f p v).memIn = s.memIn := rfl
@[simp] theorem State.setFport_regions (f p : Nat) (v : FabPort) : (s.setFport f p v).regions = s.regions := rfl
@[simp] theorem State.setFport_logic (f p : Nat) (v : FabPort) : (s.setFport f p v).logic = s.logic := rfl
@[simp] theorem State.setFport_fports (f p : Nat) (v : FabPort) :
    (s.setFport f p v).fports = tput s.fports (128 * f + p) v := rfl
@[simp] theorem State.setFport_trips (f p : Nat) (v : FabPort) : (s.setFport f p v).trips = s.trips := rfl
@[simp] theorem State.setFport_fabs (f p : Nat) (v : FabPort) : (s.setFport f p v).fabs = s.fabs := rfl
@[simp] theorem State.setFport_edges (f p : Nat) (v : FabPort) : (s.setFport f p v).edges = s.edges := rfl
@[simp] theorem State.setFport_sds (f p : Nat) (v : FabPort) : (s.setFport f p v).sds = s.sds := rfl
@[simp] theorem State.setFport_gens (f p : Nat) (v : FabPort) : (s.setFport f p v).gens = s.gens := rfl
@[simp] theorem State.setFport_outs (f p : Nat) (v : FabPort) : (s.setFport f p v).outs = s.outs := rfl
@[simp] theorem State.setFport_verdicts (f p : Nat) (v : FabPort) : (s.setFport f p v).verdicts = s.verdicts := rfl
@[simp] theorem State.setFport_encs (f p : Nat) (v : FabPort) : (s.setFport f p v).encs = s.encs := rfl
@[simp] theorem State.setFport_lanes (f p : Nat) (v : FabPort) : (s.setFport f p v).lanes = s.lanes := rfl
@[simp] theorem State.setFport_host (f p : Nat) (v : FabPort) : (s.setFport f p v).host = s.host := rfl
@[simp] theorem State.setFport_eths (f p : Nat) (v : FabPort) : (s.setFport f p v).eths = s.eths := rfl
@[simp] theorem State.setFport_keeper (f p : Nat) (v : FabPort) : (s.setFport f p v).keeper = s.keeper := rfl
@[simp] theorem State.setFport_pacer (f p : Nat) (v : FabPort) : (s.setFport f p v).pacer = s.pacer := rfl
@[simp] theorem State.setFport_mint (f p : Nat) (v : FabPort) : (s.setFport f p v).mint = s.mint := rfl
@[simp] theorem State.setFport_boot (f p : Nat) (v : FabPort) : (s.setFport f p v).boot = s.boot := rfl
@[simp] theorem State.setFport_freshAt (f p : Nat) (v : FabPort) : (s.setFport f p v).freshAt = s.freshAt := rfl
@[simp] theorem State.setFport_fresh (f p : Nat) (v : FabPort) : (s.setFport f p v).fresh = s.fresh := rfl
@[simp] theorem State.setFport_free (f p : Nat) (v : FabPort) : (s.setFport f p v).free = s.free := rfl
@[simp] theorem State.setFport_pending (f p : Nat) (v : FabPort) : (s.setFport f p v).pending = s.pending := rfl

/-! ### State.setTrip -/

@[simp] theorem State.setTrip_regs (f k : Nat) (v : TripCell) : (s.setTrip f k v).regs = s.regs := rfl
@[simp] theorem State.setTrip_mem (f k : Nat) (v : TripCell) : (s.setTrip f k v).mem = s.mem := rfl
@[simp] theorem State.setTrip_poison (f k : Nat) (v : TripCell) : (s.setTrip f k v).poison = s.poison := rfl
@[simp] theorem State.setTrip_zeroTags (f k : Nat) (v : TripCell) : (s.setTrip f k v).zeroTags = s.zeroTags := rfl
@[simp] theorem State.setTrip_cores (f k : Nat) (v : TripCell) : (s.setTrip f k v).cores = s.cores := rfl
@[simp] theorem State.setTrip_tallies (f k : Nat) (v : TripCell) : (s.setTrip f k v).tallies = s.tallies := rfl
@[simp] theorem State.setTrip_tellers (f k : Nat) (v : TripCell) : (s.setTrip f k v).tellers = s.tellers := rfl
@[simp] theorem State.setTrip_escrow (f k : Nat) (v : TripCell) : (s.setTrip f k v).escrow = s.escrow := rfl
@[simp] theorem State.setTrip_clearings (f k : Nat) (v : TripCell) : (s.setTrip f k v).clearings = s.clearings := rfl
@[simp] theorem State.setTrip_tiles (f k : Nat) (v : TripCell) : (s.setTrip f k v).tiles = s.tiles := rfl
@[simp] theorem State.setTrip_net (f k : Nat) (v : TripCell) : (s.setTrip f k v).net = s.net := rfl
@[simp] theorem State.setTrip_chans (f k : Nat) (v : TripCell) : (s.setTrip f k v).chans = s.chans := rfl
@[simp] theorem State.setTrip_memIn (f k : Nat) (v : TripCell) : (s.setTrip f k v).memIn = s.memIn := rfl
@[simp] theorem State.setTrip_regions (f k : Nat) (v : TripCell) : (s.setTrip f k v).regions = s.regions := rfl
@[simp] theorem State.setTrip_logic (f k : Nat) (v : TripCell) : (s.setTrip f k v).logic = s.logic := rfl
@[simp] theorem State.setTrip_fports (f k : Nat) (v : TripCell) : (s.setTrip f k v).fports = s.fports := rfl
@[simp] theorem State.setTrip_trips (f k : Nat) (v : TripCell) :
    (s.setTrip f k v).trips = tput s.trips (tripKey f k) v := rfl
@[simp] theorem State.setTrip_fabs (f k : Nat) (v : TripCell) : (s.setTrip f k v).fabs = s.fabs := rfl
@[simp] theorem State.setTrip_edges (f k : Nat) (v : TripCell) : (s.setTrip f k v).edges = s.edges := rfl
@[simp] theorem State.setTrip_sds (f k : Nat) (v : TripCell) : (s.setTrip f k v).sds = s.sds := rfl
@[simp] theorem State.setTrip_gens (f k : Nat) (v : TripCell) : (s.setTrip f k v).gens = s.gens := rfl
@[simp] theorem State.setTrip_outs (f k : Nat) (v : TripCell) : (s.setTrip f k v).outs = s.outs := rfl
@[simp] theorem State.setTrip_verdicts (f k : Nat) (v : TripCell) : (s.setTrip f k v).verdicts = s.verdicts := rfl
@[simp] theorem State.setTrip_encs (f k : Nat) (v : TripCell) : (s.setTrip f k v).encs = s.encs := rfl
@[simp] theorem State.setTrip_lanes (f k : Nat) (v : TripCell) : (s.setTrip f k v).lanes = s.lanes := rfl
@[simp] theorem State.setTrip_host (f k : Nat) (v : TripCell) : (s.setTrip f k v).host = s.host := rfl
@[simp] theorem State.setTrip_eths (f k : Nat) (v : TripCell) : (s.setTrip f k v).eths = s.eths := rfl
@[simp] theorem State.setTrip_keeper (f k : Nat) (v : TripCell) : (s.setTrip f k v).keeper = s.keeper := rfl
@[simp] theorem State.setTrip_pacer (f k : Nat) (v : TripCell) : (s.setTrip f k v).pacer = s.pacer := rfl
@[simp] theorem State.setTrip_mint (f k : Nat) (v : TripCell) : (s.setTrip f k v).mint = s.mint := rfl
@[simp] theorem State.setTrip_boot (f k : Nat) (v : TripCell) : (s.setTrip f k v).boot = s.boot := rfl
@[simp] theorem State.setTrip_freshAt (f k : Nat) (v : TripCell) : (s.setTrip f k v).freshAt = s.freshAt := rfl
@[simp] theorem State.setTrip_fresh (f k : Nat) (v : TripCell) : (s.setTrip f k v).fresh = s.fresh := rfl
@[simp] theorem State.setTrip_free (f k : Nat) (v : TripCell) : (s.setTrip f k v).free = s.free := rfl
@[simp] theorem State.setTrip_pending (f k : Nat) (v : TripCell) : (s.setTrip f k v).pending = s.pending := rfl

/-! ### State.setFab -/

@[simp] theorem State.setFab_regs (f : Nat) (v : FabDie) : (s.setFab f v).regs = s.regs := rfl
@[simp] theorem State.setFab_mem (f : Nat) (v : FabDie) : (s.setFab f v).mem = s.mem := rfl
@[simp] theorem State.setFab_poison (f : Nat) (v : FabDie) : (s.setFab f v).poison = s.poison := rfl
@[simp] theorem State.setFab_zeroTags (f : Nat) (v : FabDie) : (s.setFab f v).zeroTags = s.zeroTags := rfl
@[simp] theorem State.setFab_cores (f : Nat) (v : FabDie) : (s.setFab f v).cores = s.cores := rfl
@[simp] theorem State.setFab_tallies (f : Nat) (v : FabDie) : (s.setFab f v).tallies = s.tallies := rfl
@[simp] theorem State.setFab_tellers (f : Nat) (v : FabDie) : (s.setFab f v).tellers = s.tellers := rfl
@[simp] theorem State.setFab_escrow (f : Nat) (v : FabDie) : (s.setFab f v).escrow = s.escrow := rfl
@[simp] theorem State.setFab_clearings (f : Nat) (v : FabDie) : (s.setFab f v).clearings = s.clearings := rfl
@[simp] theorem State.setFab_tiles (f : Nat) (v : FabDie) : (s.setFab f v).tiles = s.tiles := rfl
@[simp] theorem State.setFab_net (f : Nat) (v : FabDie) : (s.setFab f v).net = s.net := rfl
@[simp] theorem State.setFab_chans (f : Nat) (v : FabDie) : (s.setFab f v).chans = s.chans := rfl
@[simp] theorem State.setFab_memIn (f : Nat) (v : FabDie) : (s.setFab f v).memIn = s.memIn := rfl
@[simp] theorem State.setFab_regions (f : Nat) (v : FabDie) : (s.setFab f v).regions = s.regions := rfl
@[simp] theorem State.setFab_logic (f : Nat) (v : FabDie) : (s.setFab f v).logic = s.logic := rfl
@[simp] theorem State.setFab_fports (f : Nat) (v : FabDie) : (s.setFab f v).fports = s.fports := rfl
@[simp] theorem State.setFab_trips (f : Nat) (v : FabDie) : (s.setFab f v).trips = s.trips := rfl
@[simp] theorem State.setFab_fabs (f : Nat) (v : FabDie) : (s.setFab f v).fabs = tput s.fabs f v := rfl
@[simp] theorem State.setFab_edges (f : Nat) (v : FabDie) : (s.setFab f v).edges = s.edges := rfl
@[simp] theorem State.setFab_sds (f : Nat) (v : FabDie) : (s.setFab f v).sds = s.sds := rfl
@[simp] theorem State.setFab_gens (f : Nat) (v : FabDie) : (s.setFab f v).gens = s.gens := rfl
@[simp] theorem State.setFab_outs (f : Nat) (v : FabDie) : (s.setFab f v).outs = s.outs := rfl
@[simp] theorem State.setFab_verdicts (f : Nat) (v : FabDie) : (s.setFab f v).verdicts = s.verdicts := rfl
@[simp] theorem State.setFab_encs (f : Nat) (v : FabDie) : (s.setFab f v).encs = s.encs := rfl
@[simp] theorem State.setFab_lanes (f : Nat) (v : FabDie) : (s.setFab f v).lanes = s.lanes := rfl
@[simp] theorem State.setFab_host (f : Nat) (v : FabDie) : (s.setFab f v).host = s.host := rfl
@[simp] theorem State.setFab_eths (f : Nat) (v : FabDie) : (s.setFab f v).eths = s.eths := rfl
@[simp] theorem State.setFab_keeper (f : Nat) (v : FabDie) : (s.setFab f v).keeper = s.keeper := rfl
@[simp] theorem State.setFab_pacer (f : Nat) (v : FabDie) : (s.setFab f v).pacer = s.pacer := rfl
@[simp] theorem State.setFab_mint (f : Nat) (v : FabDie) : (s.setFab f v).mint = s.mint := rfl
@[simp] theorem State.setFab_boot (f : Nat) (v : FabDie) : (s.setFab f v).boot = s.boot := rfl
@[simp] theorem State.setFab_freshAt (f : Nat) (v : FabDie) : (s.setFab f v).freshAt = s.freshAt := rfl
@[simp] theorem State.setFab_fresh (f : Nat) (v : FabDie) : (s.setFab f v).fresh = s.fresh := rfl
@[simp] theorem State.setFab_free (f : Nat) (v : FabDie) : (s.setFab f v).free = s.free := rfl
@[simp] theorem State.setFab_pending (f : Nat) (v : FabDie) : (s.setFab f v).pending = s.pending := rfl

/-! ### State.setEdge -/

@[simp] theorem State.setEdge_regs (e : Nat) (v : EdgeDie) : (s.setEdge e v).regs = s.regs := rfl
@[simp] theorem State.setEdge_mem (e : Nat) (v : EdgeDie) : (s.setEdge e v).mem = s.mem := rfl
@[simp] theorem State.setEdge_poison (e : Nat) (v : EdgeDie) : (s.setEdge e v).poison = s.poison := rfl
@[simp] theorem State.setEdge_zeroTags (e : Nat) (v : EdgeDie) : (s.setEdge e v).zeroTags = s.zeroTags := rfl
@[simp] theorem State.setEdge_cores (e : Nat) (v : EdgeDie) : (s.setEdge e v).cores = s.cores := rfl
@[simp] theorem State.setEdge_tallies (e : Nat) (v : EdgeDie) : (s.setEdge e v).tallies = s.tallies := rfl
@[simp] theorem State.setEdge_tellers (e : Nat) (v : EdgeDie) : (s.setEdge e v).tellers = s.tellers := rfl
@[simp] theorem State.setEdge_escrow (e : Nat) (v : EdgeDie) : (s.setEdge e v).escrow = s.escrow := rfl
@[simp] theorem State.setEdge_clearings (e : Nat) (v : EdgeDie) : (s.setEdge e v).clearings = s.clearings := rfl
@[simp] theorem State.setEdge_tiles (e : Nat) (v : EdgeDie) : (s.setEdge e v).tiles = s.tiles := rfl
@[simp] theorem State.setEdge_net (e : Nat) (v : EdgeDie) : (s.setEdge e v).net = s.net := rfl
@[simp] theorem State.setEdge_chans (e : Nat) (v : EdgeDie) : (s.setEdge e v).chans = s.chans := rfl
@[simp] theorem State.setEdge_memIn (e : Nat) (v : EdgeDie) : (s.setEdge e v).memIn = s.memIn := rfl
@[simp] theorem State.setEdge_regions (e : Nat) (v : EdgeDie) : (s.setEdge e v).regions = s.regions := rfl
@[simp] theorem State.setEdge_logic (e : Nat) (v : EdgeDie) : (s.setEdge e v).logic = s.logic := rfl
@[simp] theorem State.setEdge_fports (e : Nat) (v : EdgeDie) : (s.setEdge e v).fports = s.fports := rfl
@[simp] theorem State.setEdge_trips (e : Nat) (v : EdgeDie) : (s.setEdge e v).trips = s.trips := rfl
@[simp] theorem State.setEdge_fabs (e : Nat) (v : EdgeDie) : (s.setEdge e v).fabs = s.fabs := rfl
@[simp] theorem State.setEdge_edges (e : Nat) (v : EdgeDie) : (s.setEdge e v).edges = tput s.edges e v := rfl
@[simp] theorem State.setEdge_sds (e : Nat) (v : EdgeDie) : (s.setEdge e v).sds = s.sds := rfl
@[simp] theorem State.setEdge_gens (e : Nat) (v : EdgeDie) : (s.setEdge e v).gens = s.gens := rfl
@[simp] theorem State.setEdge_outs (e : Nat) (v : EdgeDie) : (s.setEdge e v).outs = s.outs := rfl
@[simp] theorem State.setEdge_verdicts (e : Nat) (v : EdgeDie) : (s.setEdge e v).verdicts = s.verdicts := rfl
@[simp] theorem State.setEdge_encs (e : Nat) (v : EdgeDie) : (s.setEdge e v).encs = s.encs := rfl
@[simp] theorem State.setEdge_lanes (e : Nat) (v : EdgeDie) : (s.setEdge e v).lanes = s.lanes := rfl
@[simp] theorem State.setEdge_host (e : Nat) (v : EdgeDie) : (s.setEdge e v).host = s.host := rfl
@[simp] theorem State.setEdge_eths (e : Nat) (v : EdgeDie) : (s.setEdge e v).eths = s.eths := rfl
@[simp] theorem State.setEdge_keeper (e : Nat) (v : EdgeDie) : (s.setEdge e v).keeper = s.keeper := rfl
@[simp] theorem State.setEdge_pacer (e : Nat) (v : EdgeDie) : (s.setEdge e v).pacer = s.pacer := rfl
@[simp] theorem State.setEdge_mint (e : Nat) (v : EdgeDie) : (s.setEdge e v).mint = s.mint := rfl
@[simp] theorem State.setEdge_boot (e : Nat) (v : EdgeDie) : (s.setEdge e v).boot = s.boot := rfl
@[simp] theorem State.setEdge_freshAt (e : Nat) (v : EdgeDie) : (s.setEdge e v).freshAt = s.freshAt := rfl
@[simp] theorem State.setEdge_fresh (e : Nat) (v : EdgeDie) : (s.setEdge e v).fresh = s.fresh := rfl
@[simp] theorem State.setEdge_free (e : Nat) (v : EdgeDie) : (s.setEdge e v).free = s.free := rfl
@[simp] theorem State.setEdge_pending (e : Nat) (v : EdgeDie) : (s.setEdge e v).pending = s.pending := rfl

/-! ### State.setSd -/

@[simp] theorem State.setSd_regs (e ch : Nat) (v : SdCh) : (s.setSd e ch v).regs = s.regs := rfl
@[simp] theorem State.setSd_mem (e ch : Nat) (v : SdCh) : (s.setSd e ch v).mem = s.mem := rfl
@[simp] theorem State.setSd_poison (e ch : Nat) (v : SdCh) : (s.setSd e ch v).poison = s.poison := rfl
@[simp] theorem State.setSd_zeroTags (e ch : Nat) (v : SdCh) : (s.setSd e ch v).zeroTags = s.zeroTags := rfl
@[simp] theorem State.setSd_cores (e ch : Nat) (v : SdCh) : (s.setSd e ch v).cores = s.cores := rfl
@[simp] theorem State.setSd_tallies (e ch : Nat) (v : SdCh) : (s.setSd e ch v).tallies = s.tallies := rfl
@[simp] theorem State.setSd_tellers (e ch : Nat) (v : SdCh) : (s.setSd e ch v).tellers = s.tellers := rfl
@[simp] theorem State.setSd_escrow (e ch : Nat) (v : SdCh) : (s.setSd e ch v).escrow = s.escrow := rfl
@[simp] theorem State.setSd_clearings (e ch : Nat) (v : SdCh) : (s.setSd e ch v).clearings = s.clearings := rfl
@[simp] theorem State.setSd_tiles (e ch : Nat) (v : SdCh) : (s.setSd e ch v).tiles = s.tiles := rfl
@[simp] theorem State.setSd_net (e ch : Nat) (v : SdCh) : (s.setSd e ch v).net = s.net := rfl
@[simp] theorem State.setSd_chans (e ch : Nat) (v : SdCh) : (s.setSd e ch v).chans = s.chans := rfl
@[simp] theorem State.setSd_memIn (e ch : Nat) (v : SdCh) : (s.setSd e ch v).memIn = s.memIn := rfl
@[simp] theorem State.setSd_regions (e ch : Nat) (v : SdCh) : (s.setSd e ch v).regions = s.regions := rfl
@[simp] theorem State.setSd_logic (e ch : Nat) (v : SdCh) : (s.setSd e ch v).logic = s.logic := rfl
@[simp] theorem State.setSd_fports (e ch : Nat) (v : SdCh) : (s.setSd e ch v).fports = s.fports := rfl
@[simp] theorem State.setSd_trips (e ch : Nat) (v : SdCh) : (s.setSd e ch v).trips = s.trips := rfl
@[simp] theorem State.setSd_fabs (e ch : Nat) (v : SdCh) : (s.setSd e ch v).fabs = s.fabs := rfl
@[simp] theorem State.setSd_edges (e ch : Nat) (v : SdCh) : (s.setSd e ch v).edges = s.edges := rfl
@[simp] theorem State.setSd_sds (e ch : Nat) (v : SdCh) : (s.setSd e ch v).sds = tput s.sds (64 * e + ch) v := rfl
@[simp] theorem State.setSd_gens (e ch : Nat) (v : SdCh) : (s.setSd e ch v).gens = s.gens := rfl
@[simp] theorem State.setSd_outs (e ch : Nat) (v : SdCh) : (s.setSd e ch v).outs = s.outs := rfl
@[simp] theorem State.setSd_verdicts (e ch : Nat) (v : SdCh) : (s.setSd e ch v).verdicts = s.verdicts := rfl
@[simp] theorem State.setSd_encs (e ch : Nat) (v : SdCh) : (s.setSd e ch v).encs = s.encs := rfl
@[simp] theorem State.setSd_lanes (e ch : Nat) (v : SdCh) : (s.setSd e ch v).lanes = s.lanes := rfl
@[simp] theorem State.setSd_host (e ch : Nat) (v : SdCh) : (s.setSd e ch v).host = s.host := rfl
@[simp] theorem State.setSd_eths (e ch : Nat) (v : SdCh) : (s.setSd e ch v).eths = s.eths := rfl
@[simp] theorem State.setSd_keeper (e ch : Nat) (v : SdCh) : (s.setSd e ch v).keeper = s.keeper := rfl
@[simp] theorem State.setSd_pacer (e ch : Nat) (v : SdCh) : (s.setSd e ch v).pacer = s.pacer := rfl
@[simp] theorem State.setSd_mint (e ch : Nat) (v : SdCh) : (s.setSd e ch v).mint = s.mint := rfl
@[simp] theorem State.setSd_boot (e ch : Nat) (v : SdCh) : (s.setSd e ch v).boot = s.boot := rfl
@[simp] theorem State.setSd_freshAt (e ch : Nat) (v : SdCh) : (s.setSd e ch v).freshAt = s.freshAt := rfl
@[simp] theorem State.setSd_fresh (e ch : Nat) (v : SdCh) : (s.setSd e ch v).fresh = s.fresh := rfl
@[simp] theorem State.setSd_free (e ch : Nat) (v : SdCh) : (s.setSd e ch v).free = s.free := rfl
@[simp] theorem State.setSd_pending (e ch : Nat) (v : SdCh) : (s.setSd e ch v).pending = s.pending := rfl

/-! ### State.setGen -/

@[simp] theorem State.setGen_regs (e g : Nat) (v : Gen) : (s.setGen e g v).regs = s.regs := rfl
@[simp] theorem State.setGen_mem (e g : Nat) (v : Gen) : (s.setGen e g v).mem = s.mem := rfl
@[simp] theorem State.setGen_poison (e g : Nat) (v : Gen) : (s.setGen e g v).poison = s.poison := rfl
@[simp] theorem State.setGen_zeroTags (e g : Nat) (v : Gen) : (s.setGen e g v).zeroTags = s.zeroTags := rfl
@[simp] theorem State.setGen_cores (e g : Nat) (v : Gen) : (s.setGen e g v).cores = s.cores := rfl
@[simp] theorem State.setGen_tallies (e g : Nat) (v : Gen) : (s.setGen e g v).tallies = s.tallies := rfl
@[simp] theorem State.setGen_tellers (e g : Nat) (v : Gen) : (s.setGen e g v).tellers = s.tellers := rfl
@[simp] theorem State.setGen_escrow (e g : Nat) (v : Gen) : (s.setGen e g v).escrow = s.escrow := rfl
@[simp] theorem State.setGen_clearings (e g : Nat) (v : Gen) : (s.setGen e g v).clearings = s.clearings := rfl
@[simp] theorem State.setGen_tiles (e g : Nat) (v : Gen) : (s.setGen e g v).tiles = s.tiles := rfl
@[simp] theorem State.setGen_net (e g : Nat) (v : Gen) : (s.setGen e g v).net = s.net := rfl
@[simp] theorem State.setGen_chans (e g : Nat) (v : Gen) : (s.setGen e g v).chans = s.chans := rfl
@[simp] theorem State.setGen_memIn (e g : Nat) (v : Gen) : (s.setGen e g v).memIn = s.memIn := rfl
@[simp] theorem State.setGen_regions (e g : Nat) (v : Gen) : (s.setGen e g v).regions = s.regions := rfl
@[simp] theorem State.setGen_logic (e g : Nat) (v : Gen) : (s.setGen e g v).logic = s.logic := rfl
@[simp] theorem State.setGen_fports (e g : Nat) (v : Gen) : (s.setGen e g v).fports = s.fports := rfl
@[simp] theorem State.setGen_trips (e g : Nat) (v : Gen) : (s.setGen e g v).trips = s.trips := rfl
@[simp] theorem State.setGen_fabs (e g : Nat) (v : Gen) : (s.setGen e g v).fabs = s.fabs := rfl
@[simp] theorem State.setGen_edges (e g : Nat) (v : Gen) : (s.setGen e g v).edges = s.edges := rfl
@[simp] theorem State.setGen_sds (e g : Nat) (v : Gen) : (s.setGen e g v).sds = s.sds := rfl
@[simp] theorem State.setGen_gens (e g : Nat) (v : Gen) : (s.setGen e g v).gens = tput s.gens (64 * e + g) v := rfl
@[simp] theorem State.setGen_outs (e g : Nat) (v : Gen) : (s.setGen e g v).outs = s.outs := rfl
@[simp] theorem State.setGen_verdicts (e g : Nat) (v : Gen) : (s.setGen e g v).verdicts = s.verdicts := rfl
@[simp] theorem State.setGen_encs (e g : Nat) (v : Gen) : (s.setGen e g v).encs = s.encs := rfl
@[simp] theorem State.setGen_lanes (e g : Nat) (v : Gen) : (s.setGen e g v).lanes = s.lanes := rfl
@[simp] theorem State.setGen_host (e g : Nat) (v : Gen) : (s.setGen e g v).host = s.host := rfl
@[simp] theorem State.setGen_eths (e g : Nat) (v : Gen) : (s.setGen e g v).eths = s.eths := rfl
@[simp] theorem State.setGen_keeper (e g : Nat) (v : Gen) : (s.setGen e g v).keeper = s.keeper := rfl
@[simp] theorem State.setGen_pacer (e g : Nat) (v : Gen) : (s.setGen e g v).pacer = s.pacer := rfl
@[simp] theorem State.setGen_mint (e g : Nat) (v : Gen) : (s.setGen e g v).mint = s.mint := rfl
@[simp] theorem State.setGen_boot (e g : Nat) (v : Gen) : (s.setGen e g v).boot = s.boot := rfl
@[simp] theorem State.setGen_freshAt (e g : Nat) (v : Gen) : (s.setGen e g v).freshAt = s.freshAt := rfl
@[simp] theorem State.setGen_fresh (e g : Nat) (v : Gen) : (s.setGen e g v).fresh = s.fresh := rfl
@[simp] theorem State.setGen_free (e g : Nat) (v : Gen) : (s.setGen e g v).free = s.free := rfl
@[simp] theorem State.setGen_pending (e g : Nat) (v : Gen) : (s.setGen e g v).pending = s.pending := rfl

/-! ### State.setOut -/

@[simp] theorem State.setOut_regs (da g : Nat) (v : OutGroup) : (s.setOut da g v).regs = s.regs := rfl
@[simp] theorem State.setOut_mem (da g : Nat) (v : OutGroup) : (s.setOut da g v).mem = s.mem := rfl
@[simp] theorem State.setOut_poison (da g : Nat) (v : OutGroup) : (s.setOut da g v).poison = s.poison := rfl
@[simp] theorem State.setOut_zeroTags (da g : Nat) (v : OutGroup) : (s.setOut da g v).zeroTags = s.zeroTags := rfl
@[simp] theorem State.setOut_cores (da g : Nat) (v : OutGroup) : (s.setOut da g v).cores = s.cores := rfl
@[simp] theorem State.setOut_tallies (da g : Nat) (v : OutGroup) : (s.setOut da g v).tallies = s.tallies := rfl
@[simp] theorem State.setOut_tellers (da g : Nat) (v : OutGroup) : (s.setOut da g v).tellers = s.tellers := rfl
@[simp] theorem State.setOut_escrow (da g : Nat) (v : OutGroup) : (s.setOut da g v).escrow = s.escrow := rfl
@[simp] theorem State.setOut_clearings (da g : Nat) (v : OutGroup) : (s.setOut da g v).clearings = s.clearings := rfl
@[simp] theorem State.setOut_tiles (da g : Nat) (v : OutGroup) : (s.setOut da g v).tiles = s.tiles := rfl
@[simp] theorem State.setOut_net (da g : Nat) (v : OutGroup) : (s.setOut da g v).net = s.net := rfl
@[simp] theorem State.setOut_chans (da g : Nat) (v : OutGroup) : (s.setOut da g v).chans = s.chans := rfl
@[simp] theorem State.setOut_memIn (da g : Nat) (v : OutGroup) : (s.setOut da g v).memIn = s.memIn := rfl
@[simp] theorem State.setOut_regions (da g : Nat) (v : OutGroup) : (s.setOut da g v).regions = s.regions := rfl
@[simp] theorem State.setOut_logic (da g : Nat) (v : OutGroup) : (s.setOut da g v).logic = s.logic := rfl
@[simp] theorem State.setOut_fports (da g : Nat) (v : OutGroup) : (s.setOut da g v).fports = s.fports := rfl
@[simp] theorem State.setOut_trips (da g : Nat) (v : OutGroup) : (s.setOut da g v).trips = s.trips := rfl
@[simp] theorem State.setOut_fabs (da g : Nat) (v : OutGroup) : (s.setOut da g v).fabs = s.fabs := rfl
@[simp] theorem State.setOut_edges (da g : Nat) (v : OutGroup) : (s.setOut da g v).edges = s.edges := rfl
@[simp] theorem State.setOut_sds (da g : Nat) (v : OutGroup) : (s.setOut da g v).sds = s.sds := rfl
@[simp] theorem State.setOut_gens (da g : Nat) (v : OutGroup) : (s.setOut da g v).gens = s.gens := rfl
@[simp] theorem State.setOut_outs (da g : Nat) (v : OutGroup) :
    (s.setOut da g v).outs = tput s.outs (16 * da + g) v := rfl
@[simp] theorem State.setOut_verdicts (da g : Nat) (v : OutGroup) : (s.setOut da g v).verdicts = s.verdicts := rfl
@[simp] theorem State.setOut_encs (da g : Nat) (v : OutGroup) : (s.setOut da g v).encs = s.encs := rfl
@[simp] theorem State.setOut_lanes (da g : Nat) (v : OutGroup) : (s.setOut da g v).lanes = s.lanes := rfl
@[simp] theorem State.setOut_host (da g : Nat) (v : OutGroup) : (s.setOut da g v).host = s.host := rfl
@[simp] theorem State.setOut_eths (da g : Nat) (v : OutGroup) : (s.setOut da g v).eths = s.eths := rfl
@[simp] theorem State.setOut_keeper (da g : Nat) (v : OutGroup) : (s.setOut da g v).keeper = s.keeper := rfl
@[simp] theorem State.setOut_pacer (da g : Nat) (v : OutGroup) : (s.setOut da g v).pacer = s.pacer := rfl
@[simp] theorem State.setOut_mint (da g : Nat) (v : OutGroup) : (s.setOut da g v).mint = s.mint := rfl
@[simp] theorem State.setOut_boot (da g : Nat) (v : OutGroup) : (s.setOut da g v).boot = s.boot := rfl
@[simp] theorem State.setOut_freshAt (da g : Nat) (v : OutGroup) : (s.setOut da g v).freshAt = s.freshAt := rfl
@[simp] theorem State.setOut_fresh (da g : Nat) (v : OutGroup) : (s.setOut da g v).fresh = s.fresh := rfl
@[simp] theorem State.setOut_free (da g : Nat) (v : OutGroup) : (s.setOut da g v).free = s.free := rfl
@[simp] theorem State.setOut_pending (da g : Nat) (v : OutGroup) : (s.setOut da g v).pending = s.pending := rfl

/-! ### State.setEnc -/

@[simp] theorem State.setEnc_regs (e n : Nat) (v : Enc) : (s.setEnc e n v).regs = s.regs := rfl
@[simp] theorem State.setEnc_mem (e n : Nat) (v : Enc) : (s.setEnc e n v).mem = s.mem := rfl
@[simp] theorem State.setEnc_poison (e n : Nat) (v : Enc) : (s.setEnc e n v).poison = s.poison := rfl
@[simp] theorem State.setEnc_zeroTags (e n : Nat) (v : Enc) : (s.setEnc e n v).zeroTags = s.zeroTags := rfl
@[simp] theorem State.setEnc_cores (e n : Nat) (v : Enc) : (s.setEnc e n v).cores = s.cores := rfl
@[simp] theorem State.setEnc_tallies (e n : Nat) (v : Enc) : (s.setEnc e n v).tallies = s.tallies := rfl
@[simp] theorem State.setEnc_tellers (e n : Nat) (v : Enc) : (s.setEnc e n v).tellers = s.tellers := rfl
@[simp] theorem State.setEnc_escrow (e n : Nat) (v : Enc) : (s.setEnc e n v).escrow = s.escrow := rfl
@[simp] theorem State.setEnc_clearings (e n : Nat) (v : Enc) : (s.setEnc e n v).clearings = s.clearings := rfl
@[simp] theorem State.setEnc_tiles (e n : Nat) (v : Enc) : (s.setEnc e n v).tiles = s.tiles := rfl
@[simp] theorem State.setEnc_net (e n : Nat) (v : Enc) : (s.setEnc e n v).net = s.net := rfl
@[simp] theorem State.setEnc_chans (e n : Nat) (v : Enc) : (s.setEnc e n v).chans = s.chans := rfl
@[simp] theorem State.setEnc_memIn (e n : Nat) (v : Enc) : (s.setEnc e n v).memIn = s.memIn := rfl
@[simp] theorem State.setEnc_regions (e n : Nat) (v : Enc) : (s.setEnc e n v).regions = s.regions := rfl
@[simp] theorem State.setEnc_logic (e n : Nat) (v : Enc) : (s.setEnc e n v).logic = s.logic := rfl
@[simp] theorem State.setEnc_fports (e n : Nat) (v : Enc) : (s.setEnc e n v).fports = s.fports := rfl
@[simp] theorem State.setEnc_trips (e n : Nat) (v : Enc) : (s.setEnc e n v).trips = s.trips := rfl
@[simp] theorem State.setEnc_fabs (e n : Nat) (v : Enc) : (s.setEnc e n v).fabs = s.fabs := rfl
@[simp] theorem State.setEnc_edges (e n : Nat) (v : Enc) : (s.setEnc e n v).edges = s.edges := rfl
@[simp] theorem State.setEnc_sds (e n : Nat) (v : Enc) : (s.setEnc e n v).sds = s.sds := rfl
@[simp] theorem State.setEnc_gens (e n : Nat) (v : Enc) : (s.setEnc e n v).gens = s.gens := rfl
@[simp] theorem State.setEnc_outs (e n : Nat) (v : Enc) : (s.setEnc e n v).outs = s.outs := rfl
@[simp] theorem State.setEnc_verdicts (e n : Nat) (v : Enc) : (s.setEnc e n v).verdicts = s.verdicts := rfl
@[simp] theorem State.setEnc_encs (e n : Nat) (v : Enc) : (s.setEnc e n v).encs = tput s.encs (16 * e + n) v := rfl
@[simp] theorem State.setEnc_lanes (e n : Nat) (v : Enc) : (s.setEnc e n v).lanes = s.lanes := rfl
@[simp] theorem State.setEnc_host (e n : Nat) (v : Enc) : (s.setEnc e n v).host = s.host := rfl
@[simp] theorem State.setEnc_eths (e n : Nat) (v : Enc) : (s.setEnc e n v).eths = s.eths := rfl
@[simp] theorem State.setEnc_keeper (e n : Nat) (v : Enc) : (s.setEnc e n v).keeper = s.keeper := rfl
@[simp] theorem State.setEnc_pacer (e n : Nat) (v : Enc) : (s.setEnc e n v).pacer = s.pacer := rfl
@[simp] theorem State.setEnc_mint (e n : Nat) (v : Enc) : (s.setEnc e n v).mint = s.mint := rfl
@[simp] theorem State.setEnc_boot (e n : Nat) (v : Enc) : (s.setEnc e n v).boot = s.boot := rfl
@[simp] theorem State.setEnc_freshAt (e n : Nat) (v : Enc) : (s.setEnc e n v).freshAt = s.freshAt := rfl
@[simp] theorem State.setEnc_fresh (e n : Nat) (v : Enc) : (s.setEnc e n v).fresh = s.fresh := rfl
@[simp] theorem State.setEnc_free (e n : Nat) (v : Enc) : (s.setEnc e n v).free = s.free := rfl
@[simp] theorem State.setEnc_pending (e n : Nat) (v : Enc) : (s.setEnc e n v).pending = s.pending := rfl

/-! ### State.setLane -/

@[simp] theorem State.setLane_regs (e n : Nat) (v : Lane) : (s.setLane e n v).regs = s.regs := rfl
@[simp] theorem State.setLane_mem (e n : Nat) (v : Lane) : (s.setLane e n v).mem = s.mem := rfl
@[simp] theorem State.setLane_poison (e n : Nat) (v : Lane) : (s.setLane e n v).poison = s.poison := rfl
@[simp] theorem State.setLane_zeroTags (e n : Nat) (v : Lane) : (s.setLane e n v).zeroTags = s.zeroTags := rfl
@[simp] theorem State.setLane_cores (e n : Nat) (v : Lane) : (s.setLane e n v).cores = s.cores := rfl
@[simp] theorem State.setLane_tallies (e n : Nat) (v : Lane) : (s.setLane e n v).tallies = s.tallies := rfl
@[simp] theorem State.setLane_tellers (e n : Nat) (v : Lane) : (s.setLane e n v).tellers = s.tellers := rfl
@[simp] theorem State.setLane_escrow (e n : Nat) (v : Lane) : (s.setLane e n v).escrow = s.escrow := rfl
@[simp] theorem State.setLane_clearings (e n : Nat) (v : Lane) : (s.setLane e n v).clearings = s.clearings := rfl
@[simp] theorem State.setLane_tiles (e n : Nat) (v : Lane) : (s.setLane e n v).tiles = s.tiles := rfl
@[simp] theorem State.setLane_net (e n : Nat) (v : Lane) : (s.setLane e n v).net = s.net := rfl
@[simp] theorem State.setLane_chans (e n : Nat) (v : Lane) : (s.setLane e n v).chans = s.chans := rfl
@[simp] theorem State.setLane_memIn (e n : Nat) (v : Lane) : (s.setLane e n v).memIn = s.memIn := rfl
@[simp] theorem State.setLane_regions (e n : Nat) (v : Lane) : (s.setLane e n v).regions = s.regions := rfl
@[simp] theorem State.setLane_logic (e n : Nat) (v : Lane) : (s.setLane e n v).logic = s.logic := rfl
@[simp] theorem State.setLane_fports (e n : Nat) (v : Lane) : (s.setLane e n v).fports = s.fports := rfl
@[simp] theorem State.setLane_trips (e n : Nat) (v : Lane) : (s.setLane e n v).trips = s.trips := rfl
@[simp] theorem State.setLane_fabs (e n : Nat) (v : Lane) : (s.setLane e n v).fabs = s.fabs := rfl
@[simp] theorem State.setLane_edges (e n : Nat) (v : Lane) : (s.setLane e n v).edges = s.edges := rfl
@[simp] theorem State.setLane_sds (e n : Nat) (v : Lane) : (s.setLane e n v).sds = s.sds := rfl
@[simp] theorem State.setLane_gens (e n : Nat) (v : Lane) : (s.setLane e n v).gens = s.gens := rfl
@[simp] theorem State.setLane_outs (e n : Nat) (v : Lane) : (s.setLane e n v).outs = s.outs := rfl
@[simp] theorem State.setLane_verdicts (e n : Nat) (v : Lane) : (s.setLane e n v).verdicts = s.verdicts := rfl
@[simp] theorem State.setLane_encs (e n : Nat) (v : Lane) : (s.setLane e n v).encs = s.encs := rfl
@[simp] theorem State.setLane_lanes (e n : Nat) (v : Lane) : (s.setLane e n v).lanes = tput s.lanes (8 * e + n) v := rfl
@[simp] theorem State.setLane_host (e n : Nat) (v : Lane) : (s.setLane e n v).host = s.host := rfl
@[simp] theorem State.setLane_eths (e n : Nat) (v : Lane) : (s.setLane e n v).eths = s.eths := rfl
@[simp] theorem State.setLane_keeper (e n : Nat) (v : Lane) : (s.setLane e n v).keeper = s.keeper := rfl
@[simp] theorem State.setLane_pacer (e n : Nat) (v : Lane) : (s.setLane e n v).pacer = s.pacer := rfl
@[simp] theorem State.setLane_mint (e n : Nat) (v : Lane) : (s.setLane e n v).mint = s.mint := rfl
@[simp] theorem State.setLane_boot (e n : Nat) (v : Lane) : (s.setLane e n v).boot = s.boot := rfl
@[simp] theorem State.setLane_freshAt (e n : Nat) (v : Lane) : (s.setLane e n v).freshAt = s.freshAt := rfl
@[simp] theorem State.setLane_fresh (e n : Nat) (v : Lane) : (s.setLane e n v).fresh = s.fresh := rfl
@[simp] theorem State.setLane_free (e n : Nat) (v : Lane) : (s.setLane e n v).free = s.free := rfl
@[simp] theorem State.setLane_pending (e n : Nat) (v : Lane) : (s.setLane e n v).pending = s.pending := rfl

/-! ### State.setEth -/

@[simp] theorem State.setEth_regs (p : Nat) (v : EthPort) : (s.setEth p v).regs = s.regs := rfl
@[simp] theorem State.setEth_mem (p : Nat) (v : EthPort) : (s.setEth p v).mem = s.mem := rfl
@[simp] theorem State.setEth_poison (p : Nat) (v : EthPort) : (s.setEth p v).poison = s.poison := rfl
@[simp] theorem State.setEth_zeroTags (p : Nat) (v : EthPort) : (s.setEth p v).zeroTags = s.zeroTags := rfl
@[simp] theorem State.setEth_cores (p : Nat) (v : EthPort) : (s.setEth p v).cores = s.cores := rfl
@[simp] theorem State.setEth_tallies (p : Nat) (v : EthPort) : (s.setEth p v).tallies = s.tallies := rfl
@[simp] theorem State.setEth_tellers (p : Nat) (v : EthPort) : (s.setEth p v).tellers = s.tellers := rfl
@[simp] theorem State.setEth_escrow (p : Nat) (v : EthPort) : (s.setEth p v).escrow = s.escrow := rfl
@[simp] theorem State.setEth_clearings (p : Nat) (v : EthPort) : (s.setEth p v).clearings = s.clearings := rfl
@[simp] theorem State.setEth_tiles (p : Nat) (v : EthPort) : (s.setEth p v).tiles = s.tiles := rfl
@[simp] theorem State.setEth_net (p : Nat) (v : EthPort) : (s.setEth p v).net = s.net := rfl
@[simp] theorem State.setEth_chans (p : Nat) (v : EthPort) : (s.setEth p v).chans = s.chans := rfl
@[simp] theorem State.setEth_memIn (p : Nat) (v : EthPort) : (s.setEth p v).memIn = s.memIn := rfl
@[simp] theorem State.setEth_regions (p : Nat) (v : EthPort) : (s.setEth p v).regions = s.regions := rfl
@[simp] theorem State.setEth_logic (p : Nat) (v : EthPort) : (s.setEth p v).logic = s.logic := rfl
@[simp] theorem State.setEth_fports (p : Nat) (v : EthPort) : (s.setEth p v).fports = s.fports := rfl
@[simp] theorem State.setEth_trips (p : Nat) (v : EthPort) : (s.setEth p v).trips = s.trips := rfl
@[simp] theorem State.setEth_fabs (p : Nat) (v : EthPort) : (s.setEth p v).fabs = s.fabs := rfl
@[simp] theorem State.setEth_edges (p : Nat) (v : EthPort) : (s.setEth p v).edges = s.edges := rfl
@[simp] theorem State.setEth_sds (p : Nat) (v : EthPort) : (s.setEth p v).sds = s.sds := rfl
@[simp] theorem State.setEth_gens (p : Nat) (v : EthPort) : (s.setEth p v).gens = s.gens := rfl
@[simp] theorem State.setEth_outs (p : Nat) (v : EthPort) : (s.setEth p v).outs = s.outs := rfl
@[simp] theorem State.setEth_verdicts (p : Nat) (v : EthPort) : (s.setEth p v).verdicts = s.verdicts := rfl
@[simp] theorem State.setEth_encs (p : Nat) (v : EthPort) : (s.setEth p v).encs = s.encs := rfl
@[simp] theorem State.setEth_lanes (p : Nat) (v : EthPort) : (s.setEth p v).lanes = s.lanes := rfl
@[simp] theorem State.setEth_host (p : Nat) (v : EthPort) : (s.setEth p v).host = s.host := rfl
@[simp] theorem State.setEth_eths (p : Nat) (v : EthPort) : (s.setEth p v).eths = tput s.eths p v := rfl
@[simp] theorem State.setEth_keeper (p : Nat) (v : EthPort) : (s.setEth p v).keeper = s.keeper := rfl
@[simp] theorem State.setEth_pacer (p : Nat) (v : EthPort) : (s.setEth p v).pacer = s.pacer := rfl
@[simp] theorem State.setEth_mint (p : Nat) (v : EthPort) : (s.setEth p v).mint = s.mint := rfl
@[simp] theorem State.setEth_boot (p : Nat) (v : EthPort) : (s.setEth p v).boot = s.boot := rfl
@[simp] theorem State.setEth_freshAt (p : Nat) (v : EthPort) : (s.setEth p v).freshAt = s.freshAt := rfl
@[simp] theorem State.setEth_fresh (p : Nat) (v : EthPort) : (s.setEth p v).fresh = s.fresh := rfl
@[simp] theorem State.setEth_free (p : Nat) (v : EthPort) : (s.setEth p v).free = s.free := rfl
@[simp] theorem State.setEth_pending (p : Nat) (v : EthPort) : (s.setEth p v).pending = s.pending := rfl

/-! ### State.draw -/

@[simp] theorem State.draw_regs : (s.draw).regs = s.regs := rfl
@[simp] theorem State.draw_mem : (s.draw).mem = s.mem := rfl
@[simp] theorem State.draw_poison : (s.draw).poison = s.poison := rfl
@[simp] theorem State.draw_zeroTags : (s.draw).zeroTags = s.zeroTags := rfl
@[simp] theorem State.draw_cores : (s.draw).cores = s.cores := rfl
@[simp] theorem State.draw_tallies : (s.draw).tallies = s.tallies := rfl
@[simp] theorem State.draw_tellers : (s.draw).tellers = s.tellers := rfl
@[simp] theorem State.draw_escrow : (s.draw).escrow = s.escrow := rfl
@[simp] theorem State.draw_clearings : (s.draw).clearings = s.clearings := rfl
@[simp] theorem State.draw_tiles : (s.draw).tiles = s.tiles := rfl
@[simp] theorem State.draw_net : (s.draw).net = s.net := rfl
@[simp] theorem State.draw_chans : (s.draw).chans = s.chans := rfl
@[simp] theorem State.draw_memIn : (s.draw).memIn = s.memIn := rfl
@[simp] theorem State.draw_regions : (s.draw).regions = s.regions := rfl
@[simp] theorem State.draw_logic : (s.draw).logic = s.logic := rfl
@[simp] theorem State.draw_fports : (s.draw).fports = s.fports := rfl
@[simp] theorem State.draw_trips : (s.draw).trips = s.trips := rfl
@[simp] theorem State.draw_fabs : (s.draw).fabs = s.fabs := rfl
@[simp] theorem State.draw_edges : (s.draw).edges = s.edges := rfl
@[simp] theorem State.draw_sds : (s.draw).sds = s.sds := rfl
@[simp] theorem State.draw_gens : (s.draw).gens = s.gens := rfl
@[simp] theorem State.draw_outs : (s.draw).outs = s.outs := rfl
@[simp] theorem State.draw_verdicts : (s.draw).verdicts = s.verdicts := rfl
@[simp] theorem State.draw_encs : (s.draw).encs = s.encs := rfl
@[simp] theorem State.draw_lanes : (s.draw).lanes = s.lanes := rfl
@[simp] theorem State.draw_host : (s.draw).host = s.host := rfl
@[simp] theorem State.draw_eths : (s.draw).eths = s.eths := rfl
@[simp] theorem State.draw_keeper : (s.draw).keeper = s.keeper := rfl
@[simp] theorem State.draw_pacer : (s.draw).pacer = s.pacer := rfl
@[simp] theorem State.draw_mint : (s.draw).mint = s.mint := rfl
@[simp] theorem State.draw_boot : (s.draw).boot = s.boot := rfl
@[simp] theorem State.draw_freshAt : (s.draw).freshAt = s.freshAt := rfl
@[simp] theorem State.draw_fresh : (s.draw).fresh = s.fresh := rfl
@[simp] theorem State.draw_free : (s.draw).free = s.free + 1 := rfl
@[simp] theorem State.draw_pending : (s.draw).pending = s.pending := rfl

end Sys2Proof.Machine
end

