-- ==== Sys2Proof/Laws/Units.lean ====
section
/-! SUPPORT. What reading a unit gives after it has been set, and what a register reads after a write. -/

namespace Sys2Proof.Machine

variable (s : State)

/-! ### Units -/

@[simp] theorem State.setTile_tile_self (t : Nat) (v : TileUnit) : (s.setTile t v).tile t = v := by
  simp [State.setTile, State.tile]

@[simp] theorem State.setTally_tally_self (t i : Nat) (v : Tally) : (s.setTally t i v).tally t i = v := by
  simp [State.setTally, State.tally]

@[simp] theorem State.setTeller_teller_self (da i : Nat) (v : Teller) : (s.setTeller da i v).teller da i = v := by
  simp [State.setTeller, State.teller]

@[simp] theorem State.setChan_chan_self (ch : Nat) (v : Chan) : (s.setChan ch v).chan ch = v := by
  simp [State.setChan, State.chan]

@[simp] theorem State.setRegion_region_self (f r : Nat) (v : Region) : (s.setRegion f r v).region f r = v := by
  simp [State.setRegion, State.region]

@[simp] theorem State.setLogic_regionLogic_self (f r : Nat) (v : Logic) : (s.setLogic f r v).regionLogic f r = v := by
  simp [State.setLogic, State.regionLogic]

@[simp] theorem State.setFport_fport_self (f p : Nat) (v : FabPort) : (s.setFport f p v).fport f p = v := by
  simp [State.setFport, State.fport]

@[simp] theorem State.setTrip_trip_self (f k : Nat) (v : TripCell) : (s.setTrip f k v).trip f k = v := by
  simp [State.setTrip, State.trip]

@[simp] theorem State.setFab_fab_self (f : Nat) (v : FabDie) : (s.setFab f v).fab f = v := by
  simp [State.setFab, State.fab]

@[simp] theorem State.setEdge_edge_self (e : Nat) (v : EdgeDie) : (s.setEdge e v).edge e = v := by
  simp [State.setEdge, State.edge]

@[simp] theorem State.setSd_sd_self (e ch : Nat) (v : SdCh) : (s.setSd e ch v).sd e ch = v := by
  simp [State.setSd, State.sd]

@[simp] theorem State.setGen_gen_self (e g : Nat) (v : Gen) : (s.setGen e g v).gen e g = v := by
  simp [State.setGen, State.gen]

@[simp] theorem State.setOut_outGroup_self (da g : Nat) (v : OutGroup) : (s.setOut da g v).outGroup da g = v := by
  simp [State.setOut, State.outGroup]

@[simp] theorem State.setEnc_enc_self (e n : Nat) (v : Enc) : (s.setEnc e n v).enc e n = v := by
  simp [State.setEnc, State.enc]

@[simp] theorem State.setLane_lane_self (e n : Nat) (v : Lane) : (s.setLane e n v).lane e n = v := by
  simp [State.setLane, State.lane]

@[simp] theorem State.setEth_eth_self (p : Nat) (v : EthPort) : (s.setEth p v).eth p = v := by
  simp [State.setEth, State.eth]

@[simp] theorem State.setCore_core_self (t c : Nat) (v : Core) : (s.setCore t c v).core t c = v := by
  simp [State.setCore, State.core]

theorem State.setCore_core_ne (t c : Nat) (v : Core) (t' c' : Nat) (h : coreKey t' c' ≠ coreKey t c) :
    (s.setCore t c v).core t' c' = s.core t' c' := by
  simp [State.setCore, State.core, tget_tput_ne _ _ _ _ _ h]

/-- The bank of a class after it has been set; classes from 2 on share the estimate bank. -/
@[simp] theorem Core.setBank_bank_self (k : Core) (cls : Nat) (b : Bank) : (k.setBank cls b).bank cls = b := by
  rcases cls with _ | _ | _ <;> rfl

@[simp] theorem State.setBank_bank_self (t c cls : Nat) (b : Bank) : (s.setBank t c cls b).bank t c cls = b := by
  simp [State.setBank, State.bank]

@[simp] theorem State.updBank_bank_self (t c cls : Nat) (f : Bank → Bank) :
    (s.updBank t c cls f).bank t c cls = f (s.bank t c cls) := by
  simp [State.updBank]

@[simp] theorem State.updCore_core_self (t c : Nat) (f : Core → Core) : (s.updCore t c f).core t c = f (s.core t c) := by
  simp [State.updCore]

@[simp] theorem State.updBank_core_self (t c cls : Nat) (f : Bank → Bank) :
    (s.updBank t c cls f).core t c = (s.core t c).setBank cls (f (s.bank t c cls)) := by
  simp [State.updBank, State.setBank]

@[simp] theorem Core.setBank_time (k : Core) (cls : Nat) (b : Bank) : (k.setBank cls b).time = k.time := by
  rcases cls with _ | _ | _ <;> rfl
@[simp] theorem Core.setBank_issuing (k : Core) (cls : Nat) (b : Bank) : (k.setBank cls b).issuing = k.issuing := by
  rcases cls with _ | _ | _ <;> rfl
@[simp] theorem Core.setBank_vec (k : Core) (cls : Nat) (b : Bank) : (k.setBank cls b).vec = k.vec := by
  rcases cls with _ | _ | _ <;> rfl
@[simp] theorem Core.setBank_quad (k : Core) (cls : Nat) (b : Bank) : (k.setBank cls b).quad = k.quad := by
  rcases cls with _ | _ | _ <;> rfl
@[simp] theorem Core.setBank_str (k : Core) (cls : Nat) (b : Bank) : (k.setBank cls b).str = k.str := by
  rcases cls with _ | _ | _ <;> rfl
@[simp] theorem Core.setBank_disp (k : Core) (cls : Nat) (b : Bank) : (k.setBank cls b).disp = k.disp := by
  rcases cls with _ | _ | _ <;> rfl

@[simp] theorem State.updDisp_disp_self (t c : Nat) (f : Disp → Disp) : (s.updDisp t c f).disp t c = f (s.disp t c) := by
  simp [State.updDisp, State.disp]

@[simp] theorem State.setTile_core (t : Nat) (v : TileUnit) (t' c : Nat) : (s.setTile t v).core t' c = s.core t' c := rfl
@[simp] theorem State.setMint_core (m : Mint) (t c : Nat) : (s.setMint m).core t c = s.core t c := rfl
@[simp] theorem State.setReg_core (da page off v i t c : Nat) : (s.setReg da page off v i).core t c = s.core t c := rfl

/-! ### Registers -/

@[simp] theorem State.setReg_reg_self (da page off v i : Nat) :
    (s.setReg da page off v i).reg da page off i = v % 2 ^ 32 := by
  simp [State.reg, State.setReg]

theorem State.setReg_reg_ne (da page off v i da' page' off' i' : Nat)
    (h : regKey da' page' off' i' ≠ regKey da page off i) :
    (s.setReg da page off v i).reg da' page' off' i' = s.reg da' page' off' i' := by
  simp [State.reg, State.setReg, tget_tputD_ne _ _ _ _ _ _ h]

/-- Within the ranges of pages, offsets and instances a register's key tells it apart. -/
theorem regKey_inj {da page off i da' page' off' i' : Nat} (hp : page < 256) (ho : off < 4096) (hi : i < 4096)
    (hp' : page' < 256) (ho' : off' < 4096) (hi' : i' < 4096) (h : regKey da page off i = regKey da' page' off' i') :
    da = da' ∧ page = page' ∧ off = off' ∧ i = i' := by
  unfold regKey at h
  omega

end Sys2Proof.Machine
end

