-- ==== Sys2Proof/Laws/Sequencer.lean ====
section
/-! SUPPORT. What the sequencer's shared operations do: the fetch of an instruction, the pipeline's writes, and an issue. -/

namespace Sys2Proof.Machine

/-! ### Fetch -/

theorem fetch_of_at {s : State} {t c cls : Nat} {w : Word64} {fmt op : Nat} (h : SeqAt s t c cls w fmt op) :
    s.fetch t c w fmt op = .ok cls := by
  obtain ⟨h1, h2, h3, h4, h5, h6, h7⟩ := h
  simp [State.fetch, h1, h2, h3, h4, h5, h6, h7]

/-- Where the sequencer stands at the word, the word enters the loop cache and the instruction's body runs. -/
theorem seq_of_at {s : State} {t c cls : Nat} {w : Word64} {fmt op : Nat} (h : SeqAt s t c cls w fmt op)
    (body : Nat → State → State) : s.seq t c w fmt op body = .next (body cls (s.capture t c cls w)) := by
  simp [State.seq, fetch_of_at h]

/-- An update of a core that keeps its banks and its time. -/
structure KeepsBanks (f : Core → Core) : Prop where
  bank : ∀ k j, (f k).bank j = k.bank j
  time : ∀ k, (f k).time = k.time

/-- What such an update of one core leaves. -/
def Beside (s u : State) (t c : Nat) : Prop :=
  (∀ t' c', coreKey t' c' ≠ coreKey t c → u.core t' c' = s.core t' c') ∧ (∀ j, u.bank t c j = s.bank t c j) ∧
  (u.core t c).time = (s.core t c).time ∧ u.mem = s.mem ∧ u.poison = s.poison

theorem Beside.refl (s : State) (t c : Nat) : Beside s s t c := ⟨fun _ _ _ => rfl, fun _ => rfl, rfl, rfl, rfl⟩

theorem Beside.trans {s u v : State} {t c : Nat} (h : Beside s u t c) (k : Beside u v t c) : Beside s v t c :=
  ⟨fun a b e => (k.1 a b e).trans (h.1 a b e), fun j => (k.2.1 j).trans (h.2.1 j), k.2.2.1.trans h.2.2.1,
    k.2.2.2.1.trans h.2.2.2.1, k.2.2.2.2.trans h.2.2.2.2⟩

theorem updCore_beside (s : State) (t c : Nat) {f : Core → Core} (h : KeepsBanks f) : Beside s (s.updCore t c f) t c :=
  ⟨fun _ _ e => State.setCore_core_ne _ _ _ _ _ _ e, fun j => by simp [State.bank, h.bank], by simp [h.time], rfl, rfl⟩

theorem Beside.of_eq {s u : State} {t c : Nat} (h : u.cores = s.cores) (m : u.mem = s.mem) (p : u.poison = s.poison) :
    Beside s u t c :=
  ⟨fun a b _ => by simp [State.core, h], fun j => by simp [State.bank, State.core, h], by simp [State.core, h], m, p⟩

/-- The capture of a body word changes the loop cache only. -/
theorem capture_beside (s : State) (t c cls : Nat) (w : Word64) : Beside s (s.capture t c cls w) t c := by
  unfold State.capture
  dsimp only
  split
  · exact .refl ..
  · exact updCore_beside _ _ _ ⟨fun _ j => by rcases j with _ | _ | _ <;> rfl, fun _ => rfl⟩

/-! ### Pipeline writes -/

/-- The part of a bank that no pipeline write changes. -/
def Bank.control (b : Bank) : Bank :=
  { b with g := [], a := [], m := [], l := [], flags := {}, astat := 0, ck := false, ps := false, ab := false }

theorem applyReg_control (b : Bank) (d : WDst) (v : PWord) : (b.applyReg d v).control = b.control := by
  cases d <;> rfl

theorem write_cores (s : State) (sp : Sp) (unit a : Nat) (bs : List (Option Byte)) (ps : List Bool) :
    (s.write sp unit a bs ps).cores = s.cores := by
  have g : ∀ (s : State) a bs p, (s.writeGran sp unit a bs p).cores = s.cores := by
    intro s a bs p
    unfold State.writeGran
    split
    · rfl
    · obtain ⟨u, h⟩ := captureOld_frame s sp unit a
      simp only [h]
  have p : ∀ n (s : State) a bs ps, (s.writePieces sp unit n a bs ps).cores = s.cores := by
    intro n
    induction n with
    | zero => intros; rfl
    | succ n ih => intro s a bs ps; exact (ih _ _ _ _).trans (g _ _ _ _)
  exact p _ _ _ _ _

theorem writeAll_cores (s : State) (sp : Sp) (unit a : Nat) (bs : List Byte) (p : Bool) :
    (s.writeAll sp unit a bs p).cores = s.cores := write_cores ..

theorem writeRun_cores (s : State) (t c cls a : Nat) (bs : List Byte) (p : Bool) :
    (s.writeRun t c cls a bs p).cores = s.cores := by
  obtain ⟨u, h⟩ := writeRun_frame s t c cls a bs p
  rw [h]
  exact writeAll_cores ..

/-- A mark of a sticky bit, and a flag, change registers only. -/
theorem markFresh_beside (s : State) (key n t c : Nat) : Beside s (s.markFresh key n) t c := by
  unfold State.markFresh
  split <;> exact .of_eq rfl rfl rfl

theorem markFreshes_beside (l : List Nat) (s : State) (key t c : Nat) :
    Beside s (l.foldl (fun s i => s.markFresh key i) s) t c := by
  induction l generalizing s with
  | nil => exact .refl ..
  | cons i r ih => exact (markFresh_beside s key i t c).trans (ih _)

theorem flag_beside (s : State) (da page n t c : Nat) : Beside s (s.flag da page n) t c := by
  unfold State.flag
  exact (Beside.of_eq rfl rfl rfl : Beside s _ t c).trans (markFresh_beside _ _ _ _ _)

/-- What the dispatcher sees of a store changes the dispatcher only. -/
theorem sawStore_beside (s : State) (t c a n : Nat) : Beside s (s.sawStore t c a n) t c := by
  have d : ∀ (s : State) f, Beside s (s.updDisp t c f) t c := fun s f =>
    updCore_beside _ _ _ ⟨fun _ j => by rcases j with _ | _ | _ <;> rfl, fun _ => rfl⟩
  have k : ∀ s : State, Beside s (s.checkRing t c) t c := fun s => by
    unfold State.checkRing
    dsimp only
    split
    · exact (d _ _).trans (flag_beside _ _ _ _ _ _)
    · exact d _ _
  unfold State.sawStore
  dsimp only
  split
  · exact (d _ _).trans (k _)
  · exact .refl ..

/-- A merge of flags changes the bank's flags, and marks them. -/
theorem mergeFlags_beside (s : State) (t c cls : Nat) (f : BitVec 4) :
    Beside (s.updBank t c cls fun b => { b with astat := b.astat ||| f }) (s.mergeFlags t c cls f) t c := markFreshes_beside ..

/-- Two states agree on every core but one, in whose class bank everything agrees that no pipeline write changes, and the banks of its
other classes and its time. -/
def SameBut (s u : State) (t c cls : Nat) : Prop :=
  (∀ t' c', coreKey t' c' ≠ coreKey t c → u.core t' c' = s.core t' c') ∧
  (u.bank t c cls).control = (s.bank t c cls).control ∧
  (u.core t c).time = (s.core t c).time ∧
  (cls < 3 → ∀ j, j < 3 → j ≠ cls → u.bank t c j = s.bank t c j)

theorem SameBut.refl (s : State) (t c cls : Nat) : SameBut s s t c cls :=
  ⟨fun _ _ _ => rfl, rfl, rfl, fun _ _ _ _ => rfl⟩

theorem SameBut.trans {s u v : State} {t c cls : Nat} (h : SameBut s u t c cls) (k : SameBut u v t c cls) :
    SameBut s v t c cls :=
  ⟨fun a b e => (k.1 a b e).trans (h.1 a b e), k.2.1.trans h.2.1, k.2.2.1.trans h.2.2.1,
    fun hc j hj e => (k.2.2.2 hc j hj e).trans (h.2.2.2 hc j hj e)⟩

theorem SameBut.of_beside {s u : State} {t c cls : Nat} (h : Beside s u t c) : SameBut s u t c cls :=
  ⟨h.1, by rw [h.2.1], h.2.2.1, fun _ j _ _ => h.2.1 j⟩

theorem updBank_core_ne (s : State) (t c cls : Nat) (f : Bank → Bank) (t' c' : Nat) (h : coreKey t' c' ≠ coreKey t c) :
    (s.updBank t c cls f).core t' c' = s.core t' c' := State.setCore_core_ne _ _ _ _ _ _ h

theorem updCore_core_ne (s : State) (t c : Nat) (f : Core → Core) (t' c' : Nat) (h : coreKey t' c' ≠ coreKey t c) :
    (s.updCore t c f).core t' c' = s.core t' c' := State.setCore_core_ne _ _ _ _ _ _ h

theorem Core.setBank_bank_ne (k : Core) (cls j : Nat) (b : Bank) (h : cls < 3) (hj : j < 3) (e : j ≠ cls) :
    (k.setBank cls b).bank j = k.bank j := by
  rcases cls with _ | _ | _ | _ <;> rcases j with _ | _ | _ | _ <;> first | rfl | omega

/-- An update of a bank that keeps its control part. -/
theorem updBank_same (s : State) (t c cls : Nat) (f : Bank → Bank) (h : ∀ b, (f b).control = b.control) :
    SameBut s (s.updBank t c cls f) t c cls :=
  ⟨fun a b e => updBank_core_ne _ _ _ _ _ _ _ e, by simp [h], by simp,
    fun hc j hj e => by rw [State.bank, State.updBank_core_self, Core.setBank_bank_ne _ _ _ _ hc hj e]; rfl⟩

theorem SameBut.of_cores {s u : State} {t c cls : Nat} (h : u.cores = s.cores) : SameBut s u t c cls := by
  have e : ∀ a b, u.core a b = s.core a b := fun a b => by simp [State.core, h]
  exact ⟨fun a b _ => e a b, by simp [State.bank, e], by simp [e], fun _ _ _ _ => by simp [State.bank, e]⟩

theorem applyWrite_same (s : State) (t c cls : Nat) (w : PendWrite) : SameBut s (s.applyWrite t c cls w) t c cls := by
  unfold State.applyWrite
  split
  · exact (SameBut.of_cores (writeRun_cores ..)).trans (.of_beside (sawStore_beside ..))
  · exact .of_cores (writeAll_cores ..)
  · exact (updBank_same s t c cls (fun b => { b with astat := b.astat ||| _ }) fun _ => rfl).trans (.of_beside (mergeFlags_beside ..))
  · exact updBank_same _ _ _ _ _ fun b => applyReg_control ..

theorem applyWrites_same (l : List PendWrite) (s : State) (t c cls : Nat) :
    SameBut s (l.foldl (fun s w => s.applyWrite t c cls w) s) t c cls := by
  induction l generalizing s with
  | nil => exact .refl ..
  | cons w r ih => exact (applyWrite_same s t c cls w).trans (ih _)

/-- A pipeline write's effect on its bank. -/
theorem applyWrite_bank (s : State) (t c cls : Nat) (w : PendWrite) :
    (s.applyWrite t c cls w).bank t c cls = (s.bank t c cls).applyReg w.dst w.val := by
  have m : ∀ s : State, ∀ a bs p, (s.writeRun t c cls a bs p).bank t c cls = s.bank t c cls := fun s a bs p => by
    simp [State.bank, State.core, writeRun_cores]
  have n : ∀ s : State, ∀ a bs p, (s.writeAll .coef (coreKey t c) a bs p).bank t c cls = s.bank t c cls := fun s a bs p => by
    simp [State.bank, State.core, writeAll_cores]
  unfold State.applyWrite
  split
  · next h => rw [(sawStore_beside _ t c _ _).2.1, m, h]; rfl
  · next h => rw [n, h]; rfl
  · next h => rw [(mergeFlags_beside s t c cls _).2.1, State.updBank_bank_self, h]; rfl
  · rw [State.updBank_bank_self]

/-- The effect of pipeline writes on the registers and stores that none of them names. -/
theorem applyWrite_g (s : State) (t c cls : Nat) (w : PendWrite) (k : Nat) (h : w.dst ≠ .g k) :
    ((s.applyWrite t c cls w).bank t c cls).gOf k = (s.bank t c cls).gOf k := by
  rw [applyWrite_bank]
  cases hd : w.dst <;> try rfl
  rw [hd] at h
  exact tget_tputD_ne _ _ _ _ _ _ fun e => h (by rw [e])

theorem applyWrite_flags (s : State) (t c cls : Nat) (w : PendWrite) (h : isFlagsDst w.dst = false) :
    ((s.applyWrite t c cls w).bank t c cls).flags = (s.bank t c cls).flags := by
  rw [applyWrite_bank]
  cases hd : w.dst <;> simp_all [isFlagsDst, Bank.applyReg]

theorem applyWrite_status (s : State) (t c cls : Nat) (w : PendWrite) (h : isStatusDst w.dst = false) :
    let b := (s.applyWrite t c cls w).bank t c cls
    b.astat = (s.bank t c cls).astat ∧ b.ck = (s.bank t c cls).ck ∧ b.ps = (s.bank t c cls).ps ∧
      b.ab = (s.bank t c cls).ab := by
  rw [applyWrite_bank]
  cases hd : w.dst <;> simp_all [isStatusDst, Bank.applyReg]

theorem applyWrite_stores (s : State) (t c cls : Nat) (w : PendWrite) (h : isStoreDst w.dst = false) :
    (s.applyWrite t c cls w).mem = s.mem ∧ (s.applyWrite t c cls w).poison = s.poison := by
  unfold State.applyWrite
  split
  · simp_all [isStoreDst]
  · simp_all [isStoreDst]
  · obtain ⟨-, -, -, m, p⟩ := mergeFlags_beside s t c cls (w.val.val.setWidth 4)
    exact ⟨m, p⟩
  · exact ⟨rfl, rfl⟩

theorem applyWrites_frame (l : List PendWrite) (s : State) (t c cls : Nat) :
    let u := l.foldl (fun s w => s.applyWrite t c cls w) s
    (∀ k, (∀ x ∈ l, x.dst ≠ .g k) → (u.bank t c cls).gOf k = (s.bank t c cls).gOf k) ∧
    ((∀ x ∈ l, isFlagsDst x.dst = false) → (u.bank t c cls).flags = (s.bank t c cls).flags) ∧
    ((∀ x ∈ l, isStatusDst x.dst = false) → (u.bank t c cls).astat = (s.bank t c cls).astat ∧
      (u.bank t c cls).ck = (s.bank t c cls).ck ∧ (u.bank t c cls).ps = (s.bank t c cls).ps ∧
      (u.bank t c cls).ab = (s.bank t c cls).ab) ∧
    ((∀ x ∈ l, isStoreDst x.dst = false) → u.mem = s.mem ∧ u.poison = s.poison) := by
  induction l generalizing s with
  | nil => exact ⟨fun _ _ => rfl, fun _ => rfl, fun _ => ⟨rfl, rfl, rfl, rfl⟩, fun _ => ⟨rfl, rfl⟩⟩
  | cons w r ih =>
    obtain ⟨i1, i2, i3, i4⟩ := ih (s.applyWrite t c cls w)
    refine ⟨fun k h => ?_, fun h => ?_, fun h => ?_, fun h => ?_⟩
    · exact (i1 k fun x hx => h x (.tail _ hx)).trans (applyWrite_g _ _ _ _ _ _ (h w (.head _)))
    · exact (i2 fun x hx => h x (.tail _ hx)).trans (applyWrite_flags _ _ _ _ _ (h w (.head _)))
    · obtain ⟨a, b, d, e⟩ := i3 fun x hx => h x (.tail _ hx)
      obtain ⟨a', b', d', e'⟩ := applyWrite_status s t c cls w (h w (.head _))
      exact ⟨a.trans a', b.trans b', d.trans d', e.trans e'⟩
    · obtain ⟨a, b⟩ := i4 fun x hx => h x (.tail _ hx)
      obtain ⟨a', b'⟩ := applyWrite_stores s t c cls w (h w (.head _))
      exact ⟨a.trans a', b.trans b'⟩

/-- The updates of an issue, by name. -/
def Bank.charged (b : Bank) (n : Nat) : Bank := { b with spent := b.spent + n }
def Bank.drained (b : Bank) (d : Nat) : Bank := { b with pipe := b.pipe.filter fun w => w.due != d }
def Bank.going (b : Bank) : Bank := { b with holding := false, idle := 0 }
def Core.timed (k : Core) (n : Nat) : Core := { k with time := n }
def Core.spanned (k : Core) (n : Nat) : Core := { k with spanLen := n }
def Core.thawed (k : Core) : Core := { k with frozen := false }

@[simp] theorem Core.timed_bank (k : Core) (n cls : Nat) : (k.timed n).bank cls = k.bank cls := by rcases cls with _ | _ | _ <;> rfl
@[simp] theorem Core.spanned_bank (k : Core) (n cls : Nat) : (k.spanned n).bank cls = k.bank cls := by
  rcases cls with _ | _ | _ <;> rfl
@[simp] theorem Core.thawed_bank (k : Core) (cls : Nat) : k.thawed.bank cls = k.bank cls := by rcases cls with _ | _ | _ <;> rfl
@[simp] theorem Core.timed_time (k : Core) (n : Nat) : (k.timed n).time = n := rfl
@[simp] theorem Core.spanned_time (k : Core) (n : Nat) : (k.spanned n).time = k.time := rfl
@[simp] theorem Core.thawed_time (k : Core) : k.thawed.time = k.time := rfl

/-- The pending writes of one cycle take effect: they leave the pipeline, the rest of the bank's control part and every other
core stay. -/
theorem retire_one (s : State) (t c cls d : Nat) :
    SameBut (s.updBank t c cls fun b => b.drained d) (s.retireFrom t c cls d 1) t c cls := applyWrites_same ..

/-! ### An issue -/

theorem spend_core_ne (s : State) (t c cls n : Nat) (t' c' : Nat) (h : coreKey t' c' ≠ coreKey t c) :
    (s.spend t c cls n).core t' c' = s.core t' c' := by
  unfold State.spend
  dsimp only
  split <;> simp [updBank_core_ne _ _ _ _ _ _ _ h]

theorem spend_core (s : State) (t c cls n : Nat) :
    (s.spend t c cls n).core t c = (s.core t c).setBank cls ((s.bank t c cls).charged n) := by
  have e : (s.updBank t c cls fun b => b.charged n).core t c = (s.core t c).setBank cls ((s.bank t c cls).charged n) :=
    State.updBank_core_self ..
  unfold State.spend
  dsimp only
  split
  · exact e
  · exact e

theorem countSpan_core_ne (s : State) (t c cls : Nat) (t' c' : Nat) (h : coreKey t' c' ≠ coreKey t c) :
    (s.countSpan t c cls).core t' c' = s.core t' c' := by
  unfold State.countSpan
  simp only [State.setReg_core, State.setCore_core_ne _ _ _ _ _ _ h]

theorem countSpan_core (s : State) (t c cls : Nat) : ∃ n, (s.countSpan t c cls).core t c = (s.core t c).spanned n := by
  unfold State.countSpan
  exact ⟨_, by simp only [State.setReg_core, State.setCore_core_self]; rfl⟩

/-- What an ordinary issue of one cycle does: the bank's control part is what `next` makes of the bank with the new writes in its
pipeline, less those due in the cycle itself; the cycle has passed; the issue charge is taken; no other core has changed. -/
theorem issue_spec (s : State) (t c cls : Nat) (ws : List PendWrite) (next : Bank → Bank) :
    ((s.issue t c cls ws next).bank t c cls).control =
      (((next (((s.bank t c cls).charged 6).push ws)).going).drained (s.core t c).time).control ∧
    ((s.issue t c cls ws next).core t c).time = (s.core t c).time + 1 ∧
    (∀ t' c', coreKey t' c' ≠ coreKey t c → (s.issue t c cls ws next).core t' c' = s.core t' c') := by
  obtain ⟨n, hn⟩ := countSpan_core (s.spend t c cls chIssue) t c cls
  have hb : ((s.spend t c cls chIssue).countSpan t c cls).bank t c cls = (s.bank t c cls).charged 6 := by
    rw [State.bank, hn, Core.spanned_bank, spend_core, Core.setBank_bank_self]; rfl
  have ht : (((s.spend t c cls chIssue).countSpan t c cls).core t c).time = (s.core t c).time := by
    rw [hn, Core.spanned_time, spend_core, Core.setBank_time]
  have hc : ∀ t' c', coreKey t' c' ≠ coreKey t c →
      ((s.spend t c cls chIssue).countSpan t c cls).core t' c' = s.core t' c' := fun t' c' hk => by
    rw [countSpan_core_ne _ _ _ _ _ _ hk, spend_core_ne _ _ _ _ _ _ _ hk]
  have hi : s.issue t c cls ws next =
      ((((s.spend t c cls chIssue).countSpan t c cls).updBank t c cls fun b => (next (b.push ws)).going).updCore t c
        Core.thawed).passCycles t c cls 1 := rfl
  rw [hi]
  generalize (s.spend t c cls chIssue).countSpan t c cls = q at *
  have hpt : ((q.updBank t c cls fun b => (next (b.push ws)).going).core t c).time = (s.core t c).time := by
    rw [State.updBank_core_self, Core.setBank_time, ht]
  have hpb : (q.updBank t c cls fun b => (next (b.push ws)).going).bank t c cls =
      (next (((s.bank t c cls).charged 6).push ws)).going := by rw [State.updBank_bank_self, hb]
  have hpc : ∀ t' c', coreKey t' c' ≠ coreKey t c →
      (q.updBank t c cls fun b => (next (b.push ws)).going).core t' c' = s.core t' c' := fun t' c' hk => by
    rw [updBank_core_ne _ _ _ _ _ _ _ hk, hc _ _ hk]
  generalize (q.updBank t c cls fun b => (next (b.push ws)).going) = p at *
  have hrt : ((p.updCore t c Core.thawed).core t c).time = (s.core t c).time := by
    rw [State.updCore_core_self, Core.thawed_time, hpt]
  have hrb : (p.updCore t c Core.thawed).bank t c cls = (next (((s.bank t c cls).charged 6).push ws)).going := by
    rw [State.bank, State.updCore_core_self, Core.thawed_bank]; exact hpb
  have hrc : ∀ t' c', coreKey t' c' ≠ coreKey t c → (p.updCore t c Core.thawed).core t' c' = s.core t' c' := fun t' c' hk => by
    rw [updCore_core_ne _ _ _ _ _ _ hk, hpc _ _ hk]
  generalize p.updCore t c Core.thawed = r at *
  have hf : r.passCycles t c cls 1 =
      (r.retireFrom t c cls (r.core t c).time 1).updCore t c fun x => x.timed ((r.core t c).time + 1) := rfl
  rw [hf, hrt]
  obtain ⟨h1, h2, h3⟩ := retire_one r t c cls (s.core t c).time
  refine ⟨?_, ?_, ?_⟩
  · rw [State.bank, State.updCore_core_self, Core.timed_bank, ← State.bank, h2, State.updBank_bank_self, hrb]
  · rw [State.updCore_core_self, Core.timed_time]
  · intro t' c' hk
    rw [updCore_core_ne _ _ _ _ _ _ hk, h1 _ _ hk, updBank_core_ne _ _ _ _ _ _ _ hk, hrc _ _ hk]

/-- What `next` leaves of a bank when an instruction issues. -/
def KeepsRegs (next : Bank → Bank) : Prop :=
  ∀ b, (next b).pipe = b.pipe ∧ (next b).spent = b.spent ∧ (next b).g = b.g ∧ (next b).flags = b.flags ∧
    (next b).astat = b.astat ∧ (next b).ck = b.ck ∧ (next b).ps = b.ps ∧ (next b).ab = b.ab

/-- No write of a list to a g register, to flags or to a store falls due in cycle `n`. -/
def Later (n : Nat) (ws : List PendWrite) : Prop :=
  ∀ w ∈ ws, w.due = n → (∀ k, w.dst ≠ .g k) ∧ isFlagsDst w.dst = false ∧ isStatusDst w.dst = false ∧ isStoreDst w.dst = false

theorem spend_mem (s : State) (t c cls n : Nat) : (s.spend t c cls n).mem = s.mem ∧ (s.spend t c cls n).poison = s.poison := by
  unfold State.spend
  dsimp only
  split <;> exact ⟨rfl, rfl⟩

theorem mem_inCycle {n : Nat} {l : List PendWrite} {x : PendWrite} (h : x ∈ inCycle n l) : x ∈ l ∧ x.due = n := by
  unfold inCycle at h
  simp only [List.mem_append, List.mem_filter, beq_iff_eq] at h
  rcases h with h | h <;> exact h.1

/-- The frame of an issue, where `next` keeps the registers and the instruction's own writes fall due later. -/
theorem issue_framed (s : State) (t c cls : Nat) (ws : List PendWrite) (next : Bank → Bank) (hn : KeepsRegs next)
    (hw : Later (s.core t c).time ws) : Framed s (s.issue t c cls ws next) t c cls := by
  obtain ⟨m, hm⟩ := countSpan_core (s.spend t c cls chIssue) t c cls
  have hq : ((s.spend t c cls chIssue).countSpan t c cls).mem = s.mem ∧
      ((s.spend t c cls chIssue).countSpan t c cls).poison = s.poison := spend_mem s t c cls chIssue
  have hb : ((s.spend t c cls chIssue).countSpan t c cls).bank t c cls = (s.bank t c cls).charged 6 := by
    rw [State.bank, hm, Core.spanned_bank, spend_core, Core.setBank_bank_self]; rfl
  have ht : (((s.spend t c cls chIssue).countSpan t c cls).core t c).time = (s.core t c).time := by
    rw [hm, Core.spanned_time, spend_core, Core.setBank_time]
  have ho : cls < 3 → ∀ j, j < 3 → j ≠ cls → ((s.spend t c cls chIssue).countSpan t c cls).bank t c j = s.bank t c j := by
    intro h j hj e
    rw [State.bank, hm, Core.spanned_bank, spend_core, Core.setBank_bank_ne _ _ _ _ h hj e]; rfl
  have hi : s.issue t c cls ws next =
      ((((s.spend t c cls chIssue).countSpan t c cls).updBank t c cls fun b => (next (b.push ws)).going).updCore t c
        Core.thawed).passCycles t c cls 1 := rfl
  rw [hi]
  generalize (s.spend t c cls chIssue).countSpan t c cls = q at *
  generalize hp : q.updBank t c cls (fun b => (next (b.push ws)).going) = p
  have hpb : p.bank t c cls = (next (((s.bank t c cls).charged 6).push ws)).going := by
    rw [← hp, State.updBank_bank_self, hb]
  have hpt : (p.core t c).time = (s.core t c).time := by
    rw [← hp, State.updBank_core_self, Core.setBank_time, ht]
  have hpo : cls < 3 → ∀ j, j < 3 → j ≠ cls → p.bank t c j = s.bank t c j := by
    intro h j hj e
    rw [← ho h j hj e, ← hp, State.bank, State.updBank_core_self, Core.setBank_bank_ne _ _ _ _ h hj e]; rfl
  have hpm : p.mem = s.mem ∧ p.poison = s.poison := by rw [← hp]; exact hq
  clear hp hm hb ht ho hq hi
  generalize hr : p.updCore t c Core.thawed = r
  have hrb : r.bank t c cls = (next (((s.bank t c cls).charged 6).push ws)).going := by
    rw [← hr, State.bank, State.updCore_core_self, Core.thawed_bank]; exact hpb
  have hrt : (r.core t c).time = (s.core t c).time := by rw [← hr, State.updCore_core_self, Core.thawed_time, hpt]
  have hro : cls < 3 → ∀ j, j < 3 → j ≠ cls → r.bank t c j = s.bank t c j := by
    intro h j hj e
    rw [← hpo h j hj e, ← hr, State.bank, State.updCore_core_self, Core.thawed_bank]; rfl
  have hrm : r.mem = s.mem ∧ r.poison = s.poison := by rw [← hr]; exact hpm
  clear hr hpb hpt hpo hpm
  have hf : r.passCycles t c cls 1 =
      (r.retireFrom t c cls (r.core t c).time 1).updCore t c fun x => x.timed ((r.core t c).time + 1) := rfl
  rw [hf, hrt]
  have hpipe : (r.bank t c cls).pipe = (s.bank t c cls).pipe ++ ws := by
    rw [hrb]; simp only [Bank.going, (hn _).1]; rfl
  have hl : ∀ x ∈ inCycle (s.core t c).time (r.bank t c cls).pipe,
      (x ∈ (s.bank t c cls).pipe ∧ x.due = (s.core t c).time) ∨ ((∀ k, x.dst ≠ .g k) ∧ isFlagsDst x.dst = false ∧
        isStatusDst x.dst = false ∧ isStoreDst x.dst = false) := by
    intro x hx
    obtain ⟨hx, hd⟩ := mem_inCycle hx
    rw [hpipe, List.mem_append] at hx
    exact hx.imp (fun h => ⟨h, hd⟩) (fun h => hw x h hd)
  have hret : r.retireFrom t c cls (s.core t c).time 1 = (inCycle (s.core t c).time (r.bank t c cls).pipe).foldl
      (fun s w => s.applyWrite t c cls w) (r.updBank t c cls fun b => b.drained (s.core t c).time) := rfl
  obtain ⟨f1, f2, f3, f4⟩ := applyWrites_frame (inCycle (s.core t c).time (r.bank t c cls).pipe)
    (r.updBank t c cls fun b => b.drained (s.core t c).time) t c cls
  obtain ⟨-, -, f5⟩ := retire_one r t c cls (s.core t c).time
  rw [← hret] at f1 f2 f3 f4
  generalize r.retireFrom t c cls (s.core t c).time 1 = v at *
  have hu : ∀ j, (v.updCore t c fun x => x.timed ((s.core t c).time + 1)).bank t c j = v.bank t c j := fun j => by
    rw [State.bank, State.updCore_core_self, Core.timed_bank]; rfl
  have hd : (r.updBank t c cls fun b => b.drained (s.core t c).time).bank t c cls =
      (next (((s.bank t c cls).charged 6).push ws)).going.drained (s.core t c).time := by
    rw [State.updBank_bank_self, hrb]
  obtain ⟨-, -, n3, n4, n5, n6, n7, n8⟩ := hn (((s.bank t c cls).charged 6).push ws)
  refine ⟨fun k h => ?_, fun h => ?_, fun h => ?_, fun h => ?_, fun h j hj e => ?_⟩
  · rw [hu, f1 k fun x hx => ?_, hd]
    · simp only [Bank.gOf, Bank.drained, Bank.going, n3]; rfl
    · rcases hl x hx with ⟨a, b⟩ | a
      · simpa using h x a b
      · exact a.1 k
  · rw [hu, f2 fun x hx => ?_, hd]
    · simp only [Bank.drained, Bank.going, n4]; rfl
    · rcases hl x hx with ⟨a, b⟩ | a
      · exact h x a b
      · exact a.2.1
  · rw [hu]
    obtain ⟨a, b, d, e⟩ := f3 fun x hx => by
      rcases hl x hx with ⟨a, b⟩ | a
      · exact h x a b
      · exact a.2.2.1
    rw [a, b, d, e, hd]
    simp only [Bank.drained, Bank.going, n5, n6, n7, n8]
    exact ⟨rfl, rfl, rfl, rfl⟩
  · obtain ⟨a, b⟩ := f4 fun x hx => by
      rcases hl x hx with ⟨a, b⟩ | a
      · exact h x a b
      · exact a.2.2.2
    have a' : v.mem = s.mem := a.trans hrm.1
    have b' : v.poison = s.poison := b.trans hrm.2
    intro sp unit x
    exact ⟨congrArg (fun m => memGet m (gAddr sp unit x)) a', congrArg (fun l => l.contains (gGran sp unit x)) b'⟩
  · rw [hu, f5.2 h j hj e, State.bank, State.updBank_core_self, Core.setBank_bank_ne _ _ _ _ h hj e]
    exact hro h j hj e

/-- An ordinary issue leaves what `Issued` says. -/
theorem issue_issued (s : State) (t c cls : Nat) (ws : List PendWrite) (next : Bank → Bank)
    (h : KeepsRegs next) (hw : Later (s.core t c).time ws) : Issued s (s.issue t c cls ws next) t c cls ws := by
  obtain ⟨h1, h2, h3⟩ := issue_spec s t c cls ws next
  refine ⟨fun w hw hd => ?_, h2, ?_, h3, issue_framed s t c cls ws next h hw⟩
  · have e := congrArg Bank.pipe h1
    change ((s.issue t c cls ws next).bank t c cls).pipe = _ at e
    rw [e]
    simp only [Bank.control, Bank.drained, Bank.going, (h _).1]
    simp only [Bank.push, Bank.charged, List.mem_filter, List.mem_append]
    exact ⟨.inr hw, by simpa using hd⟩
  · have e := congrArg Bank.spent h1
    change ((s.issue t c cls ws next).bank t c cls).spent = _ at e
    rw [e]
    simp only [Bank.control, Bank.drained, Bank.going, (h _).2.1]
    rfl

theorem next_keeps : KeepsRegs Bank.next := by
  intro b
  unfold Bank.next
  split <;> exact ⟨rfl, rfl, rfl, rfl, rfl, rfl, rfl, rfl⟩

theorem issued_mono {s u : State} {t c cls : Nat} {ws ws' : List PendWrite} (h : Issued s u t c cls ws)
    (k : ∀ w ∈ ws', w ∈ ws) : Issued s u t c cls ws' := ⟨fun w hw => h.1 w (k w hw), h.2⟩

theorem later_nil (n : Nat) : Later n [] := fun _ h => absurd h List.not_mem_nil

/-- The writes of an operation of Format A, and of its moves, fall due later but for the post-modifications. -/
theorem later_compute (w n : Nat) (o : Bank) : Later n (computeWrites w n o) := by
  intro x hx hd
  unfold computeWrites at hx
  dsimp only at hx
  split at hx
  · cases hx
  all_goals
    exfalso
    split at hx
    · simp only [List.mem_cons, List.not_mem_nil, or_false] at hx
      subst hx
      simp at hd
    all_goals
      first
      | (split at hx
         · simp only [List.mem_cons, List.not_mem_nil, or_false] at hx
           subst hx
           simp at hd
         · split at hx <;>
           (simp only [List.mem_cons, List.not_mem_nil, or_false] at hx
            rcases hx with e | e <;> subst e <;> simp at hd))

theorem later_moves (s : State) (t c n : Nat) (b o : Bank) (ms : List Move) :
    Later n (ms.flatMap fun v => s.moveWrites t c n b o v) := by
  intro x hx hd
  obtain ⟨v, -, hx⟩ := List.mem_flatMap.1 hx
  unfold State.moveWrites at hx
  dsimp only at hx
  rcases List.mem_append.1 hx with hx | hx
  · exfalso
    split at hx <;> (simp only [List.mem_cons, List.not_mem_nil, or_false] at hx; subst hx; simp at hd)
  · simp only [List.mem_cons, List.not_mem_nil, or_false] at hx
    subst hx
    exact ⟨fun k h => (nomatch h), rfl, rfl, rfl⟩

theorem later_append {n : Nat} {l m : List PendWrite} (h : Later n l) (k : Later n m) : Later n (l ++ m) :=
  fun x hx => (List.mem_append.1 hx).elim (h x) (k x)

/-- A write that falls due after cycle `n`. -/
theorem later_cons {n : Nat} {x : PendWrite} {l : List PendWrite} (h : x.due ≠ n) (k : Later n l) : Later n (x :: l) :=
  fun y hy hd => (List.mem_cons.1 hy).elim (fun e => absurd (e ▸ hd) h) fun hy => k y hy hd

/-! ### The formats -/

theorem moveAll_some (s : State) (t c cls n : Nat) (b o : Bank) (ms : List Move)
    (h : ∀ v ∈ ms, s.moveFaults t c cls b v = false) :
    s.moveAll t c cls n b o ms = some (ms.flatMap fun v => s.moveWrites t c n b o v) := by
  unfold State.moveAll
  rw [if_neg]
  simpa using h

/-- The stores that fall due before the accesses of an instruction change nothing of a core but the pipeline. -/
theorem commitStores_time (s : State) (t c cls n : Nat) :
    ((s.commitStores t c cls n).core t c).time = (s.core t c).time := by
  unfold State.commitStores
  dsimp only
  rw [(applyWrites_same _ _ t c cls).2.2.1, State.setBank, State.setCore_core_self, Core.setBank_time]

/-- A Format A word whose moves do not fault issues with the writes of its operation and of its moves; `s'` is the state with the word
in the loop cache. -/
theorem formatA_yields (s : State) (t c cls : Nat) (w : Word64) (op : Nat) (h : SeqAt s t c cls w 0 op) (s' : State)
    (hs : (s.capture t c cls w).commitStores t c cls ((s.capture t c cls w).core t c).time = s')
    (hm : ∀ v ∈ movesA w.toNat, s'.moveFaults t c cls (s'.bank t c cls) v = false) :
    ∃ u, s.formatA t c w op = .next u ∧ Issued s' u t c cls
      (computeWrites w.toNat (s.core t c).time ((s'.bank t c cls).opView (s.core t c).time) ++
        (movesA w.toNat).flatMap fun v => s'.moveWrites t c (s.core t c).time (s'.bank t c cls)
          ((s'.bank t c cls).opView (s.core t c).time) v) := by
  have ht : ((s.capture t c cls w).core t c).time = (s.core t c).time := (capture_beside s t c cls w).2.2.1
  have hc := commitStores_time (s.capture t c cls w) t c cls (s.core t c).time
  rw [ht] at hs hc
  rw [hs] at hc
  refine ⟨_, ?_, issue_issued _ _ _ _ _ _ next_keeps ?_⟩
  · unfold State.formatA
    rw [seq_of_at h]
    dsimp only
    rw [ht, hs, moveAll_some _ _ _ _ _ _ _ _ hm]
  · rw [hc]
    exact later_append (later_compute _ _ _) (later_moves _ _ _ _ _ _ _)

/-- A Format B word without a bus access issues with its writes. -/
theorem formatB_yields (s : State) (t c cls : Nat) (w : Word64) (op : Nat) (f : Nat → Bank → Bank → List PendWrite)
    (h : SeqAt s t c cls w 1 op) (s' : State) (hs : s.capture t c cls w = s')
    (hw : Later (s'.core t c).time (f (s'.core t c).time (s'.bank t c cls) ((s'.bank t c cls).opView (s'.core t c).time))) :
    ∃ u, s.formatB t c w op f = .next u ∧ Issued s' u t c cls
      (f (s'.core t c).time (s'.bank t c cls) ((s'.bank t c cls).opView (s'.core t c).time)) := by
  subst hs
  exact ⟨_, seq_of_at h _, issue_issued _ _ _ _ _ _ next_keeps hw⟩

end Sys2Proof.Machine
end

