-- ==== Sys2Proof/WellFormed.lean ====
section
/-! DEFINITION. Well-formed commands: the operands name units that the part has and values in the range of their fields. -/

namespace Sys2Proof

open Machine

/-- A physical core of a tile die. -/
def coreAt (t c : Nat) : Bool := decide (t < 60) && decide (c < 9)
/-- A populated DA (R12, R13). -/
def isDie (da : Nat) : Bool := (dieKind da).isSome
/-- A lane of E4 or E5. -/
def laneAt (e n : Nat) : Bool := decide (4 ≤ e) && decide (e < 6) && decide (n < 8)
/-- A region of a fabric die (R283). -/
def regionAt (f r : Nat) : Bool := decide (f < 24) && decide (r < 16)
/-- An offset within a page of the BAR0 window (R25). -/
def offsetAt (page off : Nat) : Bool := decide (page < 256) && decide (off < 4096) && off % 4 == 0
/-- A legal word of the sequencer of one format and operation (R157). -/
def seqWord (fmt op : Nat) (w : Word64) : Bool := iFmt w.toNat == fmt && iOp w.toNat == op && seqLegal w.toNat
/-- A legal word of the vector engine of one operation (R169). -/
def vecWord (op : Nat) (w : Word64) : Bool := vOp w.toNat == op && vecLegal w.toNat
/-- A packet of one opcode whose payload has the length that LEN says, at most 256 bytes (R236). -/
def packetOf (opc : BitVec 4) (p : Packet) : Bool := p.opc == opc && decide (p.data.length ≤ 256)
/-- A message of one kind (R237). -/
def messageOf (kind : Nat) (p : Packet) : Bool := packetOf opMSG p && p.aux.toNat == kind
/-- Failures of one array: rows of a batch and columns up to the checksum column (R79). -/
def checkOk (x : CheckFail) : Bool :=
  decide (x.array < 4) && (x.rows.all fun r => decide (r < 256)) && x.cols.all fun k => decide (k < 32)

/-- A command whose operands are in range. -/
def wellFormed (i : Instr) : Bool :=
  match i with
  | .tickEdge => true
  | .timetableDispatch => true
  | .ttNop i => decide (i < 32768)
  | .start i => decide (i < 32768)
  | .barrier i => decide (i < 32768)
  | .stream i => decide (i < 32768)
  | .sample i => decide (i < 32768)
  | .clear i => decide (i < 32768)
  | .release i => decide (i < 32768)
  | .signal i => decide (i < 32768)
  | .deadline i => decide (i < 32768)
  | .arm => true
  | .disarm => true
  | .faultReport p => messageOf 5 p
  | .restartStrobe => true
  | .restoreAck t => decide (t < 60)
  | .dieLost t => decide (t < 60)
  | .restartEdge => true
  | .plannedStretch l k => decide (l < 56) && decide (k < 8)
  | .reserveLoad l => decide (l < 56)
  | .digest p => messageOf 3 p
  | .escrowCommit t c => coreAt t c
  | .verdict p => messageOf 4 p
  | .recordApply da g => isDie da && decide (g < 16)
  | .rdPkt p => packetOf opRD p
  | .wrPkt p => packetOf opWR p
  | .arr p => packetOf opARR p
  | .sig p => packetOf opSIG p
  | .rdr p => packetOf opRDR p
  | .wrr p => packetOf opWRR p
  | .stealRequest p => messageOf 1 p
  | .stealReply p => messageOf 2 p
  | .ledgerCharge p => messageOf 6 p
  | .timeout da port tag => isDie da && decide (port < 16) && decide (tag < 1024)
  | .forward da out upset => isDie da && decide (out < 10) && decide (upset.getD 0 ≤ 9)
  | .ageIncrement da inp q => isDie da && decide (inp < 5) && decide (q < 6)
  | .flitCrcError da port => isDie da && (linkAt da port).isSome
  | .retrainComplete da port bad => isDie da && (linkAt da port).isSome && bad.all fun l => decide (l < 136)
  | .linkFailure link => decide (link < 180) || (decide (256 ≤ link) && dieKind (link - 256) == some .tile)
  | .preempt t c => coreAt t c
  | .mov t c w => coreAt t c && seqWord 0 0 w
  | .addG t c w => coreAt t c && seqWord 0 1 w
  | .subG t c w => coreAt t c && seqWord 0 2 w
  | .andG t c w => coreAt t c && seqWord 0 3 w
  | .orG t c w => coreAt t c && seqWord 0 4 w
  | .xorG t c w => coreAt t c && seqWord 0 5 w
  | .shl t c w => coreAt t c && seqWord 0 6 w
  | .shr t c w => coreAt t c && seqWord 0 7 w
  | .sar t c w => coreAt t c && seqWord 0 8 w
  | .mulG t c w => coreAt t c && seqWord 0 9 w
  | .minG t c w => coreAt t c && seqWord 0 10 w
  | .maxG t c w => coreAt t c && seqWord 0 11 w
  | .cmp t c w => coreAt t c && seqWord 0 12 w
  | .fadd t c w => coreAt t c && seqWord 0 13 w
  | .fsub t c w => coreAt t c && seqWord 0 14 w
  | .fmul t c w => coreAt t c && seqWord 0 15 w
  | .fma t c w => coreAt t c && seqWord 0 16 w
  | .fcmp t c w => coreAt t c && seqWord 0 17 w
  | .fcvti t c w => coreAt t c && seqWord 0 18 w
  | .fcvtz t c w => coreAt t c && seqWord 0 19 w
  | .ldi t c w => coreAt t c && seqWord 1 0 w
  | .addi t c w => coreAt t c && seqWord 1 1 w
  | .cmpi t c w => coreAt t c && seqWord 1 2 w
  | .ld t c w => coreAt t c && seqWord 1 3 w
  | .st t c w => coreAt t c && seqWord 1 4 w
  | .seta t c w => coreAt t c && seqWord 1 5 w
  | .setm t c w => coreAt t c && seqWord 1 6 w
  | .setl t c w => coreAt t c && seqWord 1 7 w
  | .mova t c w => coreAt t c && seqWord 1 8 w
  | .movm t c w => coreAt t c && seqWord 1 9 w
  | .movl t c w => coreAt t c && seqWord 1 10 w
  | .movg t c w => coreAt t c && seqWord 1 11 w
  | .rds t c w => coreAt t c && seqWord 1 12 w
  | .clst t c w => coreAt t c && seqWord 1 13 w
  | .clev t c w => coreAt t c && seqWord 1 14 w
  | .br t c w => coreAt t c && seqWord 2 0 w
  | .call t c w => coreAt t c && seqWord 2 1 w
  | .ret t c w => coreAt t c && seqWord 2 2 w
  | .rpt t c w => coreAt t c && seqWord 2 3 w
  | .rpb t c w => coreAt t c && seqWord 2 4 w
  | .wait t c w => coreAt t c && seqWord 2 5 w
  | .endP t c w => coreAt t c && seqWord 2 6 w
  | .mqi t c w => coreAt t c && seqWord 3 0 w
  | .mqim t c w => coreAt t c && seqWord 3 1 w
  | .vla t c w => coreAt t c && seqWord 3 2 w
  | .sis t c w => coreAt t c && seqWord 3 3 w
  | .arrive t c w => coreAt t c && seqWord 3 4 w
  | .gate t c w => coreAt t c && seqWord 3 5 w
  | .matrixMultiply t c => coreAt t c
  | .weightLoad t c => coreAt t c
  | .matrixNop t c => coreAt t c
  | .multiplyComplete t c => coreAt t c
  | .weightLoadComplete t c => coreAt t c
  | .matrixCheck t c fails => coreAt t c && fails.all checkOk
  | .vnop t c r w => coreAt t c && decide (r < 128) && vecWord 0x00 w
  | .vadd t c r w => coreAt t c && decide (r < 128) && vecWord 0x01 w
  | .vsub t c r w => coreAt t c && decide (r < 128) && vecWord 0x02 w
  | .vmul t c r w => coreAt t c && decide (r < 128) && vecWord 0x03 w
  | .vfma t c r w => coreAt t c && decide (r < 128) && vecWord 0x04 w
  | .vmin t c r w => coreAt t c && decide (r < 128) && vecWord 0x05 w
  | .vmax t c r w => coreAt t c && decide (r < 128) && vecWord 0x06 w
  | .vand t c r w => coreAt t c && decide (r < 128) && vecWord 0x07 w
  | .vor t c r w => coreAt t c && decide (r < 128) && vecWord 0x08 w
  | .vxor t c r w => coreAt t c && decide (r < 128) && vecWord 0x09 w
  | .vshl t c r w => coreAt t c && decide (r < 128) && vecWord 0x0A w
  | .vshr t c r w => coreAt t c && decide (r < 128) && vecWord 0x0B w
  | .vsar t c r w => coreAt t c && decide (r < 128) && vecWord 0x0C w
  | .vcvt t c r w => coreAt t c && decide (r < 128) && vecWord 0x0D w
  | .vmovi t c r w => coreAt t c && decide (r < 128) && vecWord 0x0E w
  | .vcmp t c r w => coreAt t c && decide (r < 128) && vecWord 0x0F w
  | .vsel t c r w => coreAt t c && decide (r < 128) && vecWord 0x10 w
  | .vshfl t c r w => coreAt t c && decide (r < 128) && vecWord 0x11 w
  | .vred t c r w => coreAt t c && decide (r < 128) && vecWord 0x12 w
  | .vld t c r w => coreAt t c && decide (r < 128) && vecWord 0x13 w
  | .vst t c r w => coreAt t c && decide (r < 128) && vecWord 0x14 w
  | .vtu t c r w => coreAt t c && decide (r < 128) && vecWord 0x15 w
  | .vbr t c r w => coreAt t c && decide (r < 128) && vecWord 0x16 w
  | .vsync t c r w => coreAt t c && decide (r < 128) && vecWord 0x17 w
  | .vsyncRelease t c r => coreAt t c && decide (r < 128)
  | .vend t c r w => coreAt t c && decide (r < 128) && vecWord 0x18 w
  | .vclr t c r w => coreAt t c && decide (r < 128) && vecWord 0x19 w
  | .gateOpen t c cls => coreAt t c && decide (cls < 3)
  | .streamRequest t c => coreAt t c
  | .streamComplete t c cls => coreAt t c && decide (cls < 3)
  | .translationWalk t c _ => coreAt t c
  | .strCancel t c => coreAt t c
  | .strXinv t => decide (t < 60)
  | .strXresume t c => coreAt t c
  | .resumeParked t c => coreAt t c
  | .tokenRefill da => (blkAt da pgTlr).isSome
  | .taskStage t c => coreAt t c
  | .taskDispatch t c => coreAt t c
  | .taskOverrun t c => coreAt t c
  | .stealSend t c => coreAt t c
  | .backoff t c => coreAt t c
  | .proposalExpiry t c => coreAt t c
  | .layerReady layer => decide (layer < 256)
  | .auditSampleDone t _ _ => decide (t < 60)
  | .auditAbandon t _ => decide (t < 60)
  | .tieBreak cg => decide (cg < 1024)
  | .tieBreakDone cg _ => decide (cg < 1024)
  | .tieBreakExpiry cg => decide (cg < 1024)
  | .agingMeasurement da _ => isDie da
  | .serviceTickSave => true
  | .attestationReport => true
  | .recoveryLoad => true
  | .maintenanceStop => true
  | .ledgerCopy => true
  | .sessionRequest _ => true
  | .close => true
  | .kick => true
  | .watchdogExpiry => true
  | .flr => true
  | .linkDown => true
  | .d3hot => true
  | .perst => true
  | .eventWrite => true
  | .dmaDescriptor ch _ _ => decide (ch < 4)
  | .broadcastWrite page off _ failing => offsetAt page off && failing.all fun x => isDie x.1 && decide (1 ≤ x.2) && decide (x.2 < 6)
  | .rxFrame port _ _ => decide (port < 4)
  | .txPoll port => decide (port < 4)
  | .txDone port _ => decide (port < 4)
  | .syncMessage _ => true
  | .syncTimeout => true
  | .gateInterval port => decide (port < 4)
  | .filterOutput e ch _ => decide (e < 4) && decide (ch < 64)
  | .comparatorOutput e ch _ => decide (e < 4) && decide (ch < 64)
  | .updatePoint e k _ => decide (e < 4) && decide (k < 4)
  | .pwmEdge e g j => decide (e < 4) && decide (g < 48) && decide (j < 8)
  | .tripInput e n => decide (e < 4) && decide (n < 16)
  | .tripLine k => decide (k < 32)
  | .stopN => true
  | .stopSource f k => decide (f < 24) && decide (k < 8)
  | .sgReset e _ => decide (e < 6)
  | .sgForce e _ => decide (e < 6)
  | .encoderTrigger e n _ => decide (e < 4) && decide (n < 16)
  | .encoderReadDone e n _ => decide (e < 4) && decide (n < 16)
  | .blockLock e n => laneAt e n
  | .capsSend e n => laneAt e n
  | .caps e n versions axes => laneAt e n && decide (versions < 4) && decide (axes < 16)
  | .capsTimeout e n => laneAt e n
  | .v2LockTimeout e n => laneAt e n
  | .linkLoss e n => laneAt e n
  | .sync e n => laneAt e n
  | .feedbackFrame e n data _ => laneAt e n && decide (data.length ≤ 256)
  | .tripBlock e n reason => laneAt e n && decide (reason < 256)
  | .stopRepeat e n => laneAt e n
  | .dramCommit ch done => decide (ch < 12) && done.all fun r => r.all fun b => b.all fun y => decide (y < 80)
  | .requestAged ch _ => decide (ch < 12)
  | .refreshDue ch => decide (ch < 12)
  | .refreshStart ch => decide (ch < 12)
  | .neighbourRefresh ch => decide (ch < 12)
  | .activateTableClear ch => decide (ch < 12)
  | .ovdRaise ch da sport => decide (ch < 12) && isDie da && decide (sport < 16)
  | .overdraftEnd ch da sport => decide (ch < 12) && isDie da && decide (sport < 16)
  | .overdraftGrant ch => decide (ch < 12)
  | .overdraftExpiry ch => decide (ch < 12)
  | .alert ch => decide (ch < 12)
  | .replay ch _ => decide (ch < 12)
  | .patrolScrub ch bad => decide (ch < 12) && bad.all fun y => decide (y < 80)
  | .moduleTemperature ch _ => decide (ch < 12)
  | .fabLoad f r v => regionAt f r && decide (v < 8)
  | .fabUnload f r => regionAt f r
  | .variantVerified f r _ => regionAt f r
  | .drainEnd f r => regionAt f r
  | .loadingDone f r => regionAt f r
  | .loadTimeout f r => regionAt f r
  | .releaseWait f r => regionAt f r
  | .configScrub f r _ _ => regionAt f r
  | .portLate f port => decide (f < 24) && decide (port < 64)
  | .initiatorRequest f port p => decide (f < 24) && decide (port < 16) && (p.isRequest || p.opc == opARR || p.opc == opSIG)
  | .portResponse f port tag data rsp => decide (f < 24) && decide (port < 64) && decide (tag < 64) && decide (data.length ≤ 256) &&
      decide ((rsp.getD []).length ≤ 8)
  | .grant => true
  | .quantumEnd _ _ _ => true
  | .bucketUpdate _ _ _ => true
  | .refund t _ => decide (t < 60)
  | .limit _ => true
  | .sensorReading da _ => isDie da
  | .railUndervoltage _ _ => true
  | .porst _ => true
  | .keeperStart => true
  | .powerLoss => true
  | .shutdown => true
  | .nobist => true
  | .bistGroupDone sigs => sigs.all fun x => isDie x.da && decide (x.block < 16)
  | .reload => true
  | .imgAbort => true
  | .loadStep _ => true
  | .loadStepTimeout => true
  | .flashWriteDone _ => true
  | .key5a => true
  | .keyA5 _ => true
  | .fuseProgramDone _ => true
  | .srst da page => decide (da < 256) && decide (page < 256)
  | .maxClr da page off => decide (da < 256) && offsetAt page off
  | .clearingRead da page off => decide (da < 256) && offsetAt page off
  | .latchingRead da page off => decide (da < 256) && offsetAt page off
  | .registerWrite da page off _ => decide (da < 256) && offsetAt page off
  | .undervoltageRecovery => true
  | .stopNRelease => true
  | .tripInputInactive e n => decide (e < 4) && decide (n < 16)
  | .stopSourceRelease f k => decide (f < 24) && decide (k < 8)
  | .invalidBlock e n => laneAt e n
  | .blockMemoryRead f r b row _ => regionAt f r && decide (b < 150) && decide (row < 512)
  | .portLinkChange port _ => decide (port < 4)
  | .pcieLinkUp speed width => decide (1 ≤ speed) && decide (speed ≤ 5) && [1, 2, 4, 8, 16].contains width
  | .timedOutTagReuse da port tag => isDie da && decide (port < 16) && decide (tag < 1024)

end Sys2Proof
end

