-- ==== Sys2Proof/Tests/Slice0.lean ====
section
/-! SUPPORT. The model's own tests: ill-formed commands, worked examples of the spec, and for every statement with
hypotheses a state and operands that meet them. -/

namespace Sys2Proof.Tests

open Sys2Proof Sys2Proof.Machine

/- One theorem after the other: a kernel check that waits for those before it would hold a thread each. -/
set_option Elab.async false

/-! ### Ill-formed commands are refused, one for each check of `wellFormed` -/

/-- The commands of one instruction word of a core's sequencer. -/
def seqCommands : List (Nat → Nat → Word64 → Instr) :=
  [.mov, .addG, .subG, .andG, .orG, .xorG, .shl, .shr, .sar, .mulG, .minG, .maxG, .cmp, .fadd, .fsub, .fmul, .fma, .fcmp,
   .fcvti, .fcvtz] ++
  [.ldi, .addi, .cmpi, .ld, .st, .seta, .setm, .setl, .mova, .movm, .movl, .movg, .rds, .clst, .clev] ++
  [.br, .call, .ret, .rpt, .rpb, .wait, .endP] ++ [.mqi, .mqim, .vla, .sis, .arrive, .gate]

/-- The commands of one instruction word of a roll. -/
def vecCommands : List (Nat → Nat → Nat → Word64 → Instr) :=
  [.vnop, .vadd, .vsub, .vmul, .vfma, .vmin, .vmax, .vand, .vor, .vxor, .vshl, .vshr, .vsar, .vcvt, .vmovi, .vcmp] ++
  [.vsel, .vshfl, .vred, .vld, .vst, .vtu, .vbr, .vsync, .vend, .vclr]

/-- The commands of one core. -/
def coreCommands : List (Nat → Nat → Instr) :=
  [.preempt, .matrixMultiply, .weightLoad, .matrixNop, .multiplyComplete, .weightLoadComplete, .streamRequest, .strCancel,
   .strXresume, .resumeParked] ++
  [.taskStage, .taskDispatch, .taskOverrun, .stealSend, .backoff, .proposalExpiry, .escrowCommit,
   fun t c => .gateOpen t c 0, fun t c => .streamComplete t c 0, fun t c => .translationWalk t c false,
   fun t c => .matrixCheck t c []]

theorem test_wf_entries : [Instr.ttNop, .start, .barrier, .stream, .sample, .clear, .release, .signal, .deadline].all
    (fun f => wellFormed (f 32768) == false && wellFormed (f 32767)) = true := by decide

theorem test_wf_tiles : [Instr.restoreAck, .dieLost, .strXinv, fun t => .auditSampleDone t 0 0, fun t => .auditAbandon t true,
    fun t => .refund t 0].all (fun f => wellFormed (f 60) == false && wellFormed (f 59)) = true := by decide

theorem test_wf_cores : coreCommands.all
    (fun f => wellFormed (f 60 0) == false && wellFormed (f 0 9) == false && wellFormed (f 59 8)) = true := by decide

theorem test_wf_sequencer_words : seqCommands.all (fun f => wellFormed (f 0 0 (-1)) == false) = true ∧
    wellFormed (.mov 0 9 0) = false ∧ wellFormed (.mov 0 0 0) = true ∧ wellFormed (.mov 0 0 1) = false ∧
    wellFormed (.addG 0 0 0) = false := by decide

theorem test_wf_roll_words : vecCommands.all (fun f => wellFormed (f 0 0 0 (-1)) == false) = true ∧
    wellFormed (.vnop 0 0 128 0) = false ∧ wellFormed (.vnop 60 0 0 0) = false ∧ wellFormed (.vnop 0 0 127 0) = true ∧
    wellFormed (.vsyncRelease 0 0 128) = false ∧ wellFormed (.vadd 0 0 0 0) = false := by decide

theorem test_wf_classes : wellFormed (.gateOpen 0 0 3) = false ∧ wellFormed (.streamComplete 0 0 3) = false ∧
    wellFormed (.gateOpen 0 0 2) = true := by decide

theorem test_wf_check_failures : wellFormed (.matrixCheck 0 0 [⟨4, [], []⟩]) = false ∧
    wellFormed (.matrixCheck 0 0 [⟨0, [256], []⟩]) = false ∧ wellFormed (.matrixCheck 0 0 [⟨0, [], [32]⟩]) = false ∧
    wellFormed (.matrixCheck 0 0 [⟨3, [255], [31]⟩]) = true := by decide

/-- A packet without data of an opcode and an auxiliary word. -/
def bare (opc : BitVec 4) (aux : Nat) : Packet := { Packet.blank with opc := opc, aux := BitVec.ofNat 32 aux }

theorem test_wf_packets : ([(Instr.rdPkt, opRD), (.wrPkt, opWR), (.arr, opARR), (.sig, opSIG), (.rdr, opRDR), (.wrr, opWRR)].all
    fun r => wellFormed (r.1 (bare r.2 0)) && wellFormed (r.1 (bare opMSG 0)) == false &&
      wellFormed (r.1 { bare r.2 0 with data := List.replicate 257 0 }) == false) = true := by decide +kernel

theorem test_wf_messages : ([(Instr.stealRequest, 1), (.stealReply, 2), (.digest, 3), (.verdict, 4), (.faultReport, 5),
    (.ledgerCharge, 6)].all fun r => wellFormed (r.1 (bare opMSG r.2)) && wellFormed (r.1 (bare opMSG 0)) == false &&
      wellFormed (r.1 (bare opRD r.2)) == false) = true := by decide

theorem test_wf_network : wellFormed (.timeout 0xA0 0 0) = false ∧ wellFormed (.timeout 4 16 0) = false ∧
    wellFormed (.timeout 4 0 1024) = false ∧ wellFormed (.timeout 4 15 1023) = true ∧
    wellFormed (.timedOutTagReuse 0xA0 0 0) = false ∧ wellFormed (.timedOutTagReuse 4 16 0) = false ∧
    wellFormed (.timedOutTagReuse 4 0 1024) = false ∧ wellFormed (.forward 0xA0 0 none) = false ∧
    wellFormed (.forward 4 10 none) = false ∧ wellFormed (.forward 4 4 (some 10)) = false ∧
    wellFormed (.forward 4 9 (some 9)) = true ∧ wellFormed (.ageIncrement 4 5 0) = false ∧
    wellFormed (.ageIncrement 4 4 6) = false ∧ wellFormed (.ageIncrement 0x0A 0 0) = false := by decide

theorem test_wf_links : wellFormed (.flitCrcError 0x00 3) = (linkAt 0x00 3).isSome ∧ wellFormed (.flitCrcError 0x0A 0) = false ∧
    wellFormed (.flitCrcError 0x20 4) = false ∧ wellFormed (.retrainComplete 0x24 0 [136]) = false ∧
    wellFormed (.retrainComplete 0x24 0 [135]) = true ∧ wellFormed (.linkFailure 180) = false ∧
    wellFormed (.linkFailure 179) = true ∧ wellFormed (.linkFailure (256 + 0x20)) = true ∧
    wellFormed (.linkFailure (256 + 0x04)) = false := by decide

theorem test_wf_dies : wellFormed (.recordApply 0x0A 0) = false ∧ wellFormed (.recordApply 0 16) = false ∧
    wellFormed (.agingMeasurement 0x0A []) = false ∧ wellFormed (.sensorReading 0x0A []) = false ∧
    wellFormed (.tokenRefill 0x0A) = false ∧ wellFormed (.tokenRefill 0x20) = true ∧
    wellFormed (.plannedStretch 56 0) = false ∧ wellFormed (.plannedStretch 0 8) = false ∧
    wellFormed (.reserveLoad 56) = false ∧ wellFormed (.reserveLoad 55) = true := by decide

theorem test_wf_audit : wellFormed (.layerReady 256) = false ∧ wellFormed (.tieBreak 1024) = false ∧
    wellFormed (.tieBreakDone 1024 none) = false ∧ wellFormed (.tieBreakExpiry 1024) = false ∧
    wellFormed (.tieBreak 1023) = true := by decide

theorem test_wf_registers : wellFormed (.srst 256 0) = false ∧ wellFormed (.srst 0 256) = false ∧
    wellFormed (.maxClr 0 0 2) = false ∧ wellFormed (.maxClr 0 0 4096) = false ∧ wellFormed (.maxClr 256 0 0) = false ∧
    wellFormed (.clearingRead 0 256 0) = false ∧ wellFormed (.latchingRead 0 0 1) = false ∧
    wellFormed (.registerWrite 255 255 4092 0) = true ∧ wellFormed (.registerWrite 255 255 4093 0) = false ∧
    wellFormed (.broadcastWrite 0 4096 0 []) = false ∧ wellFormed (.broadcastWrite 0 0 0 [(0x0A, 1)]) = false ∧
    wellFormed (.broadcastWrite 0 0 0 [(4, 0)]) = false ∧ wellFormed (.broadcastWrite 0 0 0 [(4, 6)]) = false ∧
    wellFormed (.broadcastWrite 0 0 0 [(4, 5)]) = true := by decide

theorem test_wf_host : wellFormed (.dmaDescriptor 4 [] []) = false ∧ wellFormed (.rxFrame 4 [] 0) = false ∧
    wellFormed (.txPoll 4) = false ∧ wellFormed (.txDone 4 0) = false ∧ wellFormed (.gateInterval 4) = false ∧
    wellFormed (.portLinkChange 4 true) = false ∧ wellFormed (.pcieLinkUp 0 1) = false ∧
    wellFormed (.pcieLinkUp 6 1) = false ∧ wellFormed (.pcieLinkUp 5 3) = false ∧ wellFormed (.pcieLinkUp 5 16) = true := by
  decide

theorem test_wf_edge : wellFormed (.filterOutput 4 0 []) = false ∧ wellFormed (.filterOutput 0 64 []) = false ∧
    wellFormed (.comparatorOutput 4 0 []) = false ∧ wellFormed (.comparatorOutput 0 64 []) = false ∧
    wellFormed (.updatePoint 4 0 false) = false ∧ wellFormed (.updatePoint 0 4 false) = false ∧
    wellFormed (.pwmEdge 4 0 0) = false ∧ wellFormed (.pwmEdge 0 48 0) = false ∧ wellFormed (.pwmEdge 0 0 8) = false ∧
    wellFormed (.tripInput 4 0) = false ∧ wellFormed (.tripInput 0 16) = false ∧ wellFormed (.tripLine 32) = false ∧
    wellFormed (.tripInputInactive 4 0) = false ∧ wellFormed (.tripInputInactive 0 16) = false := by decide

theorem test_wf_stops : wellFormed (.stopSource 24 0) = false ∧ wellFormed (.stopSource 0 8) = false ∧
    wellFormed (.stopSourceRelease 24 0) = false ∧ wellFormed (.stopSourceRelease 0 8) = false ∧
    wellFormed (.sgReset 6 0) = false ∧ wellFormed (.sgForce 6 0) = false ∧ wellFormed (.encoderTrigger 4 0 true) = false ∧
    wellFormed (.encoderTrigger 0 16 true) = false ∧ wellFormed (.encoderReadDone 4 0 []) = false ∧
    wellFormed (.encoderReadDone 0 16 []) = false := by decide

theorem test_wf_lanes : ([Instr.blockLock, .capsSend, .capsTimeout, .v2LockTimeout, .linkLoss, .sync, .stopRepeat, .invalidBlock,
    fun e n => .caps e n 3 15, fun e n => .feedbackFrame e n [] 0, fun e n => .tripBlock e n 255].all
    fun f => wellFormed (f 3 0) == false && wellFormed (f 6 0) == false && wellFormed (f 4 8) == false && wellFormed (f 5 7)) = true ∧
    wellFormed (.caps 4 0 4 0) = false ∧ wellFormed (.caps 4 0 0 16) = false ∧ wellFormed (.tripBlock 4 0 256) = false := by
  decide

theorem test_wf_lane_frame : wellFormed (.feedbackFrame 4 0 (List.replicate 257 0) 0) = false := by decide +kernel

theorem test_wf_memory : ([(Instr.dramCommit · []), .refreshDue, .refreshStart, .neighbourRefresh, .activateTableClear, .overdraftGrant,
    .overdraftExpiry, .alert, fun ch => .requestAged ch 0, fun ch => .replay ch true, fun ch => .moduleTemperature ch 0,
    fun ch => .patrolScrub ch [], fun ch => .ovdRaise ch 4 0, fun ch => .overdraftEnd ch 4 0].all
    fun f => wellFormed (f 12) == false && wellFormed (f 11)) = true ∧
    wellFormed (.patrolScrub 0 [80]) = false ∧ wellFormed (.dramCommit 0 [[[], [80]]]) = false ∧
    wellFormed (.ovdRaise 0 0x0A 0) = false ∧ wellFormed (.ovdRaise 0 4 16) = false ∧
    wellFormed (.overdraftEnd 0 0x0A 0) = false ∧ wellFormed (.overdraftEnd 0 4 16) = false := by decide

theorem test_wf_regions : ([fun f r => Instr.fabLoad f r 7, .fabUnload, (Instr.variantVerified · · true), .drainEnd, .loadingDone, .loadTimeout,
    .releaseWait, fun f r => .configScrub f r 0 1, fun f r => .blockMemoryRead f r 149 511 1].all
    fun f => wellFormed (f 24 0) == false && wellFormed (f 0 16) == false && wellFormed (f 23 15)) = true ∧
    wellFormed (.fabLoad 0 0 8) = false ∧ wellFormed (.blockMemoryRead 0 0 150 0 1) = false ∧
    wellFormed (.blockMemoryRead 0 0 0 512 1) = false := by decide

theorem test_wf_ports : wellFormed (.portLate 24 0) = false ∧ wellFormed (.portLate 0 64) = false ∧
    wellFormed (.initiatorRequest 24 0 (bare opRD 0)) = false ∧ wellFormed (.initiatorRequest 0 16 (bare opRD 0)) = false ∧
    wellFormed (.initiatorRequest 0 0 (bare opMSG 0)) = false ∧ wellFormed (.initiatorRequest 23 15 (bare opARR 0)) = true ∧
    wellFormed (.portResponse 24 0 0 [] none) = false ∧ wellFormed (.portResponse 0 64 0 [] (some [])) = false ∧
    wellFormed (.portResponse 0 0 64 [] none) = false := by decide

theorem test_wf_port_data : wellFormed (.portResponse 0 0 0 (List.replicate 257 0) none) = false := by decide +kernel

theorem test_wf_bist : wellFormed (.bistGroupDone [⟨0x0A, 0, 0⟩]) = false ∧ wellFormed (.bistGroupDone [⟨4, 16, 0⟩]) = false ∧
    wellFormed (.bistGroupDone [⟨4, 15, 0⟩]) = true := by decide


/-! ### States -/

/-- The device up and configured with the start routes serving, and nothing else changed from reset. -/
def dev : State := { State.reset with boot := { State.reset.boot with porst := false, power := .configured, time := 1000 }, net := { State.reset.net with startRoutes := true } }

/-- A running tick of period 5,000 at a local cycle, in tick 3. -/
def ticking (cycle : Nat) : State :=
  (dev.setReg pacerDA pgTkc 0x040 5000).setPacer { dev.pacer with phase := .running, tick := 3, cycle := cycle }

/-- Sequencer words of the four formats (R157). -/
def wA (op gd gs1 gs2 : Nat) (moves : Nat := 0) : Nat := op * 2 ^ 56 + gd * 2 ^ 51 + gs1 * 2 ^ 46 + gs2 * 2 ^ 41 + moves
def wB (op gd gs ai bus mi imm : Nat) : Nat :=
  2 ^ 62 + op * 2 ^ 56 + gd * 2 ^ 51 + gs * 2 ^ 46 + ai * 2 ^ 42 + bus * 2 ^ 40 + mi * 2 ^ 36 + imm
def wC (op cond len unit target count : Nat) : Nat :=
  2 * 2 ^ 62 + op * 2 ^ 56 + cond * 2 ^ 52 + len * 2 ^ 39 + unit * 2 ^ 35 + target * 2 ^ 16 + count
def wD (op gd gs1 gs2 ai e kmax imm : Nat) : Nat :=
  3 * 2 ^ 62 + op * 2 ^ 56 + gd * 2 ^ 51 + gs1 * 2 ^ 46 + gs2 * 2 ^ 41 + ai * 2 ^ 37 + e * 2 ^ 27 + kmax * 2 ^ 24 + imm

/-- Core `c` of tile die `t`, whose class `cls` bank stands at the word `w` at the last word of the core store. -/
def seqS (t c cls w : Nat) (f : Bank → Bank := id) : State :=
  let s := dev.setReg (tileDA t) (pgSeq c) (0x060 + 4 * cls) (256 * 2 ^ 8)
  let s := s.writeAll .core (coreKey t c) 0xFFFF8 (leBytes 8 w) false
  (s.updCore t c fun k => { k with issuing := some cls }).updBank t c cls fun b => f { b with active := true, pc := 0x1FFFF }

/-- A g register's entry in a bank. -/
def gReg (i v : Nat) (p : Bool := false) : Nat × PWord := (i, { val := BitVec.ofNat 32 v, poison := p })

abbrev w64 (w : Nat) : Word64 := BitVec.ofNat 64 w

/-! ### For every statement with hypotheses, a state and operands that meet them -/

theorem hyp_StepTakesFront : { dev with pending := [.kick, .close] }.pending = .kick :: [.close] := rfl

theorem hyp_IdleCycle : (∀ s ∈ [dev, ticking 4999, State.reset], s.pending = [] ∧ s.memIn = [] ∧ s.regions = [] ∧ s.lanes = [] ∧ s.clearings = [] ∧
    (∀ e ∈ List.range 6, (s.edge e).deliveries = [] ∧ (∀ g ∈ List.range 16, (s.outGroup (edgeDA e) g).left = []) ∧
      ∀ n ∈ List.range 16, s.tiChanges e n = false) ∧
    (∀ p ∈ List.range 4, s.dma p = none ∧ (s.eth p).rx = none ∧ (s.eth p).rxq = [] ∧ (s.eth p).tx = none)) ∧
    dev.regs = [] := by decide +kernel

theorem hyp_MemoryFormKept : MemoryOk (seqS 0 0 0 (wA 1 1 2 3)) ∧
    ∃ t, step { seqS 0 0 0 (wA 1 1 2 3) with pending := [.addG 0 0 (w64 (wA 1 1 2 3))] } = .next t := by
  exact ⟨by unfold MemoryOk; decide +kernel, _, rfl⟩

theorem hyp_FusesOnlyBlow : bit (({ dev with pending := [.kick], keeper := { dev.keeper with fuses := [(4, 2)] } } : State).fuse 4) 1 = true ∧
    ∃ t, step { dev with pending := [.kick], keeper := { dev.keeper with fuses := [(4, 2)] } } = .next t := by
  exact ⟨by decide, _, rfl⟩

/-- Three clauses: due now with nothing due next, due next, due later. -/
theorem hyp_PipelineForwards : (∀ x ∈ ({ pipe := [wrG 7 1 5 false] } : Bank).pipe, x.due ≠ 5 + 1) ∧ 5 + 1 < 7 := by decide

theorem hyp_IntegerOperations : ∀ op ∈ List.range 12,
    let w := if op = 0 then wA 0 0 0 0 else wA op 1 2 3
    let s := seqS 59 8 2 w
    SeqAt s 59 8 2 (w64 w) 0 op ∧
    ∀ v ∈ movesA (w64 w).toNat, (s.commitStores 59 8 2 0).moveFaults 59 8 2 ((s.commitStores 59 8 2 0).bank 59 8 2) v = false := by
  unfold SeqAt; decide +kernel

/-- The same with all three moves present: X and Y load and C loads, none of them a fault. -/
theorem hyp_IntegerOperations_moves :
    let w := wA 1 1 2 3 (2 ^ 39 + 4 * 2 ^ 34 + 2 ^ 24 + 5 * 2 ^ 19 + 2 ^ 15 + 2 ^ 10 + 6 * 2 ^ 5)
    let s := seqS 0 0 0 w
    SeqAt s 0 0 0 (w64 w) 0 1 ∧ (movesA (w64 w).toNat).length = 3 ∧
    ∀ v ∈ movesA (w64 w).toNat, (s.commitStores 0 0 0 0).moveFaults 0 0 0 ((s.commitStores 0 0 0 0).bank 0 0 0) v = false := by
  unfold SeqAt; decide +kernel

theorem hyp_CompareOperations :
    SeqAt (seqS 0 0 0 (wA 12 0 2 3)) 0 0 0 (w64 (wA 12 0 2 3)) 0 12 ∧ movesA (w64 (wA 12 0 2 3)).toNat = [] ∧
    SeqAt (seqS 0 0 0 (wB 2 0 2 0 0 0 0xFFFFFFFF)) 0 0 0 (w64 (wB 2 0 2 0 0 0 0xFFFFFFFF)) 1 2 ∧
    SeqAt (seqS 0 0 0 (wA 17 0 2 3)) 0 0 0 (w64 (wA 17 0 2 3)) 0 17 ∧ movesA (w64 (wA 17 0 2 3)).toNat = [] := by
  unfold SeqAt; decide +kernel

theorem hyp_FloatOperations : ∀ op ∈ [13, 14, 15, 16, 18, 19],
    let w := if op < 18 then wA op 1 2 3 else wA op 1 2 0
    SeqAt (seqS 0 0 1 w) 0 0 1 (w64 w) 0 op ∧ movesA (w64 w).toNat = [] := by
  unfold SeqAt; decide +kernel

theorem hyp_ImmediateAndMoveOperations :
    (∀ r ∈ [(0, wB 0 1 0 0 0 0 5), (1, wB 1 1 2 0 0 0 5), (5, wB 5 0 0 3 0 0 0xFFFFF), (6, wB 6 0 0 3 0 0 0x80000),
        (7, wB 7 0 0 3 0 0 0x100000), (8, wB 8 0 2 3 0 0 0), (9, wB 9 0 2 3 0 0 0), (10, wB 10 0 2 3 0 0 0),
        (11, wB 11 1 0 3 0 0 0), (12, wB 12 1 0 0 0 0 6), (13, wB 13 0 0 0 0 0 15), (14, wB 14 0 0 0 0 0 7)],
      SeqAt (seqS 0 0 0 r.2 fun b => { b with g := [gReg 2 0x100000] }) 0 0 0 (w64 r.2) 1 r.1) ∧
    (let g := ((seqS 0 0 0 (wB 10 0 2 3 0 0 0) fun b => { b with g := [gReg 2 0x100000] }).bank 0 0 0).gOf 2
     g.poison = false ∧ g.val.toNat ≤ 0x100000) := by
  unfold SeqAt; decide +kernel

/-- LD and ST at the window's last word, at the coefficient store's last word, and one word beyond each. -/
theorem hyp_LoadsAndStores :
    (∀ r ∈ [(3, wB 3 1 0 5 0 4 0, 0xFFFFC), (3, wB 3 1 0 5 2 4 0, 0xFFFC), (4, wB 4 0 1 5 1 4 0, 0xFFFFC),
        (4, wB 4 0 1 5 2 4 0, 0xFFFC)],
      let s := seqS 0 0 0 r.2.1 fun b => { b with a := [(5, BitVec.ofNat 20 r.2.2)] }
      SeqAt s 0 0 0 (w64 r.2.1) 1 r.1 ∧ ((s.commitStores 0 0 0 0).bank 0 0 0).aOf 5 = r.2.2 ∧ r.2.2 % 4 = 0 ∧
        (r.2.2 < 0x10000 ∨ (s.commitStores 0 0 0 0).inWindow 0 0 0 r.2.2 4 = true)) ∧
    (∀ r ∈ [(3, wB 3 1 0 5 0 4 0, 0xFFFFE), (3, wB 3 1 0 5 2 4 0, 0x10000), (4, wB 4 0 1 5 2 4 0, 0x10000)],
      let s := seqS 0 0 0 r.2.1 fun b => { b with a := [(5, BitVec.ofNat 20 r.2.2)] }
      SeqAt s 0 0 0 (w64 r.2.1) 1 r.1 ∧ ((s.commitStores 0 0 0 0).bank 0 0 0).aOf 5 = r.2.2 ∧
        ¬ (r.2.2 % 4 = 0 ∧ if iBus r.2.1 = 2 then r.2.2 < 0x10000 else s.inWindow 0 0 0 r.2.2 4 = true)) := by
  unfold SeqAt; decide +kernel

theorem hyp_ControlTransfers :
    let taken := fun (b : Bank) => { b with flags := { z := true }, rstack := [1, 2, 3] }
    let not_ := fun (b : Bank) => { b with flags := { poison := false }, rstack := [1, 2, 3, 4] }
    (∀ r ∈ [(0, wC 0 1 0 0 9 0), (1, wC 1 1 0 0 9 0), (2, wC 2 1 0 0 0 0)],
      SeqAt (seqS 0 0 0 r.2 taken) 0 0 0 (w64 r.2) 2 r.1 ∧ ((seqS 0 0 0 r.2 taken).bank 0 0 0).cond (iCond (w64 r.2).toNat) = some true ∧
      ((seqS 0 0 0 r.2 taken).bank 0 0 0).flags.poison = false ∧ ((seqS 0 0 0 r.2 taken).bank 0 0 0).rstack = [1, 2, 3] ∧
      SeqAt (seqS 0 0 0 r.2 not_) 0 0 0 (w64 r.2) 2 r.1 ∧ ((seqS 0 0 0 r.2 not_).bank 0 0 0).cond (iCond (w64 r.2).toNat) = some false) ∧
    condReadsFlags 0 = false ∧ ((seqS 0 0 0 0).bank 0 0 0).cond 0 = some true := by
  unfold SeqAt; decide +kernel

theorem hyp_RepeatsAndWaits :
    (∀ r ∈ [(3, wC 3 0 0 0 0 1), (3, wC 3 0 0 0 0 0), (4, wC 4 0 64 0 0 1), (4, wC 4 0 64 0 0 0), (4, wC 4 0 0 0 0 1)],
      SeqAt (seqS 0 0 0 r.2) 0 0 0 (w64 r.2) 2 r.1 ∧ iCsrc (w64 r.2).toNat = false ∧ iCount (w64 r.2).toNat ≤ 1) ∧
    (let w := wC 3 0 0 8 0 0 + 2 * 2 ^ 47
     SeqAt (seqS 0 0 0 w fun b => { b with g := [gReg 2 0x10003] }) 0 0 0 (w64 w) 2 3 ∧ iCsrc (w64 w).toNat = true ∧
     (((seqS 0 0 0 w fun b => { b with g := [gReg 2 0x10003] }).bank 0 0 0).gOf (iCgs (w64 w).toNat)).val.toNat % 2 ^ 16 = 3) ∧
    (let w := wC 5 0 0 3 0 2
     SeqAt (seqS 0 0 0 w fun b => { b with outM := 1, outV := 1 }) 0 0 0 (w64 w) 2 5 ∧
     ((seqS 0 0 0 w fun b => { b with outM := 1, outV := 1 }).bank 0 0 0).outstanding (iUnit (w64 w).toNat) ≤ iCount (w64 w).toNat ∧
     SeqAt (seqS 0 0 0 w fun b => { b with outM := 3 }) 0 0 0 (w64 w) 2 5 ∧
     iCount (w64 w).toNat < ((seqS 0 0 0 w fun b => { b with outM := 3 }).bank 0 0 0).outstanding (iUnit (w64 w).toNat) ∧
     ((seqS 0 0 0 w fun b => { b with outM := 3 }).bank 0 0 0).boundary = true) ∧
    (let s := seqS 0 0 0 (wC 6 0 0 0 0 0)
     SeqAt s 0 0 0 (w64 (wC 6 0 0 0 0 0)) 2 6 ∧ (s.bank 0 0 0).outM = 0 ∧ (s.bank 0 0 0).outV = 0 ∧ (s.bank 0 0 0).outS = 0 ∧
     (s.bank 0 0 0).isTask = false ∧ (s.bank 0 0 0).spent = 0 ∧
     let k := seqS 0 0 2 (wC 6 0 0 0 0 0) fun b => { b with isTask := true }
     SeqAt k 0 0 2 (w64 (wC 6 0 0 0 0 0)) 2 6 ∧ (k.bank 0 0 2).isTask = true) := by
  unfold SeqAt; decide +kernel

theorem hyp_GateSelects :
    let w := wD 5 2 4 0 1 32 4 0
    let s := seqS 0 0 0 w
    SeqAt s 0 0 0 (w64 w) 3 5 ∧ iE (w64 w).toNat = 32 ∧ (((s.bank 0 0 0).opView 0).gOf (iGs1 (w64 w).toNat)).poison = false ∧
      (s.bank 0 0 0).aOf (iDai (w64 w).toNat) = 0 ∧ s.inWindow 0 0 0 0 (4 * 32) = true ∧
      ∀ x ∈ s.gateScores 0 0 0 0 0 32, x.poison = false := by
  unfold SeqAt; decide +kernel

theorem hyp_PreemptionAtBoundary :
    let s := fun (f : Bank → Bank) => (dev.updCore 0 0 fun k => { k with issuing := some 2, bE := f { active := true }, bG := { active := true } })
    ((s id).core 0 0).issuing = some 2 ∧ ((s id).core 0 0).highest = some 0 ∧ (((s id).core 0 0).bank 2).boundary = true ∧
    ((s id).core 0 0).frozen = false ∧
    (let s' := s fun b => { b with delay := some (1, none) }
     (s'.core 0 0).issuing = some 2 ∧ (s'.core 0 0).highest = some 0 ∧ ((s'.core 0 0).bank 2).boundary = false) := by
  decide +kernel


/-- The sixteen words of a descriptor that copies `n` words from byte 0 of the core store to byte `dst` (R197). -/
def copyDesc (n dst : Nat) (w0 : Nat := 0) : List Nat :=
  [2 * 2 ^ 6 + w0, n + 2 ^ 16, 1 + 2 ^ 16, 1, 0, 0xFF * 2 ^ 16, dst, 0, 0, 0, 0, 0, 0, 0, 0, 0]

def descWords (l : List Nat) : List Word := l.map fun n => BitVec.ofNat 32 n

/-- A descriptor stands in fixed descriptor 0 of core 0 of T0. -/
def withDesc (l : List Nat) (s : State) : State := s.writeAll .fdesc (coreKey 0 0) 0 (l.flatMap fun w => leBytes 4 w) false

theorem hyp_UnitIssue_matrix :
    let w := wD 0 0 4 0 0 0 0 0
    let wm := wD 1 0 0 0 3 0 0 0
    let s := (seqS 0 0 2 w).setTile 0 { allowance := 1 }
    let sm := seqS 0 0 0 wm
    SeqAt s 0 0 2 (w64 w) 3 0 ∧ (∀ k ∈ List.range 4, (((s.bank 0 0 2).opView 0).gOf (4 + k)).poison = false) ∧
    ((s.core 0 0).quad.queue.filter fun x => decide (2 ≤ 2) || x.cls != 2).length < 4 ∧
    s.coinHold 0 0 2 ({ w0 := 0, w1 := 0, w2 := 0, w3 := 0, cls := 2, seq := 0, skip := false, due := 5 } : MqCmd).charge = false ∧
    s.pageEn (tileDA 0) (pgMq 0) = true ∧
    SeqAt sm 0 0 0 (w64 wm) 3 1 ∧ ((sm.commitStores 0 0 0 0).bank 0 0 0).aOf 3 = 0 ∧
    (sm.commitStores 0 0 0 0).inWindow 0 0 0 0 16 = true ∧ (sm.commitStores 0 0 0 0).psn .core (coreKey 0 0) 0 = false ∧
    (sm.commitStores 0 0 0 0).coinHold 0 0 0 0 = false ∧ (sm.commitStores 0 0 0 0).pageEn (tileDA 0) (pgMq 0) = true := by
  unfold SeqAt; decide +kernel

theorem hyp_UnitIssue_launch :
    let w := wD 2 0 4 5 0 0 0 0
    let s := (seqS 0 0 0 w fun b => { b with g := [gReg 4 (16 * 2 ^ 12)] }).setReg (tileDA 0) (pgVec 0) 0x040 16
    let lw := ((s.bank 0 0 0).opView 0).gOf (iGs1 (w64 w).toNat)
    SeqAt s 0 0 0 (w64 w) 3 2 ∧ lw.poison = false ∧ (((s.bank 0 0 0).opView 0).gOf (iGs2 (w64 w).toNat)).poison = false ∧
    s.launchRefused 0 0 0 lw.val = false ∧ 0 < launchRolls lw.val ∧ launchRolls lw.val ≤ (s.freeRolls 0 0 0).length ∧
    s.pageEn (tileDA 0) (pgVec 0) = true := by
  unfold SeqAt; decide +kernel

theorem hyp_UnitIssue_stream_and_arrival :
    let w := wD 3 0 0 0 0 0 0 0
    let s := withDesc (copyDesc 8 256) (seqS 0 0 0 w)
    let wa := wD 4 0 0 0 0 0 0 (0xFF * 2 ^ 16 + 1023)
    SeqAt s 0 0 0 (w64 w) 3 3 ∧ (s.core 0 0).str.count 0 < 4 ∧ (∀ x ∈ (s.core 0 0).str.waiting, x.cls ≠ 0) ∧ s.coinHold 0 0 0 0 = false ∧
    (s.commitStores 0 0 0 3).descriptor 0 0 0 (iImm16 (w64 w).toNat) = some (descWords (copyDesc 8 256)) ∧ dTotal (descWords (copyDesc 8 256)) ≠ 0 ∧
    s.streamOk 0 0 0 (decide (iImm16 (w64 w).toNat < 1024)) (descWords (copyDesc 8 256)) = true ∧
    s.pageEn (tileDA 0) (pgStr 0) = true ∧
    SeqAt (seqS 0 0 0 wa) 0 0 0 (w64 wa) 3 4 ∧ iDie (w64 wa).toNat = 0xFF := by
  unfold SeqAt; decide +kernel

/-- A quad of core 0 of T0. -/
def quadS (q : Quad) : State := dev.updCore 0 0 fun k => { k with quad := q }

/-- A matrix command of class 0 by its first two words (R61). -/
def mqCmd (w0 w1 : Nat) : MqCmd :=
  { w0 := BitVec.ofNat 32 w0, w1 := BitVec.ofNat 32 w1, w2 := 0, w3 := 0, cls := 0, seq := 0, skip := false, due := 0 }

/-- Planes of INT8 weights in all four arrays. -/
def planes8 : Table Plane := [(0, { valid := true }), (2, { valid := true }), (4, { valid := true }), (6, { valid := true })]

theorem hyp_MatrixQueue :
    (quadS { queue := [mqCmd 0 0] }).queueHead 0 0 = some (mqCmd 0 0, []) ∧
    (let m := mqCmd (1 + 2 ^ 5) 0
     (quadS { queue := [m, m] }).queueHead 0 0 = some (m, [m]) ∧ m.kind = 1 ∧ m.loadLegal = true ∧ m.wide = false) ∧
    (anyBadCls 1 [0, 0, 0, 0] = false) ∧
    (let m := mqCmd 2 256
     (quadS { queue := [m], planes := planes8 }).queueHead 0 0 = some (m, []) ∧ m.kind = 2 ∧
     m.geo = some (.int, ⟨32, 128, 1⟩) ∧ m.mulLegal = true ∧ ({ queue := [m], planes := planes8 } : Quad).fits m = true ∧
     ({ queue := [m], planes := planes8 } : Quad).mulReady m ⟨32, 128, 1⟩ = true ∧ m.m = 256 ∧
     (quadS { queue := [m], planes := planes8 }).skippable 0 0 m ⟨32, 128, 1⟩ { queue := [m], planes := planes8 } = false) ∧
    (let m := mqCmd (2 + 2 ^ 15) 1
     (quadS { queue := [m] }).queueHead 0 0 = some (m, []) ∧ m.kind = 2 ∧ m.mulLegal = false) ∧
    (let m := mqCmd (2 + 15 * 2 ^ 9) 1
     (quadS { queue := [m] }).queueHead 0 0 = some (m, []) ∧ m.kind = 2 ∧ m.geo = none) := by decide +kernel

/-- An executing multiply of 256 rows. -/
def mulEx : MulExec := { cmd := mqCmd 2 256, outs := [], flags := 8, refund := 0, lfsr0 := 0, skipped := false, rows := 256 }

theorem hyp_MatrixCompletionsAndChecks :
    ((quadS { muls := [mulEx] }).quad 0 0).muls = [mulEx] ∧ ((quadS { load := some (mqCmd 0x1E1 0) }).quad 0 0).load = some (mqCmd 0x1E1 0) ∧
    bit (mqCmd 0x1E1 0).amask 3 = true ∧ mulEx.cmd.geo = some (.int, ⟨32, 128, 1⟩) ∧ mulEx.skipped = false ∧
    (mulEx.cmd.sources ⟨32, 128, 1⟩ 0).1 = [0] ∧
    (let e := { mulEx with refund := 3, outs := [⟨0, [1, 2], false⟩, ⟨32, [3], true⟩] }
     ((quadS { muls := [e] }).quad 0 0).muls = [e] ∧ e.refund ≠ 0 ∧ e.outs ≠ [] ∧
     ∀ o ∈ e.outs, ∀ o' ∈ e.outs, o' = o ∨ o'.addr + o'.bytes.length ≤ o.addr ∨ o.addr + o.bytes.length ≤ o'.addr) ∧
    mulEx.fails = [] ∧ mergeFails mulEx.fails [⟨0, [255], []⟩, ⟨3, [], [31]⟩] mulEx.cmd.m = [⟨0, [255], []⟩, ⟨3, [], [31]⟩] ∧ bit (chkInfo [⟨0, [255], []⟩, ⟨3, [], [31]⟩] mulEx.cmd.m) 2 = true ∧
    bit (chkInfo [⟨0, [255], []⟩, ⟨3, [], [31]⟩] mulEx.cmd.m) 3 = true := by decide +kernel


/-- Vector words (R169). -/
def vW (op vd va vb : Nat) (rest : Nat := 0) : Nat := op * 2 ^ 56 + vd * 2 ^ 51 + va * 2 ^ 46 + vb * 2 ^ 41 + rest
/-- A guard: predicate 1, not negated. -/
def guarded : Nat := 2 ^ 34 + 2 ^ 32

/-- Roll 127 of class 0 on core 8 of T59 stands at the word `w`, the last of the vector instruction store; predicate 1 holds
in lane 31 only, the window is the whole core store. -/
def rollS (w : Nat) (v : Table PWord := []) : State :=
  let s := dev.setReg (tileDA 59) (pgSeq 8) 0x060 (256 * 2 ^ 8)
  let s := s.writeAll .vis (coreKey 59 8) (8 * 4095) (leBytes 8 w) false
  s.updCore 59 8 fun k => { k with vec := { k.vec with rolls := [(127, { cls := 0, launch := 1, pc := 4095, v := v, p := [(32 + 31, (true, false))] })] } }

def rollX (v : Table PWord := []) : Roll := { cls := 0, launch := 1, pc := 4095, v := v, p := [(32 + 31, (true, false))] }

theorem hyp_VectorLanes :
    ∀ r ∈ [(0x01, vW 1 31 2 3 guarded), (0x02, vW 2 31 2 3), (0x03, vW 3 1 2 3), (0x04, vW 4 1 2 3), (0x05, vW 5 1 2 3),
        (0x06, vW 6 1 2 3), (0x07, vW 7 1 2 3 (2 ^ 27)), (0x08, vW 8 1 2 3 (2 ^ 27)), (0x09, vW 9 1 2 3 (2 ^ 27)),
        (0x0A, vW 10 1 2 3 (2 ^ 27)), (0x0B, vW 11 1 2 3 (2 ^ 27)), (0x0C, vW 12 1 2 3 (2 ^ 27)), (0x0D, vW 13 1 2 0 1),
        (0x0E, vW 14 1 0 0 0x1FFFF), (0x10, vW 16 1 2 3 (2 ^ 34)), (0x11, vW 17 1 2 3), (0x15, vW 21 1 2 3 7)],
      (rollS r.2).slot 59 8 127 (w64 r.2) r.1 = some rollX := by decide +kernel

/-- The guarded word has one active lane and 31 that are not. -/
theorem hyp_VectorLanes_lanes : rollX.active (vW 1 31 2 3 guarded) 31 = true ∧ rollX.active (vW 1 31 2 3 guarded) 0 = false ∧
    rollX.lanes (vW 1 31 2 3 guarded) = [31] := by decide

theorem hyp_VectorReductionPredicatesPoison :
    (rollS (vW 0x12 1 2 0 (2 ^ 27))).slot 59 8 127 (w64 (vW 0x12 1 2 0 (2 ^ 27))) 0x12 = some rollX ∧
    vTyp (w64 (vW 0x12 1 2 0 (2 ^ 27))).toNat = 1 ∧ vImm (w64 (vW 0x12 1 2 0 (2 ^ 27))).toNat = 0 ∧
    (rollS (vW 0x0F 3 2 3 (guarded + 6))).slot 59 8 127 (w64 (vW 0x0F 3 2 3 (guarded + 6))) 0x0F = some rollX ∧
    (rollS (vW 0x19 31 0 0 guarded)).slot 59 8 127 (w64 (vW 0x19 31 0 0 guarded)) 0x19 = some rollX := by decide +kernel

/-- Lane 31 at the last word of the window. -/
theorem hyp_VectorMemory :
    let v : Table PWord := [(32 * 2 + 31, { val := 0x100000, poison := false })]
    (rollS (vW 0x13 1 2 0 (guarded + 0xFFFC)) v).slot 59 8 127 (w64 (vW 0x13 1 2 0 (guarded + 0xFFFC))) 0x13 = some (rollX v) ∧
    (rollS (vW 0x14 0 2 3 (guarded + 0xFFFC)) v).slot 59 8 127 (w64 (vW 0x14 0 2 3 (guarded + 0xFFFC))) 0x14 = some (rollX v) ∧
    (rollX v).lanes (vW 0x14 0 2 3 (guarded + 0xFFFC)) = [31] ∧ (rollX v).addr (vW 0x14 0 2 3 (guarded + 0xFFFC)) 31 = 0xFFFFC ∧
    (∀ l ∈ (rollX v).lanes (vW 0x14 0 2 3 (guarded + 0xFFFC)),
      (rollS 0 v).laneFaults 59 8 0 ((rollX v).addr (vW 0x14 0 2 3 (guarded + 0xFFFC)) l) = false) ∧
    (∀ q ∈ [(0x13, vW 0x13 1 2 0 guarded), (0x14, vW 0x14 0 2 3 guarded)],
      (rollS q.2 v).slot 59 8 127 (w64 q.2) q.1 = some (rollX v) ∧
      ∃ l ∈ (rollX v).lanes q.2, (rollS q.2 v).laneFaults 59 8 0 ((rollX v).addr q.2 l) = true) := by decide +kernel

theorem hyp_VectorControl :
    (rollS 0).slot 59 8 127 0 0 = some rollX ∧
    (rollS (vW 0x16 0 0 0 (guarded + 0x0FFF))).slot 59 8 127 (w64 (vW 0x16 0 0 0 (guarded + 0x0FFF))) 0x16 = some rollX ∧
    (∀ p ∈ (List.range 32).map fun l => rollX.psel (vW 0x16 0 0 0 (guarded + 0x0FFF)) l, p.2 = false) ∧
    (rollS (vW 0x17 0 0 0)).slot 59 8 127 (w64 (vW 0x17 0 0 0)) 0x17 = some rollX ∧
    (rollS (vW 0x18 0 0 0)).slot 59 8 127 (w64 (vW 0x18 0 0 0)) 0x18 = some rollX ∧
    (let s := (rollS 0).updCore 59 8 fun k => { k with vec := { k.vec with rolls := [(127, { rollX with atSync := true })] } }
     tget? (s.core 59 8).vec.rolls 127 = some { rollX with atSync := true } ∧
     ∀ y ∈ (s.core 59 8).vec.rolls, y.2.launch = 1 → y.2.atSync = true) := by decide +kernel

/-! Streams -/

/-- T0 is retired. -/
def retiredT0 : State := dev.setPlace { dev.place with state := [(0, 2)] }

/-- A stream of a class from SIS with a descriptor. -/
def strm (cls : Nat) (d : List Nat) : Stream := { cls := cls, src := .sis, index := 0, desc := descWords d, gateOpen := true }
def strS (l : List Stream) : State := dev.updCore 0 0 fun k => { k with str := { k.str with streams := l } }

theorem hyp_StreamRequestsAndCompletion :
    let d := copyDesc 100 256
    let s := strS [strm 0 d]
    ((s.core 0 0).str.waiting = [] ∧ s.admitStreams 0 0 = s ∧ (s.core 0 0).str.running 0 = some (strm 0 d) ∧
      (strm 0 d).gateOpen = true ∧ (s.core 0 0).reached (strm 0 d).due = true ∧
      (strm 0 d).next < dTotal (strm 0 d).desc ∧ (strm 0 d).walk = false ∧ (strm 0 d).cursor = none ∧ dXlt (strm 0 d).desc = false ∧ sideLocal (strm 0 d).desc (dSSP (strm 0 d).desc) = true ∧
      sideLocal (strm 0 d).desc (dDSP (strm 0 d).desc) = true ∧ dPsn (strm 0 d).desc ≠ 1 ∧ (strm 0 d).runLen = 64) ∧
    (s.nextRequest 0 0 (strm 0 d)).isSome = true ∧
    (let shut := { strm 0 d with gateOpen := false }
     let s1 := strS [shut, strm 1 d]
     s1.admitStreams 0 0 = s1 ∧ ((s1.core 0 0).str.running 0).bind (s1.nextRequest 0 0) = none ∧ (s1.core 0 0).str.running 1 = some (strm 1 d) ∧
     (s1.nextRequest 0 0 (strm 1 d)).isSome = true ∧
     (let s2 := (((strS [shut, strm 2 d]).setTile 0 { allowance := 10 ^ 6 }).setTeller (tileDA 0) 0 { level := 4 })
      s2.admitStreams 0 0 = s2 ∧ ((s2.core 0 0).str.running 0).bind (s2.nextRequest 0 0) = none ∧ ((s2.core 0 0).str.running 1).bind (s2.nextRequest 0 0) = none ∧
      (s2.core 0 0).str.running 2 = some (strm 2 d) ∧ (s2.nextRequest 0 0 (strm 2 d)).isSome = true)) ∧
    (let done := { strm 0 (copyDesc 100 256 (2 ^ 14)) with next := 100 }
     ((strS [done]).core 0 0).str.running 0 = some done ∧ done.settled = true ∧ dRec done.desc = true ∧ done.src = .sis ∧
     ((strS [done]).core 0 0).str.waiting = []) ∧
    ((strS [{ strm 1 d with gateOpen := false }]).gateOpen 0 (strm 1 d).desc = true ∧
     ((strS [{ strm 1 d with gateOpen := false }]).core 0 0).str.waiting = []) ∧
    (((dev.updBank 0 0 2 fun b => { b with active := true }).bank 0 0 2).active = true ∧
     dev.retired (tileDA 0) (pgStr 0) = false ∧ (dev.bank 0 0 2).active = false ∧
     ((retiredT0.updBank 0 0 2 fun b => { b with active := true }).bank 0 0 2).active = true ∧
     retiredT0.retired (tileDA 0) (pgStr 0) = true ∧ retiredT0.retired (tileDA 0) pgStrDie = true) := by decide +kernel

/-- A class 2 stream that reads translated DRAM at virtual address 0 (SPACE 2, XLT), and one that writes it. -/
def xltDesc (write : Bool) : List Nat :=
  if write then [2 * 2 ^ 6 + 2 ^ 11 + 2 * 2 ^ 3, 1 + 2 ^ 16, 1 + 2 ^ 16, 1, 0, 0xFF * 2 ^ 16, 0, 0, 0, 0, 0, 0, 0, 0, 0, 0]
  else [2 * 2 ^ 6 + 2 ^ 11 + 2, 1 + 2 ^ 16, 1 + 2 ^ 16, 1, 0, 0xFF * 2 ^ 16, 0, 0, 0, 0, 0, 0, 0, 0, 0, 0]

/-- A class 2 stream whose walk has read both entries, the page read-only, on a device with DRAM. -/
def walkSt (d : List Nat) : Stream := { strm 2 d with walk := true, entries := [(1 + 2 ^ 17, false), (1 + 3 * 2 ^ 21, false)] }
def walkS (d : List Nat) : State := (strS [walkSt d]).setReg (memoryDA 0) 0xC0 0x040 1

theorem hyp_TranslationParkingAndTokens :
    (let st := walkSt (xltDesc false)
     let s := walkS (xltDesc false)
     (s.core 0 0).str.running 2 = some st ∧ st.walked = true ∧ st.cursor = none ∧ st.walkVa = (0, true) ∧
     s.walkResult st.walkVa.1 st.entries false = (some ⟨0, 3, false⟩, false) ∧
     (s.tile 0).noCache.contains 0 = false ∧
     ((s.setTile 0 { s.tile 0 with noCache := [0] }).tile 0).noCache.contains 0 = true ∧
     (s.setTile 0 { s.tile 0 with noCache := [0] }).walkResult st.walkVa.1 st.entries false = (some ⟨0, 3, false⟩, false)) ∧
    (let st := walkSt (xltDesc true)
     let s := walkS (xltDesc true)
     (s.core 0 0).str.running 2 = some st ∧ st.walked = true ∧ st.cursor = none ∧ st.walkVa = (0, false) ∧
     s.walkResult st.walkVa.1 st.entries false = (some ⟨0, 3, false⟩, false) ∧
     s.walkResult st.walkVa.1 st.entries true = (none, true)) ∧
    (dev.retired (tileDA 0) pgStrDie = false ∧ retiredT0.retired (tileDA 0) pgStrDie = true ∧
     dev.retired (tileDA 0) (pgStr 0) = false ∧ retiredT0.retired (tileDA 0) (pgStr 0) = true) ∧
    (let s := dev.updDisp 0 0 fun d => { d with resume := true }
     (s.disp 0 0).resume = true ∧ (s.disp 0 0).ret = none ∧ s.pacer.cycle = 0) ∧
    (blkAt 0x20 pgTlr).isSome = true ∧ dev.pageEn 0x20 pgTlr = true := by decide +kernel

/-! Tasks -/

/-- A task without input stream, stealable everywhere. -/
def task0 : Task := { w0 := BitVec.ofNat 32 (2 * 2 ^ 19 + 5), w1 := 7, w2 := BitVec.ofNat 32 (2 * 2 ^ 16 + 0xFFFF), w3 := 0, w4 := 0, w5 := 0, w6 := 0, w7 := 0 }

/-- Core 0 of T0 takes tasks and steals; its ring of 4 stands at byte 0 of the core store with `n` times `task0`. -/
def ringS (n : Nat) : State :=
  let s := (dev.setReg (tileDA 0) (pgVec 0) 0x048 (4 * 2 ^ 16)).setReg (tileDA 0) (pgVec 0) 0x04C 7
  let s := (s.setReg (tileDA 0) (pgVec 0) 0x050 0xFFFFFFFF).writeAll .core (coreKey 0 0) 4 (leBytes 4 n) false
  s.writeAll .core (coreKey 0 0) 32 (((List.range 4).map fun _ => task0.bytes).flatten) false

/-- A task whose input stream is descriptor 0. -/
def taskIn0 : Task := { task0 with w2 := BitVec.ofNat 32 (2 * 2 ^ 16) }

theorem hyp_TaskStagingAndDispatch_input :
    let d := copyDesc 4 1024
    let s := (withDesc d ((ringS 0).updDisp 0 0 fun d => { d with ret := some taskIn0 })).setReg (tileDA 0) (pgSeq 0) 0x068 (2 ^ 8)
    s.takesTasks 0 0 = true ∧ s.restoring = false ∧ (s.disp 0 0).staged = none ∧ (s.disp 0 0).ret = some taskIn0 ∧ s.taskOk taskIn0 = true ∧
    taskIn0.instr = 0 ∧ s.descriptor 0 0 2 0 = some (descWords d) ∧ dTotal (descWords d) = 4 ∧
    s.streamOk 0 0 2 true (descWords d) = true ∧ s.pageEn (tileDA 0) (pgStr 0) = true ∧ (s.core 0 0).str.count 2 = 0 ∧
    (s.core 0 0).str.waiting = [] := by decide +kernel

/-- Settled streams from a STREAM entry and of a task's input, with an arrival at tally 900 of the own die. -/
theorem hyp_StreamRequestsAndCompletion_sources :
    let d := (copyDesc 100 256 (2 ^ 15)).set 5 (0xFF * 2 ^ 16 + 0xFF * 2 ^ 24) |>.set 3 (1 + 900 * 2 ^ 16)
    let a := { strm 0 d with next := 100, src := .timetable 7 3 }
    let b := { strm 2 d with next := 100, src := .taskIn }
    let s := (strS [a, b]).updDisp 0 0 fun d => { d with staged := some task0 }
    (s.core 0 0).str.running 0 = some a ∧ (s.core 0 0).str.running 2 = some b ∧ a.settled = true ∧ b.settled = true ∧
    dTen a.desc = true ∧ dTdie a.desc = 0xFF ∧ dTally a.desc = 900 ∧ b.xf = false ∧ (s.disp 0 0).staged.isSome = true ∧
    (s.core 0 0).str.waiting = [] := by decide +kernel

theorem hyp_TaskStagingAndDispatch :
    (let s := (ringS 0).updDisp 0 0 fun d => { d with ret := some task0 }
     s.takesTasks 0 0 = true ∧ s.restoring = false ∧ (s.setPacer { s.pacer with phase := .restarting }).restoring = true ∧ (s.disp 0 0).staged = none ∧ (s.disp 0 0).ret = some task0 ∧ s.taskOk task0 = true ∧ task0.instr = 0xFFFF) ∧
    (let s := ringS 4
     s.takesTasks 0 0 = true ∧ s.restoring = false ∧ (s.disp 0 0).staged = none ∧ (s.disp 0 0).ret = none ∧ (s.disp 0 0).steal = [] ∧ s.ringCount 0 0 = 4 ∧
     s.taskOk (s.ringTask 0 0 0) = true ∧ (s.ringTask 0 0 0).instr = 0xFFFF) ∧
    (let s := dev.updDisp 0 0 fun d => { d with staged := some task0, ready := true }
     (s.disp 0 0).staged = some task0 ∧ (s.disp 0 0).ready = true ∧ (∀ cls ∈ List.range 3, (s.bank 0 0 cls).active = false) ∧
     s.awaitsReserve = false ∧ s.restoring = false ∧ s.place.dieState 0 = 1 ∧ s.pageEn (tileDA 0) (pgSeq 0) = true) ∧
    (let s := ((ticking 5000).updDisp 0 0 fun d => { d with running := some task0, dispTick := 1 }).updBank 0 0 2
        fun b => { b with isTask := true, active := true }
     (s.disp 0 0).running = some task0 ∧ s.running = true ∧ (s.bank 0 0 2).isTask = true ∧ (s.bank 0 0 2).active = true ∧
     (s.disp 0 0).dispTick + task0.latest = s.tick ∧ s.period ≤ s.pacer.cycle ∧ task0.retry = false ∧
     (s.disp 0 0).xfaulted = false ∧
     ((s.updDisp 0 0 fun d => { d with xfaulted := true }).disp 0 0).xfaulted = true) := by decide +kernel

/-- A packet that waits at its target. -/
def arrived (s : State) (p : Packet) : State := s.setNet { s.net with arrived := [p] }

def stealReq : Packet := msgPkt (tileDA 0) 1 (tileDA 0) 0 2 0x01 (stealRequestData 0 1 7 0 9)
def stealRep : Packet := msgPkt (tileDA 0) 1 (tileDA 0) 0 2 0x02 (stealReplyData 0 1 [task0] 9)

theorem hyp_TaskStealing :
    (let s := ringS 0
     s.place.logical 0 = some 0 ∧ s.dispatches 0 0 = true ∧ bit (s.reg (tileDA 0) (pgVec 0) 0x04C) 1 = true ∧ s.idleDisp 0 0 = true ∧
     (s.victims 0 0 0 (s.place.roleOf 0 0))[(s.disp 0 0).victim]? = some (0, 1, 0) ∧ s.physCore 0 1 = some (0, 1) ∧
     (s.routeTo (tileDA 0) 0 (tileDA 0)).isSome = true) ∧
    (let s := arrived (ringS 4) stealReq
     ArrivedMsg s stealReq 0x01 ∧ dieKind stealReq.dst.toNat = some .tile ∧ stealReq.dport.toNat < 9 ∧ stealReq.len = 8 ∧
     bits (pword stealReq 0) 15 12 = 0 ∧ bits (pword stealReq 0) 23 19 = 0 ∧ bits (pword stealReq 0) 31 25 = 0 ∧
     (s.givable 0 0 (bits (pword stealReq 0) 24 24) 0 (min (bits (pword stealReq 0) 18 16) ((s.ringCount 0 0 + 1) / 2))).length = 2) ∧
    (let s := (arrived dev stealRep).updDisp 0 0 fun d => { d with request := some 9 }
     ArrivedMsg s stealRep 0x02 ∧ stealReplyOk stealRep = true ∧ (s.disp 0 0).request = some (BitVec.ofNat 32 (pword stealRep 1)) ∧
     bits (pword stealRep 0) 18 16 ≠ 0) := by
  unfold ArrivedMsg Arrived; decide +kernel


/-! Adaptive layers, audit, clearing -/

def layer0 : Layer :=
  { index := 255, cgroup := 1, wfmt := 0, size := 32, prop := 0, dieA := 0, coreA := 0, copy0A := 0xFFFE0, copy1A := 0x1000,
    selA := 0x2000, dieB := 0xFF, coreB := 0, copy0B := 0, copy1B := 0, selB := 0, transfer := some [1, 2, 3] }

theorem hyp_AdaptiveLayers :
    (let x : Proposal := { t := 0, c := 0, layer := 1, tick := 3, bytes := [], crc := 0 }
     let s := (ticking 0).setPacer { (ticking 0).pacer with tick := 67 }
     let s := s.setKeeper { s.keeper with proposals := [x] }
     (s.keeper.proposals.find? fun x => x.t == 0 && x.c == 0 && decide (x.tick + 64 ≤ s.tick)) = some x) ∧
    (let s := dev.setKeeper { dev.keeper with layers := [layer0] }
     (s.keeper.layers.find? fun x => x.index == 255) = some layer0 ∧ layer0.transfer = some [1, 2, 3] ∧ layer0.ready = false ∧
     s.physCore layer0.dieA layer0.coreA = some (0, 0) ∧ s.physCore layer0.dieB layer0.coreB = none ∧ coreKey 0 0 < 1024 ∧
     layer0.copy0A < 0x100000) ∧
    (let l := { layer0 with dieB := 1, coreB := 7, copy0B := 0xFFFE0, copy1B := 0x1000, selB := 0x2000 }
     let s := dev.setKeeper { dev.keeper with layers := [l] }
     (s.keeper.layers.find? fun x => x.index == 255) = some l ∧ l.transfer = some [1, 2, 3] ∧ l.ready = false ∧
     s.physCore l.dieA l.coreA = some (0, 0) ∧ s.physCore l.dieB l.coreB = some (1, 7) ∧ coreKey 0 0 ≠ coreKey 1 7 ∧
     coreKey 1 7 < 1024 ∧ l.coreA < 8 ∧ l.coreB < 8 ∧
     ∀ a ∈ [l.copy0A, l.copy1A, l.selA, l.copy0B, l.copy1B, l.selB, 3], a < 0x100000) := by decide +kernel

def sampleS (x : Sample) (ovf : Bool := false) : State :=
  (ticking 4999).setTile 0 { sample := some x, captureOvf := ovf }

def tie0 : TieBreak :=
  { cgroup := 7, tick := 2, auditor := some 1, running := true, coreA := coreKey 0 0, coreB := coreKey 1 0, digA := 5, digB := 6,
    digX := some 4 }

/-- A task of one store and its END, with the bank that its dispatch in tick 77 leaves, in the class 2 window of core T0.0. -/
def runBank : Bank := (({} : Bank)).started true false 0 0 512 0x1234 77
def runS : State :=
  let s := (ticking 100).setPacer { (ticking 100).pacer with tick := 77 }
  let s := s.setReg (tileDA 0) (pgSeq 0) 0x068 (256 * 2 ^ 8)
  let ws := [wB 12 1 0 0 0 0 3, wB 5 0 0 0 0 0 0x2004, wA 0 0 0 0, wB 4 0 1 0 0 0 0, wC 6 0 0 0 0 0]
  let s := s.writeAll .core 0 0x1000 (ws.flatMap fun w => leBytes 8 w) false
  s.setTile 0 { sample := some { core := 0, tick := 77, adapt := false, bank := runBank } }

/-- R399, R400: a run stores the tick number at 0x2004; its digest is the CRC-64 of the block with the granule 0x2000 of logical
die 0, its bytes 4 to 7 and their enables, and the auditor's run of it in the next tick gives the same. -/
theorem test_rerun_digest :
    let s := (runS.setBank 0 0 2 runBank).updCore 0 0 fun k => { k with issuing := some 2 }
    let d := ((Rerun.run 0 0 2 16 { s := s }).map fun f => (f.s.tile 0).sample.map fun x => (x.ended, x.digest)).getD none
    let s' := runS.setPacer { runS.pacer with tick := 78 }
    d = some (true, BitVec.ofNat 64 (crc64 (leBytes 8 0x2000 ++ (leBytes 4 0 ++ leBytes 4 77 ++ leBytes 24 0) ++ leBytes 4 0xF0))) ∧
    ((runS.tile 0).sample.map fun x => (s'.audited 0 x []).map (·.2)) = d.map fun x => some x.2 := by decide +kernel

theorem hyp_AuditsAndTieBreaks_samples :
    (let x : Sample := { core := 0, tick := 3, adapt := false, ended := true }
     ((sampleS x).tile 0).sample = some x ∧ ((sampleS x).place.auditorOf 0).isSome = true ∧ (sampleS x).dueProposal 0 = none ∧
     x.digests = none ∧ x.ended = true ∧ ((sampleS x).tile 0).captureOvf = false ∧ (sampleS x).sampleLate x = false ∧
     ((sampleS x).audited 0 x ((sampleS x).tile 0).capture).map (·.2) = some 0) ∧
    (let x : Sample := { core := 0, tick := 2, adapt := false, digests := some (1, 2) }
     ((sampleS x).tile 0).sample = some x ∧ ((sampleS x).place.auditorOf 0).isSome = true ∧ x.tick < (sampleS x).tick ∧
     ((sampleS x).tile 0).captureOvf = false ∧ (sampleS x).sampleLate x = false ∧
     ((sampleS x).audited 0 x ((sampleS x).tile 0).capture).map (·.2) = some 0) ∧
    (let x : Sample := { core := 0, tick := 2, adapt := false }
     ((sampleS x true).tile 0).sample = some x ∧ ((sampleS x true).tile 0).captureOvf = true ∧ (sampleS x).sampleLate x = true ∧
     (sampleS { x with tick := 3 }).sampleLate { x with tick := 3 } = false) := by decide +kernel

/-- An adaptation run whose proposal waits for the audit of T0, and a second audit run that agrees with neither digest. -/
theorem hyp_AuditsAndTieBreaks_proposals :
    let x : Sample := { core := 0, tick := 3, adapt := true, ended := true }
    let y : Proposal := { t := 0, c := 0, layer := 255, tick := 3, bytes := [1, 2, 3], crc := 5 }
    let l : Layer := { layer0 with transfer := none }
    let s := fun o => (sampleS x o).setKeeper { (sampleS x o).keeper with proposals := [y], layers := [l] }
    ((s false).tile 0).sample = some x ∧ ((s false).place.auditorOf 0).isSome = true ∧ (s false).dueProposal 0 = some (x, y) ∧
    ((s false).keeper.layers.find? fun l => l.index == y.layer) = some l ∧ l.ready = false ∧ l.transfer = none ∧
    ((s true).tile 0).sample = some x ∧ ((s true).tile 0).captureOvf = true ∧
    (s true).proposalOf 0 x = some y ∧ ((s false).audited 0 x ((s false).tile 0).capture).isSome = true ∧
    (let z : Sample := { core := 0, tick := 2, adapt := false, digests := some (1, 2) }
     ((sampleS z).auditorCore 0).isSome = true) := by decide +kernel

theorem hyp_AuditsAndTieBreaks_ties :
    (let s := (ticking 0).setPacer { (ticking 0).pacer with mismatches := [tie0] }
     (s.pacer.mismatches.find? fun m => m.cgroup == 7 && (decide (m.tick < s.tick) || s.pacer.strobed)) = some tie0 ∧
     s.tieAuditor tie0 = some 0 ∧ (s.pacer.ties.any fun y => y.auditor == some 0) = false ∧
     (let s' := s.setKeeper { s.keeper with place := { s.keeper.place with role := (List.range 2).flatMap fun t => [(coreKey t 8, 14)], state := (List.range 60).map fun t => (t, if t < 2 then 1 else 0) } }
      s'.tieAuditor tie0 = none)) ∧
    (let s := (ticking 0).setPacer { (ticking 0).pacer with tick := 5, ties := [tie0] }
     (s.pacer.ties.find? fun x => x.cgroup == 7) = some tie0 ∧ tie0.auditor = some 1 ∧
     (s.tile (tie0.coreA / 16)).tieOvf = false ∧ (s.tile (tie0.coreB / 16)).tieOvf = false ∧ (4 : BitVec 64) ^^^ 2 ≠ tie0.digA ∧ tie0.digX = some 4 ∧ (4 : BitVec 64) ^^^ 1 = tie0.digA ∧ (4 : BitVec 64) ^^^ 2 = tie0.digB ∧
     tie0.tick + 2 < s.tick ∧ s.tieLate tie0 = true) ∧
    (let s := (ticking 4999).setPacer { (ticking 4999).pacer with tick := 4, ties := [tie0] }
     (s.pacer.ties.find? fun x => x.cgroup == 7) = some tie0 ∧ s.tieLate tie0 = false ∧
     (s.tile (tie0.coreA / 16)).tieOvf = false ∧ (s.tile (tie0.coreB / 16)).tieOvf = false) := by decide +kernel

/-- A timetable entry (R43). -/
def ent (at_ kind cls span die unit obj arg : Nat) (dakind : Nat := 0) : TtEntry :=
  { w0 := BitVec.ofNat 32 (at_ + kind * 2 ^ 16 + cls * 2 ^ 20), w1 := BitVec.ofNat 32 span,
    w2 := BitVec.ofNat 32 (die + unit * 2 ^ 8 + dakind * 2 ^ 12 + obj * 2 ^ 16), w3 := BitVec.ofNat 32 arg }

/-- The running tick 3 stands at the AT of the entry, which is dispatched. -/
def ttS (e : TtEntry) : State :=
  (ticking e.at_).setPacer { (ticking e.at_).pacer with entries := [e], dispatched := [(0, 3)] }

def digestPkt (d : Nat) : Packet := msgPkt (tileDA 1) 0 (tileDA 0) 0 0 0x03
  (leBytes 4 7 ++ leBytes 4 3 ++ leBytes 8 d ++ leBytes 8 1 ++ leBytes 8 0)

def clearing0 : Clearing :=
  { cgroup := 7, first := true, entry := 0, tick := 3, digest := 0x1234, poison := false, ready := 3 }

/-- One entry bound; a message to be handed over; a poisoned entry, and one of an earlier tick; a layer to flip; class 2 escrow. -/
theorem hyp_ClearingEntries_more :
    (let e := ent 4000 5 0 100 0 0 7 (0xFF + 2 * 2 ^ 8)
     (ttS e).entryNow 0 5 = some e ∧ (ttS e).entryCore e = some (0, 0) ∧ (ttS e).physCore (bits e.arg 7 0) (bits e.arg 11 8) = none ∧
     (ttS e).entryPoison 0 0 0 7 = false ∧
     ((ttS e).writeAll .core (coreKey 0 0) 0 [0] true).entryNow 0 5 = some e) ∧
    (let x := { clearing0 with partner := some (coreKey 1 2) }
     let s : State := { ticking 4000 with clearings := [(16 * 0 + 0, x)] }
     (16 * 0 + 0, x) ∈ s.clearings ∧ x.partner = some (coreKey 1 2) ∧ x.since + 4 ≤ s.boot.time) ∧
    (let s := fun x => ({ arrived (ticking 4000) (digestPkt 0x1234) with clearings := [(0, x)] } : State)
     (s { clearing0 with poison := true }).clearing 0 0 = some { clearing0 with poison := true } ∧
     (s { clearing0 with tick := 2 }).clearing 0 0 = some { clearing0 with tick := 2 } ∧
     pword (digestPkt 0x1234) 1 ≠ ({ clearing0 with tick := 2 } : Clearing).tick % 2 ^ 32) ∧
    (let x := { clearing0 with passed := true, flips := 1 }
     let l : Layer := { layer0 with cgroup := 7, transfer := none, ready := true }
     let s : State := { (ticking 4000).setKeeper { (ticking 4000).keeper with layers := [l] } with clearings := [(0, x)] }
     s.clearing 0 0 = some x ∧ x.passed = true ∧ x.done = false ∧ s.groupLayers x.cgroup = [l] ∧
     l.side 0 (s.place.roleOf 0 0) = some (0xFFFE0, 0x1000, 0x2000) ∧ x.flips.getLsbD 0 = true ∧
     s.commitDue 0 0 (s.place.roleOf 0 0) x ≤ s.boot.time ∧ s.escrow2Now 0 (s.place.roleOf 0 0) = false) ∧
    (let s := (ticking 4999).setPacer { (ticking 4999).pacer with tick := 15 }
     s.clearing 0 0 = none ∧ s.escrow2Now 0 (s.place.roleOf 0 0) = true) := by decide +kernel

theorem hyp_ClearingEntries :
    (let e := ent 4000 5 0 100 0 0 7 (1 + 2 * 2 ^ 8)
     (ttS e).entryNow 0 5 = some e ∧ (ttS e).entryCore e = some (0, 0) ∧
     (ttS e).physCore (bits e.arg 7 0) (bits e.arg 11 8) = some (1, 2) ∧ coreKey 0 0 ≠ coreKey 1 2) ∧
    (let s := fun d => ({ arrived (ticking 4000) (digestPkt d) with clearings := [(0, clearing0)] } : State)
     (∀ d ∈ [0x1234, 0x1235], ArrivedMsg (s d) (digestPkt d) 0x03 ∧ digestOk (digestPkt d) = true ∧ (s d).running = true ∧
        (s d).pacer.strobed = false ∧ (s d).clearing 0 0 = some clearing0 ∧
        clearing0.cgroup = bits (pword (digestPkt d) 0) 15 0 ∧ bit (pword (digestPkt d) 0) 16 = false) ∧
     lo64 (digestPkt 0x1234) 2 = clearing0.digest.toNat ∧ pword (digestPkt 0x1234) 1 = clearing0.tick % 2 ^ 32 ∧
     lo64 (digestPkt 0x1235) 2 ≠ clearing0.digest.toNat) ∧
    (let x := { clearing0 with passed := true }
     let s : State := { ticking 4000 with clearings := [(0, x)] }
     s.place.logical 0 = some 0 ∧ s.place.roleOf 0 0 < 8 ∧ s.clearing 0 0 = some x ∧ s.running = true ∧ s.pacer.strobed = false ∧
     x.passed = true ∧ x.done = false ∧ x.flips = 0 ∧ s.commitDue 0 0 (s.place.roleOf 0 0) x ≤ s.boot.time ∧ s.escrow2Now 0 (s.place.roleOf 0 0) = false) := by
  unfold ArrivedMsg Arrived; decide +kernel

/-! The tick -/

/-- A device on which every condition of an ARM holds. -/
def armS : State :=
  let s := ((dev.setReg pacerDA pgTkc 0x040 5000).setReg pacerDA pgTtb 0x044 1).setReg pacerDA pgTtb 0x048 5000
  { s with chans := (List.range 12).map fun ch => (ch, { step := 4 }) }

theorem hyp_TickEdgesArmAndDisarm :
    (armS.setPacer { armS.pacer with phase := .armed }).pacer.rearm = none ∧
    ((ticking 5000).pacer.phase = .running ∧ (ticking 5000).pacer.strobed = false ∧ (ticking 5000).period ≤ (ticking 5000).pacer.cycle ∧
      (ticking 5000).pacer.disarmAt = false ∧ (ticking 5000).keeper.applying = [] ∧ (ticking 5000).pacer.rejoin = [] ∧
      (ticking 5000).mint.shutdown = false) ∧
    (ticking 4999).pacer.cycle < (ticking 4999).period ∧ armS.armOk = true ∧ dev.armOk = false ∧
    ((armS.setPacer { armS.pacer with resumes := true }).armOk = true ∧
     (armS.setPacer { armS.pacer with resumes := true }).pacer.resumes = true) ∧
    (let s := (ticking 5000).setPacer { (ticking 5000).pacer with disarmAt := true }
     s.pacer.phase = .running ∧ s.pacer.strobed = false ∧ s.period ≤ s.pacer.cycle ∧ s.pacer.disarmAt = true) ∧
    armS.pacer.phase = .disarmed := by decide +kernel

theorem hyp_TimetableDispatchAndDeadlines :
    (let s := (ticking 0).setPacer { (ticking 0).pacer with entries := (List.range 6).map fun i => ent (i * 8) 0 0 0 0 0 0 0 }
     s.pacer.phase = .running ∧ s.pacer.strobed = false ∧ s.pacer.walkNext = false ∧ s.pacer.walk < s.pacer.entries.length) ∧
    (armS.setPacer { armS.pacer with phase := .armed }).pacer.phase = .armed ∧
    (let s := (ticking 5000).setPacer { (ticking 5000).pacer with phase := .restarting }
     s.pacer.phase = .restarting ∧ s.pacer.acksWanted = []) ∧
    ((ticking 4968).pacer.phase = .running ∧ (ticking 4968).pacer.strobed = false ∧
      (ticking 4968).pacer.entries.length ≤ (ticking 4968).pacer.walk ∧ (ticking 4968).period ≤ (ticking 4968).pacer.cycle + 32) ∧
    ((ticking 4967).pacer.cycle + 32 < (ticking 4967).period) ∧
    (∀ kind ∈ [1, 3],
      let e := ent 4000 kind 2 100 0 0 7 0
      let s := (ticking 4100).setPacer { (ticking 4100).pacer with entries := [e], watch := [(0, 3)] }
      let s := s.updBank 0 0 2 fun b => { b with active := true, entry := 0, startTick := 3 }
      s.entryCore e = some (0, 0) ∧ e.kind = kind ∧ (s.bank 0 0 2).active = true ∧ (s.bank 0 0 2).isTask = false ∧ (s.bank 0 0 2).entry = 0 ∧
      (s.bank 0 0 2).startTick = 3 ∧ s.actionDone 0 3 e = false ∧ s.entryGone e = false) ∧
    (∀ cls ∈ [0, 2], ∀ done ∈ [true, false],
      let e := ent 4000 1 cls 100 0 0 7 0
      let s := (ticking 4100).setPacer { (ticking 4100).pacer with entries := [e], watch := [(0, 3)], complete := if done then [(0, 3)] else [] }
      s.ttEntry 0 = some e ∧ (s.pacer.watch.find? fun w => w.1 == 0 && s.elapsed w.2 == e.at_ + e.span) = some (0, 3) ∧
      s.pacer.strobed = false ∧ e.cls = cls ∧ s.actionDone 0 3 e = done ∧ s.entryGone e = false ∧
      (s.setPlace { s.place with dieOf := [(0, none)] }).entryGone e = true) := by decide +kernel

/-- A program of one word with entry 0, and one without code. -/
def progS (n : Nat) (s : State) : State := s.updCore 0 0 fun k => { k with programs := [(5, { ProgHdr.none with codeLen := n, cls := 0, coins := 9 })] }

theorem hyp_TimetableActions :
    (let e := ent 4000 1 0 100 0 0 5 0
     ∀ n ∈ [0, 8], (progS n (ttS e)).entryNow 0 1 = some e ∧ (progS n (ttS e)).entryCore e = some (0, 0) ∧
      ((progS n (ttS e)).prog 0 0 e.obj).codeLen = n ∧ ((progS n (ttS e)).prog 0 0 e.obj).coins * coin ≠ 0 ∧ e.cls < 2 ∧ ((progS n (ttS e)).prog 0 0 e.obj).cls = e.cls ∧ ((progS n (ttS e)).bank 0 0 e.cls).active = false ∧
      (progS n (ttS e)).pageEn (tileDA 0) (pgSeq 0) = true) ∧
    (let e := ent 4000 2 0 100 55 0 1023 0xFFFF
     (ttS e).entryNow 0 2 = some e ∧ (ttS e).physDie e.die = some 55) ∧
    (let e := ent 4000 3 0 100 0 0 0 0
     let s := withDesc (copyDesc 8 256) ((ttS e).setReg (tileDA 0) (pgSeq 0) 0x060 (256 * 2 ^ 8))
     s.entryNow 0 3 = some e ∧ s.entryCore e = some (0, 0) ∧ s.descriptor 0 0 e.cls e.obj = some (descWords (copyDesc 8 256)) ∧
     dTotal (descWords (copyDesc 8 256)) ≠ 0 ∧ s.streamOk 0 0 e.cls (decide (e.obj < 1024)) (descWords (copyDesc 8 256)) = true ∧
     s.pageEn (tileDA 0) (pgStr 0) = true ∧ (s.core 0 0).str.count e.cls = 0 ∧ (s.core 0 0).str.waiting = [] ∧
     (let s' := s.updCore 0 0 fun k => { k with str := { k.str with streams := List.replicate 4 (strm 0 (copyDesc 8 256)) } }
      s'.entryNow 0 3 = some e ∧ s'.descriptor 0 0 e.cls e.obj = some (descWords (copyDesc 8 256)) ∧ 4 ≤ (s'.core 0 0).str.count e.cls)) ∧
    (let e := ent 4000 7 0 0 0x12 0 3 0xFFFF 1
     (ttS e).entryNow 0 7 = some e) ∧
    (let e := ent 4999 0 0 0 0 0 0 0
     (ttS e).entryNow 0 0 = some e) := by decide +kernel

/-- A fault report of a kind from T0, class 0. -/
def reportPkt (kind : Nat) : Packet := msgPkt (tileDA 0) 9 pacerDA 0 0 0x05 (reportData kind 0 3 noRef 0)

theorem hyp_FaultReportsRestartAndStretch :
    (let s := arrived (ticking 100) (reportPkt 0x03)
     ArrivedMsg s (reportPkt 0x03) 0x05 ∧ reportOk (reportPkt 0x03) = true ∧ handling (bits (pword (reportPkt 0x03) 0) 7 0) (bits (pword (reportPkt 0x03) 0) 9 8) = some .restart ∧
     s.running = true ∧ s.pacer.opened = none ∧ reportOk (reportPkt 0x0A) = true) ∧
    (let s := (ticking 100).setPacer { (ticking 100).pacer with opened := some 968 }
     s.pacer.opened = some 968 ∧ s.running = true ∧ s.pacer.strobed = false ∧ 968 + 32 ≤ s.boot.time) ∧
    (let s := (ticking 100).setPacer { (ticking 100).pacer with acksWanted := [59], opened := some 100 }
     let s := s.setBoot { s.boot with time := 8280 }
     59 ∈ s.pacer.acksWanted ∧ s.restoreSince = some 100 ∧ 100 + 8180 ≤ s.boot.time) ∧
    (let s := (ticking 5000).setPacer { (ticking 5000).pacer with phase := .restarting, strobed := true, lastAck := 968 }
     s.pacer.phase = .restarting ∧ s.pacer.acksWanted = [] ∧ s.period ≤ s.pacer.cycle ∧ s.pacer.lastAck + 32 ≤ s.boot.time ∧
     s.pacer.disarmAt = false ∧ s.keeper.applying = []) ∧
    (let s := (ticking 5000).setKeeper { dev.keeper with place := { dev.keeper.place with unjoined := [16 * 55 + 7] } }
     s.pacer.phase = .running ∧ s.pacer.strobed = false ∧ s.pacer.stretching = false ∧ s.pacer.disarmAt = false ∧
     s.period ≤ s.pacer.cycle ∧ s.place.unjoined.contains (16 * 55 + 7) = true) ∧
    (let s := (ticking 5000).setKeeper { dev.keeper with granted := [coreRef 0 1] }
     s.place.unjoined.contains (16 * 0 + 0) = false ∧ s.physDie 0 = some 0 ∧ ∃ r ∈ s.keeper.granted, refDA r = tileDA 0) := by
  unfold ArrivedMsg Arrived; decide +kernel

theorem hyp_FaultReportsRestartAndStretch2 :
    (∀ x ∈ [(0x0B, Handling.disarm), (0x0A, .count), (0x01, .restart)],
      let s := arrived (ticking 100) (reportPkt x.1)
      ArrivedMsg s (reportPkt x.1) 0x05 ∧ reportOk (reportPkt x.1) = true ∧ bits (pword (reportPkt x.1) 0) 7 0 = x.1 ∧
      handling (bits (pword (reportPkt x.1) 0) 7 0) (bits (pword (reportPkt x.1) 0) 9 8) = some x.2 ∧ s.pacer.strobed = false) ∧
    (let p := msgPkt (tileDA 0) 9 pacerDA 0 2 0x05 (reportData 0x05 2 3 (coreRef 0 0) 1)
     let s := arrived (ticking 100) p
     ArrivedMsg s p 0x05 ∧ reportOk p = true ∧ handling (bits (pword p 0) 7 0) (bits (pword p 0) 9 8) = some .rollback ∧
      s.pacer.opened = none ∧ refKind (pword p 2) = 0x02 ∧ dieKind (refDA (pword p 2)) = some .tile ∧
      (s.place.logical (tileOfDA (refDA (pword p 2)))).isSome = true ∧
      s.place.roleOf (tileOfDA (refDA (pword p 2))) (refInst (pword p 2)) < 8) ∧
    (let s := { ticking 100 with outs := [(16 * edgeDA 0, { fired := some 3 })] }
     (s.outGroup (edgeDA 0) 0).fired = some s.tick ∧ 59 ∉ s.inService ∧ 0 ∈ s.inService) ∧
    (let s := (ticking 100).setReg (tileDA 0) pgAud 0x080 (2 ^ 16 + 7)
     (0, 0) ∈ s.place.carriers 0 ∧ (s.stateRange 0 0 true).2 = 0 ∧ (s.stateRange 0 0 false).2 = 1 ∧ s.keeper.applying = [] ∧ s.place.dieState 0 = 1) ∧
    (let s := (ticking 5000).setKeeper { dev.keeper with applying := [coreRef 0 1] }
     let s := s.setRec (coreRef 0 1) { s.ledRec (coreRef 0 1) with state := 2 }
     let s := s.setNet { s.net with awaiting := some 3 }
     (s.ledRec (coreRef 0 1)).state = 2 ∧ coreRef 0 1 ∈ s.keeper.applying ∧ s.net.awaiting = some 3) := by
  unfold ArrivedMsg Arrived; decide +kernel

/-- Group descriptor `g` of E0: enabled, class 0, die A, at die-store byte 256 less 32. -/
def grpS (g dieA dieB : Nat) (mask : Nat) (s : State) : State :=
  (((s.setReg 0 pgEdg 0x054 4 g).setReg 0 pgEdg 0x058 mask g).setReg 0 pgEdg 0x064 (dieA + dieB * 2 ^ 8) g).setReg 0 pgEdg 0x068 7 g

theorem hyp_SamplesAndReleases :
    (let e := ent 4000 4 0 0 0 0 0 0 1
     let s := grpS 0 0 0xFF 0 (ttS e)
     s.entryNow 0 4 = some e ∧ edgeOf e.die = some 0 ∧ (s.grp 0 e.obj).en = true ∧ (s.grp 0 e.obj).dieB = 0xFF ∧
     s.physDie (s.grp 0 e.obj).dieA = some 0 ∧ s.freeTag (edgeDA 0) 0 = some 0 ∧
     (s.grp 0 e.obj).addr % 256 + (s.inputRecord 0 e.obj).length = 256) ∧
    (let d : Delivery := { group := 0, die := 0, tally := 0, cls := 0, left := [(256, [7])] }
     let p := storePkt (edgeDA 0) 0 d.cls 256 1 (some [7])
     d.left = [(256, [7])] ∧ dev.physDie d.die = some 0 ∧ dev.freeTag (edgeDA 0) 0 = some 0 ∧
     dev.hasTokens (edgeDA 0) 0 d.cls p.len.toNat = true) ∧
    (let e := ent 4000 6 0 0 0 0 15 0xFFFF 1
     let s := grpS 31 0xFF 0xFF 0 (ttS e)
     s.entryNow 0 6 = some e ∧ edgeOf e.die = some 0 ∧ (s.grp 0 (16 + e.obj)).en = true ∧
     s.physDie (s.grp 0 (16 + e.obj)).dieA = none ∧ s.physDie (s.grp 0 (16 + e.obj)).dieB = none) ∧
    (let p := msgPkt (tileDA 0) 0 0 0 0 0x04 (leBytes 4 (2 ^ 17 + 7) ++ leBytes 4 3)
     ArrivedMsg (arrived (ticking 100) p) p 0x04 ∧ p.len = 8 ∧ pword p 0 < 2 ^ 18 ∧ pword p 1 = (ticking 100).tick % 2 ^ 32) ∧
    (∀ held ∈ [true, false],
      let x : OutGroup := { fired := some 2, fetched := true, withheld := held, pieces := [(0, List.replicate 64 1)] }
      let s := (grpS 16 0 0xFF (2 ^ 31) ((ticking 0).setReg pacerDA pgTkc 0x048 0)).setOut 0 0 x
      (s.outGroup 0 0).fired = some 2 ∧ s.running = true ∧ s.tick = 2 + 1 ∧ s.pacer.cycle = s.outOffset ∧
      (s.outGroup 0 0).withheld = held ∧ (s.outGroup 0 0).fetched = true ∧ (s.outGroup 0 0).poison = false ∧
      s.gateOk 0 (s.outGroup 0 0).gate 2 = true ∧ edgeOf 0 = some 0 ∧ (members 48 (s.grp 0 16).mask)[0]? = some 31) := by
  unfold ArrivedMsg Arrived; decide +kernel

theorem hyp_SamplesAndReleases2 :
    (let e := ent 4000 6 0 0 0 0 15 0xFFFF 1
     let s := grpS 31 55 0xFF 0 (ttS e)
     s.entryNow 0 6 = some e ∧ edgeOf e.die = some 0 ∧ (s.grp 0 (16 + e.obj)).en = true ∧
     s.physDie (s.grp 0 (16 + e.obj)).dieA = some 55 ∧ s.freeTag (edgeDA 0) 0 = some 0 ∧ s.outLen 0 e.obj ≤ 256 ∧
     s.hasTokens (edgeDA 0) 0 e.cls (min (s.outLen 0 e.obj) (256 - (s.grp 0 (16 + e.obj)).addr % 256)) = true) ∧
    (let e := ent 4000 6 2 0 (fabricDA 23) 0 15 0xFFFF 1
     (ttS e).entryNow 0 6 = some e ∧ edgeOf e.die = none ∧ fabricOf e.die = some 23) := by
  decide +kernel


/-! Edge dies -/

/-- Channel 63 of E3: divider 1, main filter of 4 bits, comparator of 3 bits, two outputs in a row, group 15 with trip enable. -/
def sdS (f : SdCh → SdCh := id) : State :=
  let s := (dev.setReg 3 pgSdi 0x040 1).setReg 3 pgSdi 0x064 (4 * 2 ^ 8 + 3 * 2 ^ 17 + 2 ^ 22 + 15 * 2 ^ 25 + 2 ^ 29) 63
  (s.setReg 3 pgSdi 0x068 20 63).setSd 3 63 (f {})

theorem hyp_ChannelsAndGenerators_filters :
    sdS.pageEn (edgeDA 3) pgSdi = true ∧ sdS.chDiv 3 63 ≠ 0 ∧ sdS.chOsr 3 63 = 4 ∧ sdS.chOsrc 3 63 = 3 ∧
    (sdS.windowEnd 3 63 4 (sdS.tickLocked 3 63) 1000 = some 1000 ∧ sdS.windowEnd 3 63 3 false 1000 = some 1000 ∧
     (sdS.sd 3 63).outs = 0 ∧ (sdS.sd 3 63).couts = 0) ∧
    (let s := (sdS fun x => { x with outs := 1, stamp := 996, couts := 1, cstamp := 997 }).setEdge 3 { sdcStart := some 0 }
     s.windowEnd 3 63 4 false 1000 = some 1000 ∧ s.windowEnd 3 63 3 false 1000 = some 999 ∧ (s.sd 3 63).stamp < 1000 ∧ (s.sd 3 63).cstamp < 999) ∧
    (let s := sdS fun x => { x with outRun := 1 }
     let x := (s.sd 3 63).integrate2 [false, false, false]
     let v := (x.c2 - x.e1 - x.e2).toInt
     v < sext 32 (s.reg (edgeDA 3) pgSdi 0x06C 63) ∧ bits (s.chCfg 3 63) 24 22 + 1 ≤ (s.sd 3 63).outRun + 1 ∧
     (s.sd 3 63).active = false ∧ bit (s.chCfg 3 63) 29 = true) ∧
    (let s := sdS fun x => { x with within := 1, active := true }
     let x := (s.sd 3 63).integrate2 [true, true, true]
     let v := (x.c2 - x.e1 - x.e2).toInt
     v ≤ sext 32 (s.reg (edgeDA 3) pgSdi 0x068 63) ∧ sext 32 (s.reg (edgeDA 3) pgSdi 0x06C 63) ≤ v ∧
     bits (s.chCfg 3 63) 24 22 + 1 ≤ (s.sd 3 63).within + 1) := by decide +kernel

/-- Carrier 3 of E3 with one period in a tick, half updates, and generator 47 on it; the last edge was now. -/
def carS : State :=
  let s := ((ticking 0).setReg 3 pgPwm 0x058 (2 ^ 2 + 2 ^ 7)).setReg 3 pgPwm 0x064 (1 + 3 * 2) 47
  (s.setPacer { s.pacer with refEdges := [(1000, 1000)] }).setGen 3 47 { pending := some (1, 2, 1) }

theorem hyp_ChannelsAndGenerators_generators :
    carS.pageEn (edgeDA 3) pgPwm = true ∧ carS.carHalf 3 3 = true ∧
    (((List.range 8).find? fun j => carS.carTime 3 3 j == some 0) = some 0) ∧
    (let s := carS.setBoot { carS.boot with time := 1000 + 2500 }
     (((List.range 8).find? fun j => s.carTime 3 3 j == some (s.carPeriod 3 3 / 2)) = some 0)) ∧
    bit (carS.genCfg 3 47) 0 = true ∧ carS.genCar 3 47 = 3 ∧ (carS.gen 3 47).pending = some (1, 2, 1) ∧
    carS.carTime 3 (carS.genCar 3 47) 7 = some 7 ∧ 1 < ({ mode := 2 } : Gen).mode := by decide +kernel

theorem hyp_TripsAndStopGroups :
    (dev.tiFilt 3 15 = 0 ∧
     (let s := (dev.setReg 3 pgEdg (0x100 + 60) (2 * 2 ^ 8)).setEdge 3 { tiRun := [(15, 1)] }
      s.tiFilt 3 15 = 2 ∧ s.tiFilt 3 15 ≤ tget (s.edge 3).tiRun 15 0 + 1)) ∧
    (let s := ((dev.setReg 3 pgEdg 0x0FC (2 ^ 15)).setReg 3 pgEdg (0x100 + 60) (2 + 31 * 2 ^ 2)).setReg 7 pgDlk 0x09C (2 ^ 31)
     bit (s.sgInputs 3 15) 15 = true ∧ bit (s.reg (edgeDA 3) pgEdg (0x100 + 4 * 15)) 1 = true ∧
     bits (s.reg (edgeDA 3) pgEdg (0x100 + 4 * 15)) 6 2 = 31 ∧ bit (s.sgLines 5 7) 31 = true ∧ s.lineUp 31 = false ∧
     (let s := s.setTrip 23 7 { declared := true, line := 31, input := true }
      s.lineUp 31 = true ∧ (s.trip 23 7).declared = true ∧ (s.trip 23 7).clamped = false)) ∧
    (let s := dev.setEdge 0 { tripped := 0x7FFF }
     (s.edge 0).tripped.getLsbD 15 = false ∧ bit (s.reg (edgeDA 0) (sgPage 0) 0x014) 0 = false) ∧
    (let s := ticking 0
     (s.edge 0).tripped.getLsbD 15 = true ∧ s.pageEn (edgeDA 0) (sgPage 0) = true ∧ s.sgAsserted 0 15 = false ∧
     dev.sgAsserted 0 15 = true) := by decide +kernel

/-- Encoder port 15 of E3: enabled, 6 position bits from Gray code, 2 status bits, TRIG 4999, every tick. -/
def encS (cycle : Nat) (f : Enc → Enc := id) : State :=
  let s := ((ticking cycle).setReg 3 pgEnc 0x044 (1 + 6 * 2 ^ 14 + 2 ^ 20 + 2 * 2 ^ 21) 15).setReg 3 pgEnc 0x048 (4999 * 2 ^ 16) 15
  s.setEnc 3 15 (f {})

theorem hyp_Encoders :
    (let s := encS 4999
     let cfg := s.encCfg 3 15
     s.pageEn (edgeDA 3) pgEnc = true ∧ s.inTick = true ∧ s.encOverlaps 3 15 = false ∧ bits cfg 13 0 ≠ 0 ∧
     s.tick % 2 ^ bits (s.reg (edgeDA 3) pgEnc 0x04C 15) 2 0 = bits (s.reg (edgeDA 3) pgEnc 0x04C 15) 9 3 ∧
     s.pacer.cycle = bits (s.encTiming 3 15) 31 16 ∧ (s.enc 3 15).busy = false ∧ (s.enc 3 15).mono ≤ s.boot.time) ∧
    (let s := encS 4999 fun x => { x with busy := true }
     let cfg := s.encCfg 3 15
     (s.enc 3 15).busy = true ∧ s.pageEn (edgeDA 3) pgEnc = true ∧ (s.enc 3 15).started + s.encCycles 3 15 ≤ s.boot.time ∧ bits cfg 26 24 = 0 ∧ (List.replicate 8 true).length = encBits cfg) ∧
    (let s := (encS 4999 fun x => { x with busy := true }).setReg (edgeDA 3) pgEnc 0x044 (140 + 2 ^ 14 + 7 * 2 ^ 24) 15
     let s := s.setBoot { s.boot with time := 1000000 }
     (s.enc 3 15).busy = true ∧ (List.replicate 10 true).length = encBits (s.encCfg 3 15) ∧
      (s.enc 3 15).started + s.encCycles 3 15 ≤ s.boot.time) := by
  decide +kernel

/-- Lane 7 of E5, version 2 allowed, 2 axes, in a state of its negotiation. -/
def laneS (st : Nat) (s : State := ticking 8) (v1only : Bool := false) : State :=
  (((s.setReg 7 pgDlk 0x00C 5).setBoot { s.boot with time := 14000000 }).setReg 7 pgDlk (0x040 + 28) (2 + 2 * 2 ^ 2)).setLane 5 7 { st := st, v1only := v1only }

theorem hyp_LinkLanes :
    (∀ st ∈ [1, 6, 2, 3], (laneS st).laneOk 5 7 = true ∧ ((laneS st).lane 5 7).st = st ∧
      ((laneS st).lane 5 7).since + 14000000 ≤ (laneS st).boot.time ∧ ((laneS st).lane 5 7).capsDue ≤ (laneS st).boot.time) ∧
    (laneS 2).laneMax 5 7 = 2 ∧ bit 3 1 = true ∧ (laneS 2 (ticking 8) true).laneMax 5 7 = 1 ∧ bit 1 0 = true ∧
    (let s := laneS 4
     s.laneOk 5 7 = true ∧ s.laneUp 5 7 = true ∧ s.inTick = true ∧ s.pacer.cycle = 8 ∧ s.laneAxes 5 7 ≠ 0 ∧
     (List.replicate 64 (0 : Byte)).length = 32 * s.laneAxes 5 7 ∧
     frameCrc (List.replicate 64 0) = (BitVec.ofNat 32 (frameCrc (List.replicate 64 0)) : Word).toNat ∧
     frameCrc (List.replicate 64 0) ≠ (0 : Word).toNat ∧ (s.edge 5).tripped.getLsbD 7 = true ∧ (s.lane 5 7).stopDue ≤ 1000 * s.boot.time) := by decide +kernel

/-! Network -/

def rdDie : Packet := { Packet.blank with
  opc := opRD, src := 0x08, dst := BitVec.ofNat 8 (tileDA 0), sport := 0, dport := 9, space := 2, addr := 0x2FFFF00, len := 256 }
def wrCore : Packet := { Packet.blank with
  opc := opWR, src := 0x08, dst := BitVec.ofNat 8 (tileDA 0), sport := 0, dport := 8, space := 1, addr := 0xFFFFC, len := 4,
  data := [1, 2, 3, 4], psn := [false], byteEn := BitVec.ofNat 256 (5 * 2 ^ 60) }
def wrDie (a : Nat) : Packet := { wrCore with dport := 9, space := 2, addr := BitVec.ofNat 48 a, byteEn := BitVec.ofNat 256 (15 * 2 ^ (a % 64)) }
def arrTile : Packet := { arrPkt 0 0 9 2 768 with dst := BitVec.ofNat 8 (tileDA 0) }
def arrFixed : Packet := { arrPkt 0 0 9 2 767 with dst := BitVec.ofNat 8 (tileDA 0) }

theorem hyp_RequestsAtStores :
    dieKind (tileDA 0) = some .tile ∧ Arrived (arrived dev rdDie) rdDie opRD ∧
    (rdDie.space = 2 ∧ rdDie.dport = 9 ∧ rdDie.addr.toNat + rdDie.len.toNat = 0x3000000) ∧
    Arrived (arrived dev wrCore) wrCore opWR ∧ wrCore.space = 1 ∧ wrCore.dport ≠ 9 ∧
    wrCore.addr.toNat + wrCore.len.toNat = 0x100000 ∧ dev.place.dieState 0 ≠ 2 ∧ dev.place.roleOf 0 8 ≠ 14 ∧
    (∀ r ∈ [(0x2FFFFFC, true), (0x2C00000, true), (0x2BFFFFC, false)],
      Arrived (arrived dev (wrDie r.1)) (wrDie r.1) opWR ∧ (wrDie r.1).space = 2 ∧ (wrDie r.1).dport = 9 ∧
      (wrDie r.1).addr.toNat + (wrDie r.1).len.toNat ≤ 0x3000000 ∧
      dev.escrowHit 0 (wrDie r.1).addr.toNat (wrDie r.1).len.toNat = r.2 ∧ (wrDie r.1).byteEn ≠ 0) ∧
    (let p := { wrDie 0x2FFFFFC with byteEn := 0 }
     Arrived (arrived dev p) p opWR ∧ dev.escrowHit 0 p.addr.toNat p.len.toNat = true ∧ p.space = 2 ∧ p.dport = 9) ∧
    Arrived (arrived dev arrTile) arrTile opARR ∧ ¬ (arrTile.cls.toNat = 2 ∧ arrTile.aux.toNat % 1024 < 768) ∧
    Arrived (arrived dev arrFixed) arrFixed opARR ∧ arrFixed.cls.toNat = 2 ∧ arrFixed.aux.toNat % 1024 < 768 ∧ dev.pageEn (tileDA 0) pgStrDie = true := by
  unfold Arrived; decide +kernel

/-- A request with another opcode, target, port, space, address and length. -/
def reqAt (opc : BitVec 4) (da port space a : Nat) (n : Nat := 4) : Packet := { Packet.blank with
  opc := opc, cls := 2, src := 0x08, dst := BitVec.ofNat 8 da, sport := 0, dport := BitVec.ofNat 4 port, space := BitVec.ofNat 3 space,
  addr := BitVec.ofNat 48 a, len := BitVec.ofNat 9 n, data := if opc = opWR then List.replicate n 7 else [], psn := if opc = opWR then [false] else [],
  byteEn := if opc = opWR then BitVec.ofNat 256 (enableMask a n) else 0 }

theorem hyp_RequestsAtStores2 :
    (∀ p ∈ [reqAt opRD 0 0 0 0x018, reqAt opWR 0 0 0 0x018, reqAt opRD 0 0 0 0 0, reqAt opRD 0 0 0 0x019, { reqAt opWR 0 0 0 0x019 with byteEn := 0 },
            reqAt opRD (tileDA 0) 8 1 0x100000, reqAt opWR (tileDA 0) 9 2 0x3000000, reqAt opRD (tileDA 0) 9 1 0, reqAt opWR (tileDA 0) 0 2 0,
            reqAt opRD (tileDA 0) 0 3 0, reqAt opWR (memoryDA 0) 0 3 0, reqAt opRD (fabricDA 23) 0 4 15],
      (p.opc = opRD ∨ p.opc = opWR) ∧ Arrived (arrived dev p) p p.opc) ∧
    (∀ opc ∈ [opRD, opWR], registerForm (reqAt opc 0 0 0 0x018) = true) ∧ (blkAt 0 0).isSome = true ∧ dev.retired 0 0 = false ∧
    (reqAt opWR 0 0 0 0x018).byteEn ≠ 0 ∧ registerForm (reqAt opRD 0 0 0 0x019) = false ∧
    (dieKind (memoryDA 0) = some .memory ∧ channelDA (dev.channelOf 0) = memoryDA 0 ∧ 0 < (dev.setReg (memoryDA 0) 0xC0 0x040 1).dramSize ∧ (reqAt opWR (memoryDA 0) 0 3 0).cls ≠ 0) ∧
    (dieKind (fabricDA 23) = some .fabric ∧ fabricOf (fabricDA 23) = some 23 ∧ dev.portOwner 23 15 = none) ∧ retiredT0.place.dieState 0 = 2 := by
  unfold Arrived; decide +kernel

/-- A clean response to tag 5 of core 0 of T0. -/
def rdr5 : Packet := { Packet.blank with
  opc := opRDR, src := 0x10, dst := BitVec.ofNat 8 (tileDA 0), dport := 0, tag := 5, len := 4, space := 3, data := [1, 2, 3, 4], psn := [false] }

def out5 : OutReq := { da := tileDA 0, port := 0, tag := 5, p := { rdr5 with opc := opRD, data := [], psn := [] }, sent := 0 }

theorem hyp_ResponsesAndTimeouts :
    (let s := arrived dev rdr5
     Arrived s rdr5 opRDR ∧ s.pendingReq rdr5 = none) ∧
    (let st : Stream := { strm 2 (copyDesc 1 256) with reqs := [{ tag := 5, write := false, first := 0, count := 1 }], next := 1 }
     let s := arrived (strS [st]) rdr5
     let s := s.setNet { s.net with outstanding := [out5] }
     Arrived s rdr5 opRDR ∧ s.pendingReq rdr5 = some out5 ∧ (s.core 0 0).str.walker rdr5.tag.toNat = none ∧ dieKind rdr5.dst.toNat = some .tile ∧
     rdr5.dport.toNat < 9 ∧ (takeReq rdr5.tag.toNat (s.core 0 0).str.streams).isSome = true ∧ (s.core 0 0).str.running 2 = some st) ∧
    (let s := dev.setNet { dev.net with outstanding := [out5] }
     let s := s.setBoot { s.boot with time := s.niTimeout (tileDA 0) }
     (s.net.outstanding.find? fun o => o.da == tileDA 0 && o.port == 0 && o.tag == 5) = some out5 ∧
     (s.net.arrived.any fun p => p.isResponse && s.pendingReq p == some out5) = false ∧ out5.sent + s.niTimeout (tileDA 0) ≤ s.boot.time) ∧
    (let h : HeldTag := { da := tileDA 0, port := 0, tag := 5, since := 0 }
     let s := dev.setNet { dev.net with heldTags := [h] }
     let s := s.setBoot { s.boot with time := 2 * s.niTimeout (tileDA 0) }
     (s.net.heldTags.find? fun h => h.da == tileDA 0 && h.port == 0 && h.tag == 5) = some h ∧
     h.since + 2 * s.niTimeout (tileDA 0) ≤ s.boot.time) := by
  unfold Arrived; decide +kernel

/-- Two packets at a router: a class 0 request for port 1 of T4's router and a class 2 one. -/
def qp (q hops : Nat) : QPacket :=
  { da := 0x24, inp := 4, q := q, since := 0, aged := 1000 - 28, head := 0,
    p := { Packet.blank with opc := opWR, hops := BitVec.ofNat 5 hops, route := 1, src := 0x24, dst := 0x25, age := 255 } }

theorem hyp_RoutersAndLinks :
    (let s := dev.setNet { dev.net with trained := true, queued := [qp 2 1, qp 0 1] }
     s.granted 0x24 1 = some (qp 0 1) ∧ qp 2 1 ∈ s.heads 0x24 ∧ outPort (qp 2 1).p = 1 ∧ s.mayLeave 0x24 1 (qp 2 1) = true ∧
     (s.net.queued.find? fun x => x.da == 0x24 && x.inp == 4 && x.q == 2) = some (qp 2 1) ∧ (qp 2 1).aged + 28 ≤ s.boot.time) ∧
    (let s := dev.setNet { dev.net with queued := [qp 0 0] }
     s.granted 0x24 4 = some (qp 0 0) ∧ (qp 0 0).p.dst.toNat ≠ 0x24) ∧
    (let x : QPacket := { qp 0 0 with p := { (qp 0 0).p with dst := 0x24 } }
     (dev.setNet { dev.net with queued := [x] }).granted 0x24 4 = some x ∧ x.p.dst.toNat = 0x24) ∧
    (let s := dev.setNet { dev.net with trained := true, retraining := [4 * 0x26 + 1], crcErrs := [(4 * 0x24 + 1, [998, 999, 1000])] }
     s.carries 0x24 1 = true ∧ (4 * 0x26 + 1) ∈ s.net.retraining ∧
     4 ≤ (s.boot.time :: ((tget s.net.crcErrs (4 * 0x24 + 1) []).filter fun t => decide (s.boot.time < t + crcWindow))).length) ∧
    (256 + tileDA 59 ≥ 256 ∧ dieKind (256 + tileDA 59 - 256) = some .tile ∧ (∃ l ∈ elementLinks (256 + tileDA 0), l ∉ dev.net.failed) ∧
      dev.place.dieState (tileOfDA (256 + tileDA 0 - 256)) = 1 ∧ (dev.ledRec (ledgerRef (tileDA 0) 0x05 0)).state ≠ 3 ∧
      67 ∉ tget dev.net.badLanes (4 * 0x26 + 1) []) ∧
    179 ∉ dev.net.failed ∧ dev.net.failedLink = none ∧ dev.net.awaiting = none ∧ dev.pacer.phase = .disarmed ∧
    (ticking 0).net.awaiting = none ∧ (ticking 0).pacer.phase = .running ∧
    ((ticking 0).setNet { dev.net with failedLink := some 3 }).net.failedLink.isSome = true := by decide +kernel

/-! Ledger and host -/

def chargePkt (kind loc : Nat) : Packet :=
  msgPkt (tileDA 0) 9 keeperDA 0 2 0x06 (leBytes 4 (coreRef 0 8) ++ leBytes 4 kind ++ leBytes 4 loc ++ leBytes 4 3)

theorem hyp_LedgerCharges :
    (∀ k ∈ [0, 1], let p := chargePkt k noLoc
      ArrivedMsg (arrived dev p) p 0x06 ∧ chargeOk p = true ∧ validRef (pword p 0) = true ∧ ((arrived dev p).ledRec (pword p 0)).state = 0 ∧
      bits (pword p 1) 1 0 = k ∧ ((arrived dev p).ledRec (pword p 0)).tick2 = none ∧ pword p 2 = noLoc) ∧
    (let p := chargePkt (0x0E * 4) noLoc
     ArrivedMsg (arrived dev p) p 0x06 ∧ chargeOk p = false) ∧
    (let p := msgPkt (tileDA 0) 9 keeperDA 0 2 0x06 (leBytes 4 0xFF0000 ++ leBytes 4 0 ++ leBytes 4 noLoc ++ leBytes 4 3)
     ArrivedMsg (arrived dev p) p 0x06 ∧ chargeOk p = true ∧ validRef (pword p 0) = false) := by
  unfold ArrivedMsg Arrived; decide +kernel

theorem hyp_LedgerCharges2 :
    ∀ x ∈ [(0, 77), (0, noLoc), (2, noLoc), (3, noLoc)],
      let p := chargePkt x.1 x.2
      let s := arrived dev p
      let s := s.setRec (coreRef 0 8) { s.ledRec (coreRef 0 8) with state := 1, loc2 := 77, tick2 := some 0 }
      ArrivedMsg s p 0x06 ∧ chargeOk p = true ∧ validRef (pword p 0) = true ∧ (s.ledRec (pword p 0)).state = 1 ∧
      bits (pword p 1) 1 0 = x.1 ∧ pword p 2 = x.2 ∧ (s.ledRec (pword p 0)).loc2 = 77 ∧ (s.ledRec (pword p 0)).tick2 = some 0 ∧
      s.serviceTick (pword p 3) < 2 ^ 24 ∧ refKind (pword p 0) = 0x02 := by
  unfold ArrivedMsg Arrived; decide +kernel

theorem hyp_LedgerCharges3 :
    (dieKind 0xA0 = none ∧ (dieKind (refDA (coreRef 59 8))).isSome = true ∧ dev.agingDue (refDA (coreRef 59 8)) = true ∧
      (dev.setKeeper { dev.keeper with aged := [(tileDA 59, 0)] }).agingDue (tileDA 59) = false) ∧
    (let s := (ticking 0).setKeeper { dev.keeper with records := [(coreRef 0 8, { thresh := 1, history := List.replicate 15 16 })] }
     let ms := [(coreRef 0 7, 9), (coreRef 0 8, 0)]
     ((ms.take 64).map (·.1)).Nodup ∧ (coreRef 0 8, 0) ∈ ms.take 64 ∧ refDA (coreRef 0 8) = tileDA 0 ∧ s.agingDue (tileDA 0) = true ∧
     validRef (coreRef 0 8) = true ∧ (s.ledRec (coreRef 0 8)).state < 2 ∧ 0 < (s.ledRec (coreRef 0 8)).thresh ∧
     ((0 :: (s.ledRec (coreRef 0 8)).history).take 16).length = 16 ∧ (((0 : Nat) : Int) - (16 : Nat)) % 16 = 0 ∧
     ((0 : Nat) : Int) + 64 * (((0 : Int) - 16) / 16) < (s.ledRec (coreRef 0 8)).thresh ∧ ∀ m ∈ [0, 9], (coreRef 0 6, m) ∉ ms.take 64) := by
  decide +kernel

theorem hyp_LedgerOperations :
    (dev.serviceNow < dev.keeper.serviceSaved + 2 ^ 16 ∧
      (let s := dev.setKeeper { dev.keeper with service := 2 ^ 16 }
       s.keeper.serviceSaved + 2 ^ 16 ≤ s.serviceNow)) ∧
    (let s := (ticking 0).setHost { dev.host with mailbox := some 3 }
     s.host.held.length < 64 ∧ s.host.mailbox = some 3 ∧ s.stopBusy = false ∧ s.disarmed = false ∧ s.host.mailbox ≠ some 4) ∧
    (let s := (dev.setHost { dev.host with mailbox := some 4 }).setReg pcieDA pgPci 0x074 (coreRef 0 8)
     s.host.mailbox = some 4 ∧ validRef (s.mbxWord 0) = true ∧ s.host.mailbox ≠ some 3) ∧
    (let s := (dev.setHost { dev.host with mailbox := some 4 }).setReg pcieDA pgPci 0x074 0xFF0000
     s.host.mailbox = some 4 ∧ validRef (s.mbxWord 0) = false) ∧
    (let s := dev.setHost { dev.host with mailbox := some 3 }
     s.host.held.length < 64 ∧ s.host.mailbox = some 3 ∧ s.stopBusy = false ∧ s.disarmed = true ∧
     (s.setPacer { s.pacer with phase := .restarting }).stopBusy = true) := by decide +kernel

theorem hyp_SessionsAndLinkResets :
    ((dev.setReg pcieDA pgPci 0x04C (1 + 2 * 2 ^ 2)).sessionOpen = true ∧ dev.sessionOpen = false) ∧
    (bits 0x22 7 4 ≤ 2 ∧ 2 ≤ bits 0x22 3 0) ∧ (¬ (bits 0x11 7 4 ≤ 2 ∧ 2 ≤ bits 0x11 3 0) ∧ bits 0x11 7 4 ≤ 1 ∧ 1 ≤ bits 0x11 3 0) ∧
    (¬ (bits 0x33 7 4 ≤ 2 ∧ 2 ≤ bits 0x33 3 0) ∧ ¬ (bits 0x33 7 4 ≤ 1 ∧ 1 ≤ bits 0x33 3 0)) ∧
    dev.boot.porst = false ∧ dev.boot.power ≠ .halted ∧ dev.boot.power ≠ .testing ∧
    (dev.markHost (regKey pcieDA pgPci 0x0F8 0)).hostHolds (regKey pcieDA pgPci (0x098 + 32 * 3) 0) = true ∧
    dev.hostHolds (regKey pcieDA pgPci 0x0F8 0) = false := by decide

theorem hyp_HostWatchdog :
    (let s := dev.setReg pcieDA pgPci 0x054 (1 + 2 ^ 16)
     bits (s.reg pcieDA pgPci 0x054) 15 0 ≠ 0 ∧ bit (s.reg pcieDA pgPci 0x054) 16 = true ∧ s.pacer.phase = .disarmed ∧
     s.boot.time < s.host.kicked + bits (s.reg pcieDA pgPci 0x054) 15 0 * 1400000) ∧
    (∀ ph ∈ [TickPhase.running, .restarting, .armed, .disarmed],
      let s := (dev.setReg pcieDA pgPci 0x054 (1 + 2 ^ 16)).setPacer { dev.pacer with phase := ph }
      let s := s.setBoot { s.boot with time := 1400000 }
      s.host.kicked + bits (s.reg pcieDA pgPci 0x054) 15 0 * 1400000 ≤ s.boot.time ∧ s.pacer.phase = ph) ∧
    (let s := (dev.setReg pcieDA pgPci 0x054 1).setBoot { dev.boot with time := 1400000 }
     s.host.kicked + bits (s.reg pcieDA pgPci 0x054) 15 0 * 1400000 ≤ s.boot.time ∧ bit (s.reg pcieDA pgPci 0x054) 16 = false) := by
  decide +kernel

/-- A ring of 2^4 events at host byte 2^20 in a session of version 2. -/
def evS : State :=
  let s := (dev.setReg pcieDA pgPci 0x04C (1 + 2 * 2 ^ 2)).setReg pcieDA pgPci 0x060 (4 + 2 ^ 4)
  (s.setReg pcieDA pgPci 0x058 (2 ^ 20)).setHost { dev.host with held := [{ code := 1, src := 5, unit := 0, tick := 0 }] }

/-- Channel 3 with a ring of 2^4 descriptors at host byte 2^20, one of which stands there; the device has DRAM. -/
def dmaS (w0 w1 : Nat) : State :=
  let s := ((dev.setChan 0 { step := 4 }).setReg (memoryDA 0) 0xC0 0x040 1).setReg pcieDA pgPci 0x0F8 (4 + 2 ^ 5)
  let s := (s.setReg pcieDA pgPci 0x0FC 1).setReg pcieDA pgPci 0x0F0 (2 ^ 20)
  s.writeAll .host 0 (2 ^ 20) (leBytes 4 w0 ++ leBytes 4 w1 ++ leBytes 8 0 ++ leBytes 8 0) false

/-- Channel 3 awaits the response to its last request, with tag 5. -/
def dmaP (opc : BitVec 4) : Packet := { rdr5 with opc := opc, src := 0xD0, dst := BitVec.ofNat 8 pcieDA, dport := 4, space := 0 }
def dmaD : DmaRun := { place := 2 ^ 20, index := 0, words := [0, 4, 2 ^ 12, 0, 0, 0, 0, 0], run := { tags := [(5, 0)] } }
def dmaA (opc : BitVec 4) : State :=
  let o : OutReq := { da := pcieDA, port := 4, tag := 5, p := { dmaP opc with opc := if opc = opRDR then opRD else opWR }, sent := 0 }
  let s := arrived (dev.setDma 3 (some dmaD)) (dmaP opc)
  s.setNet { s.net with outstanding := [o] }

theorem hyp_EventRingAndDma_requests :
    (∀ w0 ∈ [0, 1], let s := (dmaS w0 256).setTeller pcieDA 4 { level := 256 }
      s.dma 3 = none ∧ dmaOk (fun i => s.word .host 0 (2 ^ 20 + 4 * i)) = true ∧ (s.freeTag pcieDA (1 + 3)).isSome = true ∧
      s.hasTokens pcieDA (1 + 3) 2 256 = true ∧ bit w0 0 = decide (w0 = 1)) ∧
    (∀ opc ∈ [opRDR, opWRR], let p := if opc = opRDR then dmaP opc else { dmaP opc with data := [], psn := [], len := 0 }
      let s := if opc = opRDR then dmaA opc else { dmaA opc with net := { (dmaA opc).net with arrived := [p] } }
      Arrived s p opc ∧ (s.pendingReq p).isSome = true ∧ p.dst.toNat = pcieDA ∧ p.dport.toNat = 1 + 3 ∧ p.status = 0 ∧
      (∀ x ∈ p.psn, x = false) ∧ s.dma 3 = some dmaD ∧ dmaD.run.left = [] ∧ dmaD.run.tags = [(p.tag.toNat, 0)] ∧
      2 ^ 12 + p.data.length ≤ dmaD.place + 28) := by
  unfold Arrived; decide +kernel

theorem hyp_EventRingAndDma :
    (evS.host.held ≠ [] ∧ evS.host.msixMask.getLsbD 0 = false ∧ evS.sessionOpen = true ∧ evS.sessionMajor = 2 ∧ bit (evS.reg pcieDA pgPci 0x060) 4 = true ∧ evS.evRoom = true) ∧
    (∀ r ∈ [(2 ^ 4, 0, false), (0, 0, true), (0, 256, true), (1, 256, true)],
      let s := dmaS r.1 r.2.1
      let ctrl := s.reg pcieDA pgPci (0x098 + 32 * 3)
      let size := 2 ^ bits ctrl 4 0
      let head := s.reg pcieDA pgPci (0x0A0 + 32 * 3) % size
      let d := s.hostBase (0x090 + 32 * 3) + 32 * head
      let w := fun i => s.word .host 0 (d + 4 * i)
      bit ctrl 5 = true ∧ head ≠ s.reg pcieDA pgPci (0x09C + 32 * 3) % size ∧ dmaOk w = r.2.2 ∧ w 0 = r.1 ∧ w 1 = r.2.1 ∧ bits (w 0) 2 1 = 0 ∧
      w 1 ≤ s.dramSize ∧ s.chReady (s.channelOf 0) = true ∧ s.psnAny .dram 0 0 (w 1) = false ∧ w 1 ≤ d + 28 ∧ w 2 = 0 ∧ w 4 = 0) := by decide +kernel

theorem hyp_ClearRegister : dev.answers = true ∧ dev.reached pacerDA = true ∧ bit (dev.reg pacerDA pgTkc 0x00C) 2 = false ∧ 699 % 4096 < 700 ∧ 700 ≤ 4095 % 4096 := by
  decide

theorem hyp_RegisterAccesses :
    dev.answers = true ∧ dev.reached (tileDA 59) = true ∧ blkAt (tileDA 59) (pgSeq 8) = some .seq ∧ dev.retired (tileDA 59) (pgSeq 8) = false ∧
    bit (dev.reg (tileDA 59) (pgSeq 8) 0x00C) 2 = false ∧ dev.disarmed = true ∧ (ticking 0).disarmed = false ∧
    (dev.setKeeper { dev.keeper with place := { dev.keeper.place with state := [(59, 2)] } }).retired (tileDA 59) (pgSeq 8) = true ∧
    (maxCleared .seq 0x084).isSome = true ∧ dev.freshBits (regKey (tileDA 59) (pgSeq 8) 0x014 0) < 2 ^ 32 ∧ 4 < Blk.seq.faultBits ∧ blkAt pcieDA pgPci = some .pci ∧ blkAt tsnDA pgTsn = some .tsn := by decide +kernel

/-- R27: the host reads all ones of a die that E6 does not reach; R299: the physical column of a logical column behind a lost one. -/
theorem test_hostRead_and_columns :
    (let s := dev.setNet { dev.net with failed := (List.range 180) }
     s.reached (tileDA 0) = false ∧ s.hasRoute (tileDA 0) = true ∧ s.hostRead (tileDA 0) 0 0x018 = 0xFFFFFFFF) ∧
    (dev.setReg pcieDA pgPci 0x018 5).hostRead pcieDA pgPci 0x018 = 5 ∧
    physColumn [] 7 = 7 ∧ physColumn [7] 6 = 6 ∧ physColumn [7] 7 = 8 := by decide +kernel


/-! Plant Ethernet -/

/-- Port 3 up; its receive ring stands at DRAM byte 2^20, its transmit ring at 2^21; its initiators have tokens. -/
def ethS (x : EthPort := {}) : State :=
  let s := ((dev.setReg (memoryDA 0) 0xC0 0x040 1).setReg tsnDA pgTsn 0x04C 1).setReg tsnDA pgTsn 0x05C 1
  let s := (s.setReg tsnDA pgTsn 0x0BC (2 ^ 6)).setReg tsnDA pgTsn 0x0B8 (2 ^ 7)
  ((s.setTeller tsnDA 3 { level := 16 }).setTeller tsnDA 7 { level := 16 }).setEth 3 x

/-- A response with tag 5 at a port of E7, and the state in which it waits. -/
def ethP (opc : BitVec 4) (port : Nat) (data : List Byte) : Packet := { Packet.blank with
  opc := opc, src := BitVec.ofNat 8 (channelDA 0), dst := BitVec.ofNat 8 tsnDA, dport := BitVec.ofNat 4 port, tag := 5, len := BitVec.ofNat 9 data.length,
  data := data, psn := if data.isEmpty then [] else [false] }
def ethA (p : Packet) (x : EthPort) : State :=
  let o : OutReq := { da := tsnDA, port := p.dport.toNat, tag := 5, p := { p with opc := if p.opc = opRDR then opRD else opWR }, sent := 0 }
  let s := arrived (ethS x) p
  s.setNet { s.net with outstanding := [o] }

/-- A descriptor with a buffer at byte 256 and the given control word. -/
def ethDesc (w2 : Nat) : List Byte := leBytes 4 256 ++ leBytes 4 0 ++ leBytes 4 w2 ++ leBytes 4 0

theorem hyp_PlantEthernet_requests :
    (ethS.portUp 3 = true ∧ (ethS.eth 3).rx = none ∧ (ethS.eth 3).tx = none ∧ (ethS.freeTag tsnDA 3).isSome = true ∧
      ethS.hasTokens tsnDA 3 2 16 = true ∧ (ethS.freeTag tsnDA 7).isSome = true ∧ ethS.hasTokens tsnDA 7 2 16 = true ∧
      (ethS.eth 3).pollDue ≤ ethS.boot.time) ∧
    (let s := ethS { tx := some { phase := 4, data := List.replicate 60 0, began := 0 }, gcl := [(1, 700)], gateAt := 20 }
     (s.eth 3).tx = some { phase := 4, data := List.replicate 60 0, began := 0 } ∧ 0 + s.frameCycles 3 60 ≤ s.boot.time ∧
     (s.freeTag tsnDA 7).isSome = true ∧ s.hasTokens tsnDA 7 2 8 = true ∧ (s.eth 3).gcl[(s.eth 3).gate]? = some (1, 700) ∧
     (s.eth 3).gateAt + 700 * 7 / 5 ≤ s.boot.time) := by decide +kernel

theorem hyp_PlantEthernet_receive :
    let ra := (ethS.headDesc 3 1)
    (∀ w ∈ [0, 2 ^ 31], let e : EthRun := { phase := 1, run := { tags := [(5, ra)] } }
      let p := ethP opRDR 3 (ethDesc w)
      let s := ethA p { rx := some e, rxq := [([1], 0)] }
      Arrived s p opRDR ∧ (s.pendingReq p).isSome = true ∧ p.dst.toNat = tsnDA ∧ p.dport.toNat = 3 ∧ (s.eth 3).rx = some e ∧
      (s.eth 3).rxq = [([1], 0)] ∧ p.status = 0 ∧ p.data.length = 16 ∧ bit (word32At p.data 8) 31 = decide (w ≠ 0) ∧ s.headDesc 3 1 = ra) ∧
    (∀ ph ∈ [2, 3], let e : EthRun := { phase := ph, run := { tags := [(5, 256)] }, desc := ethDesc (2 ^ 31) }
      let p := ethP opWRR 3 []
      let s := ethA p { rx := some e, rxq := [([1], 0)] }
      Arrived s p opWRR ∧ (s.pendingReq p).isSome = true ∧ (s.eth 3).rx = some e ∧ e.run.left = [] ∧ e.run.tags = [(p.tag.toNat, 256)]) := by
  unfold Arrived; decide +kernel

theorem hyp_PlantEthernet_transmit :
    let ta := (ethS.headDesc 3 0)
    (∀ w ∈ [0, 2 ^ 31 + 1, 2 ^ 31 + 9216], let e : EthRun := { phase := 1, run := { tags := [(5, ta)] } }
      let p := ethP opRDR 7 (ethDesc w)
      let s := ethA p { tx := some e }
      Arrived s p opRDR ∧ (s.pendingReq p).isSome = true ∧ p.dport.toNat = 4 + 3 ∧ (s.eth 3).tx = some e ∧ p.status = 0 ∧
      p.data.length = 16 ∧ bit (word32At p.data 8) 31 = decide (w ≠ 0) ∧ bits (word32At p.data 8) 13 0 = w % 2 ^ 14 ∧ w % 2 ^ 14 ≤ 9216 ∧ s.headDesc 3 0 = ta) ∧
    (let e : EthRun := { phase := 5, run := { tags := [(5, ta + 8)] }, desc := ethDesc (2 ^ 31 + 1) }
     let p := ethP opWRR 7 []
     let s := ethA p { tx := some e }
     Arrived s p opWRR ∧ (s.pendingReq p).isSome = true ∧ (s.eth 3).tx = some e ∧ e.run.tags = [(p.tag.toNat, ta + 8)]) := by
  unfold Arrived; decide +kernel

theorem hyp_PlantEthernet :
    (bits (ethS.portCfg 3) 1 0 ≠ 0 ∧ bit (ethS.reg tsnDA pgTsn 0x05C) 0 = true) ∧
    ((-20 : Int) ≤ -20 ∧ (20 : Int) ≤ 20 ∧ (-1001 : Int) < -1000 ∧ (-1000 : Int) ≤ -1000 ∧ (-21 : Int) < -20) ∧
    (let s := ((ticking 0).setReg pacerDA pgTkc 0x050 1).setPacer { (ticking 0).pacer with netLock := true, syncGood := 7 }
     7 ≤ s.pacer.syncGood ∧ s.pacer.netLock = true ∧ s.onNetwork = true ∧ s.running = true) := by decide +kernel

/-! Memory channels -/

/-- Channel 11 ready with 64 GiB of DRAM a channel, port 15 of DA 5 real-time, ageing after 64 cycles, scrub on. -/
def chS (f : Chan → Chan := id) : State :=
  let s := ((dev.setReg (memoryDA 0) 0xC0 0x040 1).setReg (channelDA 11) (pgMch 11) 0x07C (5 + 15 * 2 ^ 8 + 2 ^ 12))
  let s := (s.setReg (channelDA 11) (pgMch 11) 0x04C 1).setReg (channelDA 11) (pgMch 11) 0x054 1
  { s with chans := [(11, f { step := 4 })] }

def memRd (order : Nat) (cls : Nat := 0) : MemReq :=
  { order := order, since := 0, addr := 64 * order,
    p := { Packet.blank with opc := opRD, cls := BitVec.ofNat 2 cls, src := 0x20, dst := BitVec.ofNat 8 (channelDA 11), len := 4, space := 3 },
    data := [1, 2, 3, 4], psn := [false] }

theorem hyp_ChannelService :
    (let s := chS fun x => { x with q1 := [memRd 7, memRd 9], q2 := [memRd 8 2] }
     s.chReady 11 = true ∧ (s.armedInject 11).1 = 0 ∧ (s.chan 11).alerted = false ∧ (s.chan 11).hasRoom = true ∧
     s.nextCommit 11 = some (memRd 7, 2, false) ∧
     (s.chan 11).granted = none ∧ (s.chan 11).q1 ≠ [] ∧ (s.chan 11).q2[0]? = some (memRd 8 2) ∧
     s.reg (channelDA 11) (pgMch 11) 0x04C % 256 ≠ 0 ∧
     (memRd 8 2).since + 64 * (s.reg (channelDA 11) (pgMch 11) 0x04C % 256) ≤ s.boot.time) ∧
    (let s := chS fun x => { x with committed := [memRd 7] }
     s.chReady 11 = true ∧ (s.chan 11).committed = [memRd 7] ∧ (memRd 7).p.opc = opRD ∧ (s.armedInject 11).1 = 0 ∧
     (s.chan 11).q1 = [] ∧ (s.chan 11).qr = [] ∧ (s.chan 11).q2 = []) ∧
    (let m : MemReq := { memRd 7 with p := { (memRd 7).p with opc := opWR } }
     ((chS fun x => { x with committed := [m] }).chan 11).committed = [m] ∧ m.p.opc = opWR) ∧
    (chS.realTime 11 5 15 = true ∧ chS.realTime 11 5 14 = false ∧ (chS.chan 11).pendOvd = []) ∧
    (let s := chS fun x => { x with pendOvd := [⟨5, 15, 0⟩] }
     s.chReady 11 = true ∧ (s.chan 11).pendOvd = [⟨5, 15, 0⟩] ∧ (s.chan 11).granted = none ∧ (s.chan 11).barrier = []) ∧
    (let s := (chS fun x => { x with granted := some ⟨5, 15, 100⟩ })
     let s := s.setBoot { s.boot with time := 1220 }
     (s.chan 11).granted = some ⟨5, 15, 100⟩ ∧ 100 + 1120 ≤ s.boot.time) := by decide +kernel

theorem hyp_RefreshAndErrors :
    (chS.chReady 11 = true ∧ (chS.chan 11).nextDue ≤ chS.boot.time ∧ (chS.chan 11).tableDue ≤ chS.boot.time ∧ (chS.chan 11).tempDue ≤ chS.boot.time ∧
     chS.boot.time < ((chS fun x => { x with nextDue := 1001, tableDue := 1001 }).chan 11).nextDue ∧
     chS.boot.time < ((chS fun x => { x with nextDue := 1001, tableDue := 1001 }).chan 11).tableDue) ∧
    (let s := chS fun x => { x with dueRefresh := 1, debt := 1 }
     s.chReady 11 = true ∧ 0 < (s.chan 11).dueRefresh ∧ (s.chan 11).alerted = false ∧ (s.chan 11).q1 = [] ∧ (s.chan 11).committed = [] ∧ 0 < (s.chan 11).debt) ∧
    (let s := chS fun x => { x with dueRefresh := 4, debt := 4, q1 := [memRd 7] }
     0 < (s.chan 11).dueRefresh ∧ 4 ≤ (s.chan 11).debt) ∧
    (let s := chS fun x => { x with debt := 3, q1 := [memRd 7] }
     (s.chan 11).q1 ≠ [] ∧ (s.chan 11).debt < 4) ∧
    (∀ due ∈ [0, 1], let s := (chS fun x => { x with neigh := [5], lastNeigh := some 0, dueRefresh := due, debt := 3 })
     let s := s.setBoot { s.boot with time := 2730 }
     (s.chan 11).granting < (s.chan 11).neigh.length ∧ (s.chan 11).neigh = [5] ∧ (s.chan 11).dueRefresh = due ∧ (s.chan 11).alerted = false ∧
     (s.chan 11).q1 = [] ∧ (s.chan 11).committed = [] ∧ 3 ≤ (s.chan 11).debt ∧ (s.chan 11).lastNeigh = some 0 ∧ 0 + 2730 ≤ s.boot.time) ∧
    (∀ n ∈ [1, 2], ((chS fun x => { x with alerted := true, replays := n }).chan 11).alerted = true ∧
      ((chS fun x => { x with alerted := true, replays := n }).chan 11).replays = n ∧
      ((chS fun x => { x with alerted := true, replays := n }).armedInject 11).1 ≠ 3) ∧
    (let s := ((chS fun x => { x with alerted := true, unsure := 1 }).setReg (channelDA 11) (pgMch 11) 0x01C (3 + 2 ^ 6)).setKeeper { dev.keeper with lifecycle := 0 }
     s.injectable = true ∧ (s.armedInject 11).1 = 3 ∧ (s.chan 11).unsure ≠ 0) ∧
    ((chS.chan 11).alerted = false ∧ (chS.chan 11).q1 = [] ∧ (chS.chan 11).qr = [] ∧ (chS.chan 11).q2 = [] ∧
      (chS.chan 11).held (chS.rowKey 11 0) = false ∧ chS.reg (channelDA 11) (pgMch 11) 0x054 % 256 ≠ 0 ∧ chS.scrubDue 11 ≤ chS.boot.time ∧
      chS.injected 11 = [] ∧ chS.sparedDev (channelDA 11) (11 % 2) (chS.groupOf 11 0) ≠ some (79 / 8)) := by decide +kernel

/-! Fabric -/

/-- The segment of variant 7 of region 15 of fabric die 23. -/
def seg7 : SegEnt :=
  { typ := 9, die := fabricDA 23, unit := 15, variant := 7, dakind := true, offset := 1, length := 32, dest := 0, digest := [] }

/-- Region 15 of fabric die 23, the queue of that die, and the digest list of the loaded image. -/
def regS (x : Region) (q : List (Nat × Option Nat)) (digests : List (List Byte)) : State :=
  let s := dev.setKeeper { dev.keeper with segs := [seg7], digests := digests }
  (s.setRegion 23 15 x).setFab 23 { queue := q }

/-- The stored bytes of that segment in an empty flash. -/
def seg7Bytes : List Byte := List.replicate 96 0

theorem seg7_stored (x : Region) (q : List (Nat × Option Nat)) (ds : List (List Byte)) :
    (regS x q ds).variantBytes seg7 = seg7Bytes := by
  have h : (List.range 96).map (fun i => (dev.byte .flash (flashPlace (4096 + i)).1 (flashPlace (4096 + i)).2)) = seg7Bytes := by
    decide +kernel
  exact h

/-- The segment passes its check where the digest list holds its digest and what it declares is accepted, and does not where the list
holds another. -/
theorem seg7_decl (x : Region) (q : List (Nat × Option Nat))
    (ok : declOk (fabricDA 23) (seg7Bytes.drop 64) (Config.regionDecl (seg7Bytes.drop 64)) = true) :
    (regS x q [sha384 seg7Bytes]).variantDecl (seg7, 0) = some (Config.regionDecl (seg7Bytes.drop 64), seg7Bytes.drop 64) ∧
    (regS x q [0 :: sha384 seg7Bytes]).variantDecl (seg7, 0) = none := by
  constructor
  · unfold State.variantDecl
    rw [show (seg7, 0).1 = seg7 from rfl, seg7_stored, if_pos (by rfl)]
    exact if_pos ok
  · unfold State.variantDecl
    rw [show (seg7, 0).1 = seg7 from rfl, seg7_stored]
    refine if_neg fun h => ?_
    have h' : sha384 seg7Bytes = 0 :: sha384 seg7Bytes := h
    exact absurd (congrArg List.length h') (by simp)

theorem seg7_usesRetired (x : Region) (q : List (Nat × Option Nat))
    (ok : declOk (fabricDA 23) (seg7Bytes.drop 64) (Config.regionDecl (seg7Bytes.drop 64)) = true) :
    (regS x q [sha384 seg7Bytes]).usesRetired 23 (seg7, 0) = false := by
  have h : ((regS x q [sha384 seg7Bytes]).fab 23).bramRetired = [] := rfl
  unfold State.usesRetired
  rw [(seg7_decl x q ok).1, h]
  simp

theorem hyp_PartialReconfiguration_load : ∀ (x : Region) (q : List (Nat × Option Nat)),
    declOk (fabricDA 23) (seg7Bytes.drop 64) (Config.regionDecl (seg7Bytes.drop 64)) = true →
    let s := regS x q [sha384 seg7Bytes]
    s.pageEn (fabricDA 23) (pgFab 15) = true ∧ s.pageEn (fabricDA 23) pgFabDie = true ∧
    s.variantSeg 23 15 7 = some (seg7, 0) ∧ s.variantSeg 23 15 6 = none ∧ s.usesRetired 23 (seg7, 0) = false :=
  fun x q ok => ⟨by show dev.pageEn _ _ = true; decide +kernel, by show dev.pageEn _ _ = true; decide +kernel, rfl, rfl,
    seg7_usesRetired x q ok⟩

/-- A variant gives no fixed use beyond the one of variant 0 where it is variant 0's own configuration. -/
theorem hyp_PartialReconfiguration_verified :
    let x : Region := { phase := .verifying, target := some 7, base := Config.regionDecl (seg7Bytes.drop 64) }
    let s := regS x [(15, some 7)] [sha384 seg7Bytes]
    s.servingIn 23 15 .verifying = true ∧ s.keepsUse 23 15 (Config.regionDecl (seg7Bytes.drop 64)) = true := by
  have h : ∀ l : List (Nat × Nat), l.all l.contains = true := fun l =>
    List.all_eq_true.mpr fun x hx => List.contains_iff_mem.mpr hx
  exact ⟨rfl, h (State.fixedNames _ 23 _)⟩

theorem hyp_PartialReconfiguration_ram (cfg : List Byte) (h : (Config.ramCfg cfg 149).simple = true) (h' : (Config.ramCfg cfg 149).ecc = true) :
    let x : Region := { phase := .running, cfg := cfg }
    x.runs = true ∧ (Config.ramCfg x.logicCfg 149).simple = true ∧ (Config.ramCfg x.logicCfg 149).ecc = true := ⟨rfl, h, h'⟩

theorem hyp_PartialReconfiguration :
    (regS {} [] []).fabBusy 23 15 = false ∧ (regS {} (List.replicate 5 (0, none)) []).fabBusy 23 15 = true ∧
    (let x : Region := { phase := .verifying, target := some 7 }
     (regS x [(15, some 7)] []).servingIn 23 15 .verifying = true ∧ ((regS x [(15, some 7)] []).region 23 15).target = some 7) ∧
    (∀ tg ∈ [some 7, none], let x : Region := { phase := .isolating, isolated := 0, target := tg }
     let s := regS x [(15, tg)] []
     let s := s.setBoot { s.boot with time := 2 + s.niTimeout (fabricDA 23) }
     s.servingIn 23 15 .isolating = true ∧ x.isolated + 2 + s.niTimeout (fabricDA 23) ≤ s.boot.time) ∧
    (let x : Region := { phase := .loading, loading := 0, target := some 7 }
     let s := regS x [(15, some 7)] []
     (∀ time ∈ [7, 70000000], let s := s.setBoot { s.boot with time := time }
       s.servingIn 23 15 .loading = true ∧ x.loading + loadCycles (s.targetLen 23 15) ≤ s.boot.time ∧ s.boot.time ≤ x.loading + 70000000) ∧
     x.loading + 70000000 < (s.setBoot { s.boot with time := 70000001 }).boot.time) ∧
    (let x : Region := { phase := .releasing, releasing := 0, target := some 7 }
     let s := regS x [(15, some 7)] []
     s.servingIn 23 15 .releasing = true ∧ x.releasing + s.releaseCycles 23 15 ≤ s.boot.time) ∧
    (({ phase := .running, fixed := true } : Region).runs = true ∧ ({ phase := .running } : Region).fixed = false) := by decide +kernel

/-- A region that runs and declares target port 63 and initiator port 15. -/
def portsS (cls : Nat) (q : FabPort) : State :=
  let d : RegionDecl := { RegionDecl.empty with ports := [⟨63, 3, 0, 0, 0, 0, []⟩, ⟨79, cls, 0, 1, 100, 200, []⟩] }
  ((ticking 99).setRegion 23 15 { phase := .running, decl := d }).setFport 23 63 q

def sigPkt (port : Nat) : Packet := { Packet.blank with
  opc := opSIG, src := BitVec.ofNat 8 pacerDA, dst := BitVec.ofNat 8 (fabricDA 23), addr := BitVec.ofNat 48 port, aux := 0xFFFF }

/-- A request of the logic: four bytes of a die store. -/
def logicRd : Packet := { rdDie with src := BitVec.ofNat 8 (fabricDA 23), sport := 15, tag := 63, cls := 2 }

theorem hyp_FabricPorts :
    (∀ port ∈ [63, 62], Arrived (arrived (portsS 2 {}) (sigPkt port)) (sigPkt port) opSIG ∧ fabricOf (sigPkt port).dst.toNat = some 23) ∧
    ((portsS 2 {}).portOwner 23 63).isSome = true ∧ (portsS 2 {}).portOwner 23 62 = none ∧
    (let q : PortReq := { tag := 63, p := rdDie, since := 0 }
     let s := portsS 2 { reqs := [q] }
     let d : PortDecl := ⟨63, 3, 0, 0, 0, 0, []⟩
     s.portOwner 23 63 = some (15, d) ∧ ((s.fport 23 63).reqs.find? fun q => s.overdue 23 15 d q) = some q ∧ q.p.cls.toNat < 2 ∧
     ((s.fport 23 63).reqs.find? fun q => q.tag == 63) = some q ∧ (List.replicate 256 (0 : Byte)).length = q.p.len.toNat ∧
     (s.region 23 15).isolatedNow = false) ∧
    (let s := (portsS 2 {}).setTeller (fabricDA 23) 15 { level := 4 }
     s.portOwner 23 (64 + 15) = some (15, ⟨79, 2, 0, 1, 100, 200, []⟩) ∧ (s.region 23 15).isolatedNow = false ∧ logicRd.isRequest = true ∧ logicRd.tag.toNat < 64 ∧
     (s.fport 23 79).reqs = [] ∧ s.hasTokens (fabricDA 23) 15 2 logicRd.len.toNat = true ∧ s.freeTag (fabricDA 23) 15 = some 0) ∧
    ((portsS 0 {}).portOwner 23 (64 + 15) = some (15, ⟨79, 0, 0, 1, 100, 200, []⟩) ∧ logicRd.space = 2 ∧ (portsS 0 {}).pacer.cycle < 100) ∧
    (let s := ((portsS 0 {}).setPacer { (portsS 0 {}).pacer with cycle := 150 }).setTeller (fabricDA 23) 15 { level := 4 }
     100 ≤ s.pacer.cycle ∧ s.pacer.cycle ≤ 200 ∧ (s.fport 23 79).used < 1 ∧ s.hasTokens (fabricDA 23) 15 0 logicRd.len.toNat = true ∧
     s.freeTag (fabricDA 23) 15 = some 0 ∧ s.mayOffer ⟨79, 0, 0, 1, 100, 200, []⟩ 0 = true ∧ arrFixed.opc = opARR ∧ (sigPkt 3).opc = opSIG) := by
  unfold Arrived; decide +kernel

/-- Region 15 of F23 owns input group 3 and output group 15. -/
def groupsS (s : State) : State := s.setRegion 23 15 { phase := .running, decl := { RegionDecl.empty with inGroups := [3], outGroups := [15] } }

theorem hyp_FabricGroups :
    (let e := ent 4000 4 2 0 (fabricDA 23) 0 3 0 1
     let s := groupsS (ttS e)
     s.entryNow 0 4 = some e ∧ edgeOf e.die = none ∧ fabricOf e.die = some 23 ∧ s.groupOwner 23 false e.obj = some 15 ∧ (s.region 23 15).isolatedNow = false) ∧
    (let x : OutGroup := { fired := some 2, fetched := true, gate := 0xFFFF }
     let s := (groupsS ((ticking 0).setReg pacerDA pgTkc 0x048 0)).setOut (fabricDA 23) 15 x
     (s.outGroup (fabricDA 23) 15).fired = some 2 ∧ s.inTick = true ∧ s.tick = 2 + 1 ∧ s.pacer.cycle = s.outOffset ∧
     s.gateOk (fabricDA 23) 0xFFFF 2 = true ∧ edgeOf (fabricDA 23) = none ∧ s.groupOwner 23 true 15 = some 15) := by decide +kernel

/-- A response with tag 5 at port 0 of E0, or at port 15 of F23. -/
def rspAt (opc : BitVec 4) (da port : Nat) : Packet := { rdr5 with
  opc := opc, dst := BitVec.ofNat 8 da, dport := BitVec.ofNat 4 port, space := 2,
  len := if opc = opRDR then 4 else 0, data := if opc = opRDR then [1, 2, 3, 4] else [], psn := if opc = opRDR then [false] else [] }
def rspS (opc : BitVec 4) (da port : Nat) (s : State) : State :=
  let s := arrived s (rspAt opc da port)
  s.setNet { s.net with outstanding := [{ da := da, port := port, tag := 5, p := { rspAt opc da port with opc := if opc = opRDR then opRD else opWR }, sent := 0 }] }

theorem hyp_ResponsesAndTimeouts2 :
    (let q : PortReq := { tag := 63, p := { rdDie with tag := 5 }, since := 0 }
     let s := rspS opRDR (fabricDA 23) 15 ((portsS 2 {}).setFport 23 79 { reqs := [q] })
     Arrived s (rspAt opRDR (fabricDA 23) 15) opRDR ∧ (s.pendingReq (rspAt opRDR (fabricDA 23) 15)).isSome = true ∧
     (s.fport 23 79).reqs.find? (fun q => q.p.tag == 5) = some q ∧ (s.portOwner 23 79).isSome = true ∧ (s.region 23 15).isolatedNow = false) ∧
    (let s := rspS opRDR 0 0 ((ticking 0).setOut 0 15 { fired := some 3, tags := [(5, 32)] })
     Arrived s (rspAt opRDR 0 0) opRDR ∧ (s.pendingReq (rspAt opRDR 0 0)).isSome = true ∧ edgeOf 0 = some 0 ∧
     ((List.range 16).find? fun g => (s.outGroup (edgeDA 0) g).tags.any fun t => t.1 == 5) = some 15 ∧
     ((s.outGroup (edgeDA 0) 15).tags.find? fun t => t.1 == 5) = some (5, 32)) ∧
    (let d : Delivery := { group := 0, die := 0, tally := 900, cls := 0, left := [], tags := [5] }
     let s := rspS opWRR 0 0 ((ticking 0).setEdge 0 { (ticking 0).edge 0 with deliveries := [d] })
     Arrived s (rspAt opWRR 0 0) opWRR ∧ (s.pendingReq (rspAt opWRR 0 0)).isSome = true ∧
     ((s.edge 0).deliveries.find? fun d => d.tags.contains 5) = some d ∧ s.physDie d.die = some 0) := by
  unfold Arrived; decide +kernel

/-! Mint, temperature, power, image, Vault -/

theorem hyp_EnergyAndTemperature :
    (∀ cut ∈ [true, false], let s := (ticking 256).setMint { dev.mint with cut := cut }
     s.running = true ∧ s.pacer.strobed = false ∧ s.pacer.cycle = 1400 * s.mint.quantum + 256 ∧ s.mint.cut = cut) ∧
    (let s := (ticking 0).setMint { dev.mint with shed := true }
     0 ∈ s.boundTiles ∧ 59 ∉ s.boundTiles ∧ s.boundTiles.Nodup ∧ s.shedNow = true) ∧
    (let s := (ticking 5000).setMint { dev.mint with ended := 3 }
     s.pacer.cycle = 1400 * s.mint.ended + 800 ∧ (if 1400 * s.mint.ended < s.period then min 1400 (s.period - 1400 * s.mint.ended) else 1400) = 800 ∧
     1150 * 800 < 658 * 1400 ∧ 657 * 1400 ≤ 1150 * 800) ∧
    (let s := dev.setBoot { dev.boot with time := 21875 }
     s.pacer.phase = .disarmed ∧ s.mint.updated + 21875 ≤ s.boot.time) ∧
    ((0, 5) ∈ ({ dev.mint with refunds := [(0, 5)] } : Mint).refunds) ∧
    (let s := dev.setReg pacerDA pgMnt 0x044 100
     s.limitMin ≤ (s.limitMin : Nat) ∧ s.limitMin < 1024 ∧ 1 < s.limitMin) ∧
    ((dieKind 0x20).isSome = true ∧ dev.keeper.unusable.contains (0x20, 0xD0002) = false ∧
      (∀ x ∈ [(-440 : Int), 799, 840, 1200], -440 ≤ x ∧ x ≤ 1200) ∧ hottest (tput dev.mint.temps 0x20 800) = some (0x20, 800)) ∧
    (dev.pageEn 0x20 pgThm = true ∧ tget dev.mint.readAt 0x20 0 ≤ dev.boot.time ∧
      (let s := dev.setMint { dev.mint with uvAt := 10 }
       s.mint.uvAt + 1400000 ≤ (s.setBoot { s.boot with time := 1400010 }).boot.time ∧ s.boot.time < s.mint.uvAt + 1400000)) ∧
    (1709 < 1710 ∧ 1619 < 1620 ∧ 1710 ≤ 1710) := by decide +kernel

theorem hyp_PowerOnReset : 9 < 10 ∧ 10 ≤ 10 := by decide

theorem hyp_PowerSequences :
    MemoryOk (seqS 0 0 0 0) ∧ dev.keeper.vlt = .idle ∧ dev.imgState ≠ 8 ∧ State.reset.boot.porst = true ∧ dev.boot.porst = false ∧
    (let s := dev.setKeeper { dev.keeper with started := true }
     s.keeper.started = true ∧ s.shutdownOk = true ∧
     (s.setPacer { s.pacer with phase := .running }).shutdownOk = false) ∧
    (let s := dev.setBoot { dev.boot with power := .testing, bistGroup := 8 }
     s.boot.power = .testing ∧ s.boot.bistGroup ≠ 9 ∧ s.keeper.source = false) ∧
    bistGroupOf 5 8 = 1 ∧ (groupBlocks 1).contains (5, 8) = true ∧ validRef (ledgerRef 5 0x0D 8) = true ∧ (dev.ledRec (ledgerRef 5 0x0D 8)).state < 2 ∧ (1 : Word) ≠ (dev.ledRec (ledgerRef 5 0x0D 8)).bistFact ∧ (dev.setBoot { dev.boot with power := .quiescing }).boot.power = .quiescing ∧ ({ dev.boot with power := .testing, bistGroup := 9 } : Boot).bistGroup = 9 := by
  unfold MemoryOk; decide +kernel

theorem hyp_ImageLoads :
    (let s := dev.setKeeper { dev.keeper with started := true }
     s.keeper.started = true ∧ s.boot.idle = true ∧ s.loadRunning = false ∧ s.disarmed = true ∧ s.tooHot = false ∧
     (s.setBoot { s.boot with power := .loading }).loadRunning = true ∧ (s.setBoot { s.boot with power := .loading }).boot.idle = true) ∧
    (let s := ((dev.setHost { dev.host with mailbox := some 2 }).setReg pcieDA pgPci 0x074 4096).setReg pcieDA pgPci 0x080 1
     s.host.mailbox = some 2 ∧ s.loadRunning = false ∧ (s.mbxWord 0 + 2 ^ 32 * s.mbxWord 1) % 4096 = 0 ∧ s.mbxWord 3 < 2) ∧
    (∀ n ∈ [1, 2, 3, 4, 7, 8, 5], (dev.setImg n).imgState = n) ∧ (dev.setImg 1).deadPll = none ∧
    (dev.setImg 1).passOneErr none = some (0x04, 0) ∧
    (let g : SegEnt := { typ := 5, die := 0, unit := 0, variant := 0, dakind := false, offset := 1, length := 1, dest := 0, digest := [] }
     (dev.setKeeper { dev.keeper with segs := [g] }).writeImage.readsBack = false) ∧ (dev.setImg 1).stepExpired = false ∧
    (let s := dev.setImg 1; (s.setBoot { s.boot with time := s.boot.time + 3500000000 }).stepExpired = true) ∧
    (let s := fun (n : Nat) => { dev.setImg 3 with chans := (List.range 12).map fun ch => (ch, { step := n }) }
     (∀ n ∈ [1, 2, 3], (s n).imgState = 3 ∧ (s n).stepExpired = false) ∧ (s 1).channelsAt 1 ≠ [] ∧ (s 2).channelsAt 1 = [] ∧ (s 2).channelsAt 2 ≠ [] ∧
     (s 3).channelsAt 1 = [] ∧ (s 3).channelsAt 2 = []) ∧
    (let s := (dev.setKeeper { dev.keeper with source := true, lenUnits := 1, hostAddr := 2 ^ 64 - 4096, writeFlash := true }).setImg 8
     s.imgState = 8 ∧ s.keeper.source = true ∧ s.writeImage.readsBack = true ∧ s.keeper.lenUnits ≤ 393216 ∧ s.keeper.hostAddr + 4096 * s.keeper.lenUnits ≤ 2 ^ 64) ∧
    (let g : SegEnt := { typ := 5, die := 55, unit := 7, variant := 0, dakind := false, offset := 1, length := 96, dest := 2 ^ 20 - 96, digest := [] }
     let s := dev.setKeeper { dev.keeper with reserveLoads := [(55, 56)], segs := [g], configured := [tileDA 56 * 256 + 1] }
     s.keeper.segs = [g] ∧ s.place.coreOf 56 g.unit = some 7 ∧ s.keeper.configured = [tileDA 56 * 256 + 1] ∧
     ((s.payload 0 (s.stored g)).map fun p => decide (g.dest + p.length ≤ 2 ^ 20)) = some true) ∧
    (let s := dev.setKeeper { dev.keeper with reserveLoads := [(55, 56)] }
     (s.keeper.reserveLoads.find? fun x => x.1 == 55) = some (55, 56) ∧ s.place.unjoined.contains (16 * 55) = false) := by
  decide +kernel

/-- The cells that hold bytes from address `a` on. -/
def cells : Nat → List Byte → List Host.Cell
  | _, [] => []
  | a, b :: r => if b = memDefault then cells (a + 1) r else (a, b) :: cells (a + 1) r

/-- A manifest of one segment, in the order of R356, most significant byte first. Its key is 777 · G, its signature one of that
key with the number 991. -/
def imgManifest : List Byte :=
  beBytes 416 0x4b4c484d02000000020b00003c1886010400000001000000001000000000000000000000000000000000000000000000000000000000000000000000000000000000000000000000000000000000000000000000000000000000000000000000046aef41a54eb23638cab6634d2734ccf5d5d4f2acaf1e101699750cca58896f7348731b258d3adbc1a634f3a8a26429f64034f836b2f614f6fe9a6bc4105c876b6655c2e53b4cae503548dc06388505ab713f4e9bd6e2b1fad392af7ce234675a00000000000000000000000000000000000000000000000000000000000000000000000000000000000000000000000000000000000000000000000000000002000000020000000100000000000000c5927fb9ef8e0931cb9b8c06c51b674473d0dc8514fe7a142567f73f9e50103d12cd4701fcc367e9b9ca42f8a70cadd06496a422bd5c8cec6ec5784802cfaaec5726f8cd38c230040973e04e1e15efd58008978f385710bf5a04402e463cf6a82d23d7f3b5763656b02651b7b93cfb9e33c3910c21db6f4240b6f2820ed9a4cf2f6e6ff2b75bbfc07be26ecd2b404802

def imgHeader : List Byte := [0x32484C4B, 2, 2818, 25565244, 4, 1, 416, 1].flatMap fun n => leBytes 4 n

/-- The segment as stored (R359). -/
def imgStored : List Byte := leBytes 4 0 ++ leBytes 4 1 ++ leBytes 4 2 ++ List.replicate 53 0

/-- The image of R355 at host address 0: header, manifest, stored segment. -/
def imgS : State :=
  let a := gAddr .host 0 0
  let s := { dev with mem := cells a imgHeader ++ cells (a + 4096) imgManifest ++ cells (a + 8192) imgStored }
  (s.setKeeper { s.keeper with source := true, hostLen := 4 }).setImg 1

theorem tget_append (l r : Table Byte) (k : Nat) : tget? (l ++ r) k = (tget? l k).orElse fun _ => tget? r k := by
  induction l with
  | nil => rfl
  | cons x l ih =>
    obtain ⟨j, v⟩ := x
    by_cases h : j = k <;> simp [tget?, h, ih]

theorem tget_cells (k : Nat) (bs : List Byte) : ∀ a, k < a ∨ a + bs.length ≤ k → tget? (cells a bs) k = none := by
  induction bs with
  | nil => intro a _; rfl
  | cons b r ih =>
    intro a h
    simp only [List.length_cons] at h
    have hr := ih (a + 1) (by omega)
    have hk : a ≠ k := by omega
    unfold cells
    split <;> simp [tget?, hr, hk]

/-- Bytes 32 to 4,095 of the header are 0. -/
theorem imgS_rest : allZero (imgS.imgBytes 32 4064) = true := by
  simp only [allZero, State.imgBytes, List.all_map, List.all_eq_true, List.mem_range]
  intro i hi
  have h : tget? imgS.mem (gAddr .host 0 (imgS.keeper.hostAddr + (32 + i))) = none := by
    show tget? (cells (gAddr .host 0 0) imgHeader ++ cells (gAddr .host 0 0 + 4096) imgManifest ++
      cells (gAddr .host 0 0 + 8192) imgStored) (gAddr .host 0 0 + (0 + (32 + i))) = none
    have l : imgHeader.length = 32 := by decide +kernel
    rw [tget_append, tget_append, tget_cells _ imgHeader _ (by omega), tget_cells _ imgManifest _ (by omega),
      tget_cells _ imgStored _ (by omega)]
    rfl
  have b : imgS.imgByte (32 + i) = memDefault := by
    show (tget? imgS.mem (gAddr .host 0 (imgS.keeper.hostAddr + (32 + i)))).getD memDefault = memDefault
    rw [h]; rfl
  simp [b, memDefault]

theorem imgS_header : imgS.headerErr = none := by
  simp only [State.headerErr, imgS_rest]
  decide +kernel

def imgSeg : SegEnt :=
  { typ := 2, die := 0, unit := 0, variant := 0, dakind := false, offset := 2, length := 1, dest := 0, digest := beBytes 48
      0xc5927fb9ef8e0931cb9b8c06c51b674473d0dc8514fe7a142567f73f9e50103d12cd4701fcc367e9b9ca42f8a70cadd0 }

theorem imgS_manifest : imgS.manifest = imgManifest := by decide +kernel

theorem imgS_stored : imgS.stored imgSeg = imgStored := by decide +kernel

theorem imgS_signature : imgS.signatureErr imgManifest = none := by decide +kernel

theorem imgS_digest : sha384 imgStored = imgSeg.digest := by decide +kernel

/-- Pass 1 accepts that image; its signature stands also where the read of the segment is short. -/
theorem hyp_ImageLoads_accepted : imgS.imgState = 1 ∧ imgS.deadPll = none ∧ imgS.passOneErr none = none ∧
    imgS.signedErr (some 2) = none ∧ imgS.passOneErr (some 2) = some (0x03, 0) := by
  have h1 : imgS.flashErr = none := by decide +kernel
  have h3 : imgS.manifestErr imgManifest = none := by decide +kernel
  have h4 : imgS.entries imgManifest = [imgSeg] := by decide +kernel
  have h5 : imgS.placeErr [] 0 [imgSeg] = none := by decide +kernel
  have h6 : manInfo imgManifest = 0x1000 := by decide +kernel
  have h8 : decide (imgS.secverMin ≤ bits 0x1000 7 0) = true := by decide +kernel
  have h9 : segHeaderOk false 0 imgSeg (imgStored.take 64) = true := by decide +kernel
  have e1 : bit 0x1000 10 = false := by decide
  have e2 : bit 0x1000 11 = false := by decide
  have c : (imgS.keeper.lifecycle != 1) = true := by decide +kernel
  have k1 : imgS.segsErr false none 0 [imgSeg] = none := by
    unfold State.segsErr
    dsimp only
    rw [imgS_stored, h9, if_neg (by decide), if_neg (by decide), if_neg (by rw [imgS_digest]; simp)]
    rfl
  have s1 : ∀ short, short = none ∨ short = some 2 → imgS.signedErr short = none := by
    intro short h
    unfold State.signedErr
    dsimp only
    rw [imgS_manifest, h1, imgS_header, h3, h4, h5, imgS_signature, h6, e2, h8]
    rcases h with h | h <;> rw [h] <;> rfl
  refine ⟨by decide +kernel, by decide +kernel, ?_, s1 _ (.inr rfl), ?_⟩ <;>
    (unfold State.passOneErr; dsimp only)
  · rw [imgS_manifest, s1 _ (.inl rfl), h4, h6, e1, k1, c]; rfl
  · rw [imgS_manifest, s1 _ (.inr rfl), h4, h6, e1, c]; rfl

theorem hyp_VaultCommands :
    (let s := dev.setKeeper { dev.keeper with started := true, vlt := .opened 0 }
     s.keeper.started = true ∧ s.keeper.vlt = .opened 0 ∧ 1000 ≤ 1000 ∧ s.progOk 8 0xFFFFFFFF = true ∧ s.progOk 2 1 = false ∧
     s.progOk 4 0x20 = true ∧ s.progOk 5 1 = true ∧ s.progOk 5 2 = false) ∧
    (let s := dev.setKeeper { dev.keeper with vlt := .blowing 4 2 }
     s.keeper.vlt = .blowing 4 2 ∧ bit (2 : Word).toNat 1 = true ∧ (2 : Word) ≠ 0) ∧
    bit (dev.fuse 4) 1 = false ∧ (dev.setHost { dev.host with mailbox := some 1 }).host.mailbox = some 1 := by decide +kernel

theorem hyp_StoresFrame : (∃ t, exec .kick (dev.setReg pcieDA pgPci 0x054 1) = .next t) ∧ mayStore .kick = false := ⟨⟨_, rfl⟩, rfl⟩

theorem hyp_UnitsFrame : (∃ t, exec .serviceTickSave dev = .next t) ∧ mayReset .serviceTickSave = false := ⟨⟨_, rfl⟩, rfl⟩


/-! ### Worked examples of the spec. Every expected value stands in the named file of the spec. -/

/-- The retired die T23 after the retirement of its core 4. -/
def t23a : State := (dev.setKeeper { dev.keeper with started := true }).retireCore 23 4

/-- 01_dies_and_address_map.md, two retirements in T23: the map as shipped, then with its spare in use. -/
theorem test_placement_core :
    let s := dev.setKeeper { dev.keeper with started := true }
    let rd := fun (s : State) (o : Nat) => s.regRead keeperDA pgLdg o
    [rd s (0x200 + 8 * 23), rd s (0x204 + 8 * 23), rd s (0x100 + 4 * 23)] = [0x76543210, 0x00000108, 0x00000117] ∧
    [rd t23a (0x200 + 8 * 23), rd t23a (0x204 + 8 * 23), rd t23a 0x0F0] = [0x765E3210, 0x00000104, rd s 0x0F0 + 2] := by
  decide +kernel

/-- The same example: the die is retired and T56 takes its logical die. -/
theorem test_placement_die :
    let s := t23a.retireCore 23 1
    let rd := fun o => s.regRead keeperDA pgLdg o
    [rd (0x100 + 4 * 23), rd (0x200 + 8 * 23), rd (0x204 + 8 * 23), rd (0x200 + 8 * 56), rd (0x204 + 8 * 56)] =
      [0x00000138, 0x765E32E0, 0x00000204, 0x76543210, 0x00000108] ∧
    [hopDist 0x43 0x76, hopDist 0x43 0x77, hopDist 0x43 0x78, hopDist 0x43 0x79] = [6, 7, 8, 9] := by
  decide +kernel

/-- The multiply of the worked layer of 03_matrix_quads.md: S2 at 8 bit, SWAP = 1, M = 96, KLEN = 64, NLEN = 128. -/
def layerMul (aline out : Nat) : MqCmd :=
  let m := mqCmd (2 + 2 ^ 7 + 2 ^ 24 + out * 2 ^ 26) (96 + 64 * 2 ^ 9 + 128 * 2 ^ 18)
  { m with
      w2 := BitVec.ofNat 32 aline, w3 := BitVec.ofNat 32 (2176 + 2048 * 2 ^ 16) }

/-- 03_matrix_quads.md, placing one element: input 150 of query row 10 is element 22 of row 10 of pass 2. -/
theorem test_layer_placement :
    (layerMul 1412 0).geo = some (.int, ⟨64, 128, 1⟩) ∧ (layerMul 1412 0).elemAddr ⟨64, 128, 1⟩ 10 22 = 0xB396 ∧
    arrayBytes 0 1 = 1280 ∧ arrayBytes 2 1 = 2304 := by decide +kernel

/-- 16_mint_and_thermal.md, one layer's charge: a multiply, the one with output rows, a load, and the whole layer. -/
theorem test_layer_charge :
    let load := mqCmd (1 + 15 * 2 ^ 5 + 2 ^ 13) 160
    (layerMul 1024 0).charge = 51584 ∧ (layerMul 1606 1).charge = 51584 + 9216 ∧ load.charge = 1600 ∧
    3 * (layerMul 1024 0).charge + (layerMul 1606 1).charge + 3 * load.charge = 220352 := by decide +kernel

/-- 05_sparsity_and_gating.md, one group of one column: the bytes and codes of row 10 and row 11, column 5. -/
theorem test_sparse_group :
    let img : List Byte := (List.range 1280).map fun i => tget [(325, 0xFD), (357, 0x07), (1105, 0x04), (1113, 0x0C)] i 0
    let p : Plane := { sparse := 1, valid := true, img := img }
    p.weight 10 5 = Machine.Num.ofInt (-3) ∧ p.weight 11 5 = Machine.Num.ofInt 7 ∧ p.selects 10 5 = 21 ∧ p.selects 11 5 = 23 := by decide +kernel

/-- 05_sparsity_and_gating.md, the gate scores of tick A (KMAX 2, θ 0.25): e3 and e5 tie, the NaN is not eligible. -/
theorem test_gate_tick_a :
    let x := fun (n : Nat) => fFp32.decode n
    let sel := gateSelect (x 0x3E800000)
      ([0x3DF5C28F, 0x3E9EB852, 0x7FC00000, 0x3F11EB85, 0x3DA3D70A, 0x3F11EB85, 0x3E4CCCCD, 0x3CA3D70A].map x) 2
    gateMask sel = 0x28 ∧ gateOrder sel = 0x002000A3 := by decide +kernel

/-- The same example, tick B. -/
theorem test_gate_tick_b :
    let x := fun (n : Nat) => fFp32.decode n
    let sel := gateSelect (x 0x3E800000)
      ([0x3D4CCCCD, 0x3DE147AE, 0x3DB851EC, 0x3E0F5C29, 0x3DCCCCCD, 0x3E3851EC, 0x3ECCCCCD, 0x3D8F5C29].map x) 2
    gateMask sel = 0x40 ∧ gateOrder sel = 0x00100006 := by decide +kernel

/-- 04_arithmetic_and_formats.md, a dot product in fixed order: the exact sum is 3.5, the device's is 2. -/
theorem test_dot_product_order :
    let x := fun (n : Nat) => fFp16.decode n
    let act := [0x6C00, 0x3C00, 0x3C00, 0x3C00, 0xEC00, 0x3800, 0, 0]
    let wgt := [0x6C00, 0x3C00, 0x3C00, 0x3C00, 0x6C00, 0x3C00, 0x3C00, 0x3C00]
    let c := MMode.flt.column fun k =>
      if k < 8 then MMode.flt.mul (x (act.getD k 0)) (x (wgt.getD k 0)) else (Machine.Num.zero, 0)
    fFp16.encode .near false 0 c.1 = (0x4000, 0) ∧ c.2 = 0 := by decide +kernel

/-- The same file, a product beyond the output range: v = 4,290,774,016. -/
theorem test_output_conversion :
    let v := Machine.Num.ofInt 4290774016
    let e := fun (f : Nat) (rm : Rnd) (ovm : Bool) => (fmtOf f).map fun t => t.encode rm ovm 0 v
    [e 6 .near false, e 6 .near true, e 6 .zero true] = [some (0x7BFF, flOVF), some (0x7C00, flOVF), some (0x7BFF, flOVF)] ∧
    [e 7 .near false, e 7 .zero false, e 8 .near false, e 4 .near true] =
      [some (0x4F80, 0), some (0x4F7F, 0), some (0x4F7FC004, 0), some (0x7E, flOVF)] := by decide +kernel

/-- The same file, one NaN among ordinary inputs: the canonical NaN of every output format. -/
theorem test_output_nan :
    [6, 7, 5, 4, 8].map (fun f => (fmtOf f).map fun t => t.encode .near false 0 Machine.Num.nan) =
      [some (0x7E00, flNVI), some (0x7FC0, flNVI), some (0x7E, flNVI), some (0x7F, flNVI), some (0x7FC00000, flNVI)] := by
  decide +kernel

/-- The same file, stochastic rounding: the seed, one advance, and 116.748046875 to int8. -/
theorem test_stochastic :
    lfsrSeed 0x13572468 0x100 = 0x13572568 ∧ lfsrNext 0x13572568 = 0x09AB92B4 ∧
    ((fmtOf 0).map fun t => t.encode .stoch false 0x92B4 (.fin false 119550 (-10))) = some (117, 0) := by decide +kernel

/-- 06_core_sequencer.md, a fenced 48-tap filter: the words of the FMA and of the RPB. -/
theorem test_sequencer_words :
    wA 16 10 1 4 (2 ^ 39 + 2 ^ 34 + 2 ^ 10 + 4 * 2 ^ 5) = 0x1050488400000480 ∧ wC 4 0 3 0 0 15 + 2 ^ 46 = 0x840041800000000F ∧
    [iFmt, iOp, iGd, iGs1, iGs2, iXop, iXg, iXa, iXm, iCg, iCa, iCm].map (· 0x1050488400000480) = [0, 16, 10, 1, 4, 1, 1, 0, 0, 4, 0, 0] ∧
    [iFmt, iOp, iLen, iCount].map (· 0x840041800000000F) = [2, 4, 3, 15] ∧ iFence 0x840041800000000F = true := by decide +kernel

/-- The same example: the circular buffer of 192 bytes at 0x40000 wraps after its last sample. -/
theorem test_circular : postMod 0x400B4 4 192 = 0x400B8 ∧ postMod 0x400BC 4 192 = 0x40000 := by decide +kernel

/-- 08_streamers.md, the wavefront of the layer: element (22, 10, 2, 0, 0) of its descriptor. -/
theorem test_wavefront :
    let d := descWords [1 + 2 * 2 ^ 9, 64 + 96 * 2 ^ 16, 4 + 2 ^ 16, 1, 0x00100000, 0xFF * 2 ^ 16, 0x8000, 0, 256, 64, 0, 0, 64, 6208, 0, 0]
    let e := 22 + 64 * (10 + 96 * 2)
    dTuple d e = (22, 10, 2, 0, 0) ∧ dSrc d e = 0x00100A96 ∧ dSigma d 22 = 2 ∧ dDst d e = 0xB396 := by decide +kernel

/-- 08_streamers.md, a page fault in a wear-model input: the completion record, but for its tick. -/
theorem test_completion_record :
    let d := descWords [2 + 2 ^ 6 + 2 ^ 11 + 2 ^ 14, 64 + 48 * 2 ^ 16, 4 + 2 ^ 16, 1, 0xA01E0000, 7 + 0xFF * 2 ^ 16, 0x30000, 0, 4096, 0x40000,
      0, 0, 128, 6144, 0, 0]
    let r := dev.strRecord { cls := 2, src := .sis, index := 1030, desc := d, gateOpen := true, cursor := some 2048, xf := true,
                             pgrans := List.range 640 }
    [0, 1, 2, 3, 4, 5, 7].map (fun i => word32At r (4 * i)) = [0x6, 0x800, 0x280, 0x00200000, 0, 0, 0x00020406] := by decide +kernel

/-- 10_memory_channels.md: the channel and the channel-local address of 0x456789AC40 at a grain of 1 KiB. -/
theorem test_interleave :
    let s := dev.setReg (memoryDA 0) 0xC0 0x048 2
    s.channelOf 0x456789AC40 = 7 ∧ s.localAddr 0x456789AC40 = 0x5C8A0CC40 := by decide +kernel

/-- 14_image_and_vault.md: the flash device and address of image bytes. -/
theorem test_flash_place : flashPlace 0x1F400000 = (0, 0x07D00000) ∧ flashPlace 0x1F400345 = (3, 0x07D00045) := by decide

/-- 16_mint_and_thermal.md, a coin budget at 64 kHz: I, S and X_F, the lowest limit, the boost. -/
theorem test_coin_budget :
    let s := ((((dev.setReg pacerDA pgTkc 0x040 21875).setReg pacerDA pgMnt 0x040 800).setReg pacerDA pgMnt 0x044 180).setReg
      pacerDA pgMnt 0x048 60).setReg pacerDA pgMnt 0x04C 9
    s.budget * 21875 / 1400 = 12500 ∧ ceilDiv (s.staticW * 21875) 1400 = 2813 ∧ ceilDiv (s.fixedW * 21875) 1400 = 938 ∧
    (s.setReg pacerDA pgMnt 0x064 4650).limitMin = 570 ∧ s.fullBoost 800 = 5468 ∧ s.quanta = 16 := by decide +kernel

/-- 18_register_pages.md, identifying a page: the MQ page of core 4 of T23. -/
theorem test_page_identity :
    dev.regRead 0x43 0x51 0x000 = 0x00430403 ∧ dev.regRead 0x43 0x51 0x004 = 0x00000200 ∧
    dev.regRead 0x43 0x51 0x024 = 0x43010010 := by decide +kernel

/-- 09_package_network.md: the links of both routes from T02 to T00, and that they share no router but their ends. -/
theorem test_routes :
    routeLinks 2 0x22 0xA = [19, 18] ∧ (routeLinks 4 0x22 0xE9).length = 4 ∧ (routeLinks 4 0x22 0xE9).contains 18 = false ∧
    startRoute 0x22 0x20 = (2, 0xA) := by decide

/-- 07_rolls_and_tasks.md, a steal within T07: request, reply and the words of a stolen task. -/
theorem test_steal_words :
    word32At (stealRequestData 7 2 4 0 0xA2) 0 = 0x00040207 ∧
    (let k : Task := { w0 := 0x000A4C00, w1 := 0, w2 := 0, w3 := 0, w4 := 0, w5 := 0, w6 := 0, w7 := 0 }
     word32At (stealReplyData 7 5 [k, k, k] 0xA2) 0 = 0x00030507 ∧ (stealReplyData 7 5 [k, k, k] 0xA2).length = 128 ∧
     (k.stolenFrom 7 5).w0 = 0x002A4C00 ∧ (k.stolenFrom 7 5).w3 = 0x00050700) := by decide +kernel

/-- 13_host_and_plant_links.md, a revocation: the words of its entry. -/
theorem test_revocation_entry :
    let s := (dev.setPacer { dev.pacer with tick := 0x100000105 }).revoke 12 6 0x1000000F8 1
    s.host.held.map (fun e => (List.range 8).map fun i => word32At (e.bytes true 2) (4 * i)) =
      [[0x060C0105, 0x00000105, 0x000000F8, 0x0001000E, 1, 0, 0, 0]] := by decide +kernel

/-- 11_logic_fabric.md, swapping a capture variant: FAB_PR_TIME of 1,552 + 4 + 64 cycles and 573,440 ns of loading. -/
theorem test_pr_time : prTime (1552 + loadCycles 3670016 + 4 + 64) = 574597 := by decide

/-- 15_audit_and_ledger.md and 17_power_up_and_shutdown.md: two LEDGER_REF values. -/
theorem test_ledger_refs : ledgerRef 0x21 0x02 1 = 0x21020001 ∧ ledgerRef 0x80 0x0D 9 = 0x800D0009 := by decide

/-- 12_drive_edge.md, one axis at 64 kHz: the record entry of generator 15. -/
theorem test_pwm_entry :
    ((dev.applyGen 0 15 0x00019A28 0x0003BD08).gen 0 15).pending = some (105000, 245000, 0) := by decide +kernel

/-- The same example: TI3 of E0 trips SG1 in local cycle 77 of a tick. -/
theorem test_trip_info :
    let s := ((ticking 77).setReg 0 pgEdg 0x0C4 8).setReg 0 pgEdg 0x10C 0
    let s := s.setEdge 0 { s.edge 0 with tripped := 0 }
    (match execTripInput 0 3 s with
     | .next t => [t.regRead 0x00 pgEdg 0x048, bits (t.regRead 0x00 pgEdg 0x040) 1 1, t.regRead 0x00 pgEdg 0x014 % 2]
     | _ => []) = [0x00000301 + 77 * 2 ^ 16, 1, 1] := by decide +kernel

/-- 11_logic_fabric.md, swapping a capture variant: the response bound of a port with RESP = 10 at 350 MHz from PLLA. -/
theorem test_port_response :
    let s := (dev.setReg (fabricDA 2) pgFabDie 0x044 350).setReg (fabricDA 2) (pgFab 5) 0x04C (1 + 1 * 4) 0
    8 + s.trackCycles 2 5 0 (10 + 6) = 72 := by decide +kernel

/-- 14_image_and_vault.md: IMG_ERR of segment 1,904 with code 0x13. -/
theorem test_img_err : (dev.refuseImage 0x13 1904).regRead keeperDA pgImg 0x048 = 0x00077013 := by decide +kernel

end Sys2Proof.Tests
end

section
/-! PROOFS. What the host's accesses to a register page do (R7, R26 to R30, R449, R457). -/

namespace Sys2Proof.Machine

section
variable (s : State)

/-! ### Bits -/

theorem bit_eq_testBit (w n : Nat) : bit w n = w.testBit n := by
  rw [bit, Nat.testBit_eq_decide_div_mod_eq]
  rfl

theorem bit_mod_two_pow {w m n : Nat} (h : n < m) : bit (w % 2 ^ m) n = bit w n := by
  simp [bit_eq_testBit, Nat.testBit_mod_two_pow, h]

theorem bit_succ (w n : Nat) : bit w (n + 1) = bit (w / 2) n := by
  simp [bit, Nat.div_div_eq_div_mul, Nat.pow_succ']

/-- Taking from a number the bits it shares with `w` leaves those that `w` does not have. -/
theorem bit_sub_and (x w n : Nat) : bit (x - (x &&& w)) n = (bit x n && !bit w n) := by
  induction n generalizing x w with
  | zero =>
    have hle : x &&& w ≤ x := Nat.and_le_left
    have hodd := Nat.and_mod_two_eq_one (a := x) (b := w)
    rw [Bool.eq_iff_iff]
    simp only [bit, Nat.pow_zero, Nat.div_one, beq_iff_eq, Bool.and_eq_true, Bool.not_eq_true', beq_eq_false_iff_ne]
    omega
  | succ n ih =>
    have hhalf : (x - (x &&& w)) / 2 = x / 2 - (x / 2 &&& w / 2) := by
      have hle : x &&& w ≤ x := Nat.and_le_left
      have hodd := Nat.and_mod_two_eq_one (a := x) (b := w)
      rw [← Nat.and_div_two]
      omega
    rw [bit_succ, bit_succ, bit_succ, hhalf, ih]

theorem bit_clrBit_self (w n : Nat) : bit (clrBit w n) n = false := by
  unfold clrBit
  split
  next h =>
    have hdiv : (w - 2 ^ n) / 2 ^ n = w / 2 ^ n - 1 := by simpa using Nat.sub_mul_div w (2 ^ n) 1
    simp only [bit, beq_iff_eq, beq_eq_false_iff_ne, hdiv] at h ⊢
    omega
  next h => simpa using h

/-- Setting or clearing EN of a CTRL word leaves LOCK. -/
theorem bit_two_setBit_zero (w : Nat) : bit (setBit w 0) 2 = bit w 2 := by
  unfold setBit
  split
  · rfl
  next h => simp only [bit, beq_iff_eq] at h ⊢; congr 1; omega

theorem bit_two_clrBit_zero (w : Nat) : bit (clrBit w 0) 2 = bit w 2 := by
  unfold clrBit
  split
  next h => simp only [bit, beq_iff_eq] at h ⊢; congr 1; omega
  · rfl

theorem bits_lo_zero (w k : Nat) : bits w k 0 = w % 2 ^ (k + 1) := by
  simp [bits]

theorem bit_putBits_lo_zero (w v : Nat) {k n : Nat} (h : n ≤ k) : bit (putBits w k 0 v) n = bit v n := by
  have hlow : putBits w k 0 v % 2 ^ (k + 1) = v % 2 ^ (k + 1) := by
    have hclear : (w - w % 2 ^ (k + 1)) % 2 ^ (k + 1) = 0 := Nat.sub_mod_eq_zero_of_mod_eq (Nat.mod_mod ..).symm
    simp [putBits, bits_lo_zero, Nat.add_mod, hclear]
  rw [← bit_mod_two_pow (Nat.lt_succ_of_le h), hlow, bit_mod_two_pow (Nat.lt_succ_of_le h)]

/-- A W1C field in the low bits: a written 1 clears (R7). -/
theorem bit_fieldWrite_w1c (b : Blk) (off : Nat) (locked : Bool) (v old : Nat) {k n : Nat} (h : n ≤ k) :
    bit (fieldWrite b off locked v old (w1c k 0)) n = (bit old n && !bit v n) := by
  have hk : n < k + 1 := Nat.lt_succ_of_le h
  show bit (putBits old k 0 (bits old k 0 - (bits old k 0 &&& bits v k 0))) n = _
  rw [bit_putBits_lo_zero _ _ h, bit_sub_and, bits_lo_zero, bits_lo_zero, bit_mod_two_pow hk, bit_mod_two_pow hk]

theorem bit_w1cBits (s : State) (key v n : Nat) (hn : n < 32) (h : s.freshBits key < 2 ^ 32) :
    bit (s.w1cBits key v) n = (bit v n && !bit (s.freshBits key) n) := by
  have hnot : bit (2 ^ 32 - 1 - s.freshBits key) n = !bit (s.freshBits key) n := by
    rw [Nat.sub_sub, Nat.add_comm, bit_eq_testBit, bit_eq_testBit, Nat.testBit_two_pow_sub_succ h]
    simp [hn]
  simp only [State.w1cBits, bit_eq_testBit, Nat.testBit_and] at hnot ⊢
  rw [hnot, ← bit_eq_testBit, bit_mod_two_pow hn, bit_eq_testBit]

/-! ### Registers -/

theorem State.reg_lt (da page off i : Nat) : s.reg da page off i < 2 ^ 32 := BitVec.isLt _

theorem reg_of_regs {s t : State} (h : t.regs = s.regs) (da page off i : Nat) : t.reg da page off i = s.reg da page off i := by
  simp [State.reg, h]

theorem setReg_reg_word {da page off v i : Nat} (h : v < 2 ^ 32) : (s.setReg da page off v i).reg da page off i = v := by
  rw [State.setReg_reg_self, Nat.mod_eq_of_lt h]

theorem setReg_reg_of_off_ne (da page off v i da' page' off' i' : Nat) (ho : off < 4096) (hi : i < 4096)
    (ho' : off' < 4096) (hi' : i' < 4096) (h : off' ≠ off) :
    (s.setReg da page off v i).reg da' page' off' i' = s.reg da' page' off' i' :=
  State.setReg_reg_ne _ _ _ _ _ _ _ _ _ _ (by unfold regKey; omega)

theorem setReg_reg_of_die_ne (da page off v i da' page' off' i' : Nat) (hp : page < 256) (ho : off < 4096) (hi : i < 4096)
    (hp' : page' < 256) (ho' : off' < 4096) (hi' : i' < 4096) (h : da' ≠ da) :
    (s.setReg da page off v i).reg da' page' off' i' = s.reg da' page' off' i' :=
  State.setReg_reg_ne _ _ _ _ _ _ _ _ _ _ fun e => h (regKey_inj hp' ho' hi' hp ho hi e).1

@[simp] theorem markFresh_regs (key n : Nat) : (s.markFresh key n).regs = s.regs := by
  unfold State.markFresh
  split <;> rfl

@[simp] theorem markHost_regs (key : Nat) : (s.markHost key).regs = s.regs := by
  unfold State.markHost
  split <;> rfl

/-- `flag` writes FAULT and EVENT_COUNT only. -/
theorem flag_reg_of_off_ne (da page n da' page' off i : Nat) (ho : off < 4096) (hi : i < 4096)
    (h1 : off ≠ 0x014) (h2 : off ≠ 0x020) :
    (s.flag da page n).reg da' page' off i = s.reg da' page' off i := by
  rw [State.flag, reg_of_regs (markFresh_regs ..), State.incReg,
    setReg_reg_of_off_ne _ _ _ _ _ _ _ _ _ _ (by decide) (by decide) ho hi h2,
    setReg_reg_of_off_ne _ _ _ _ _ _ _ _ _ _ (by decide) (by decide) ho hi h1]

theorem flag_reg_of_die_ne {da page n da' page' off i : Nat} (hp : page < 256) (hp' : page' < 256)
    (ho : off < 4096) (hi : i < 4096) (h : da' ≠ da) :
    (s.flag da page n).reg da' page' off i = s.reg da' page' off i := by
  rw [State.flag, reg_of_regs (markFresh_regs ..), State.incReg,
    setReg_reg_of_die_ne _ _ _ _ _ _ _ _ _ _ hp (by decide) (by decide) hp' ho hi h,
    setReg_reg_of_die_ne _ _ _ _ _ _ _ _ _ _ hp (by decide) (by decide) hp' ho hi h]

/-! ### The header -/

/-- The reset of a block's state (R449) leaves the register file. -/
theorem resetBlock_regs (b : Blk) (da page : Nat) : (s.resetBlock b da page).regs = s.regs := by
  cases b <;> rfl

theorem tget_filter_of_keeps {α : Type} (p : Nat × α → Bool) (t : Table α) (k : Nat) (d : α) (h : ∀ v, p (k, v) = true) :
    tget (t.filter p) k d = tget t k d := by
  have hget : tget? (t.filter p) k = tget? t k := by
    induction t with
    | nil => rfl
    | cons x r ih =>
      obtain ⟨j, v⟩ := x
      by_cases e : j = k
      · subst e; simp [h, tget?]
      · by_cases hp : p (j, v) = true <;> simp [hp, tget?, e, ih]
  simp [tget, hget]

theorem tget_filter_of_drops {α : Type} (p : Nat × α → Bool) (t : Table α) (k : Nat) (d : α) (h : ∀ v, p (k, v) = false) :
    tget (t.filter p) k d = d := by
  have hget : tget? (t.filter p) k = none := by
    induction t with
    | nil => rfl
    | cons x r ih =>
      obtain ⟨j, v⟩ := x
      by_cases hp : p (j, v) = true
      · have e : j ≠ k := by rintro rfl; simp [h] at hp
        simp [hp, tget?, e, ih]
      · simpa [hp] using ih
  simp [tget, hget]

/-- SRST does nothing to a locked page, or while the tick is not disarmed (R449). -/
theorem softReset_of_locked_or_armed {da page : Nat} (h : bit (s.reg da page 0x00C) 2 = true ∨ s.disarmed = false) :
    s.softReset da page = s := by
  unfold State.softReset
  split
  · rfl
  · rcases h with h | h <;> simp [h]

/-- The registers after a soft reset that is taken. -/
theorem softReset_regs {da page : Nat} {b : Blk} (hb : blkAt da page = some b)
    (h : bit (s.reg da page 0x00C) 2 = false) (hd : s.disarmed = true) :
    (s.softReset da page).regs = s.regs.filter fun x =>
      x.1 / 2 ^ 24 != da * 256 + page || decide (x.1 / 2 ^ 12 % 2 ^ 12 < 0x040) := by
  simp [State.softReset, hb, h, hd, resetBlock_regs]

theorem softReset_reg_header (da page off i : Nat) (ho : off < 0x040) (hi : i < 4096) :
    (s.softReset da page).reg da page off i = s.reg da page off i := by
  cases hb : blkAt da page with
  | none => simp [State.softReset, hb]
  | some b =>
    by_cases h : bit (s.reg da page 0x00C) 2 = true ∨ s.disarmed = false
    · rw [softReset_of_locked_or_armed s h]
    · simp only [not_or, Bool.not_eq_true, Bool.not_eq_false] at h
      have hoff : regKey da page off i / 2 ^ 12 % 2 ^ 12 = off := by unfold regKey; omega
      simp only [State.reg, softReset_regs s hb h.1 h.2]
      rw [tget_filter_of_keeps _ _ _ _ fun v => by rw [hoff]; simp [ho]]

theorem softReset_reg_block {da page off i : Nat} {b : Blk} (hb : blkAt da page = some b) (h : bit (s.reg da page 0x00C) 2 = false)
    (hd : s.disarmed = true) (hlo : 0x040 ≤ off) (ho : off < 4096) (hi : i < 4096) :
    (s.softReset da page).reg da page off i = (regReset da page off).toNat := by
  have hpage : regKey da page off i / 2 ^ 24 = da * 256 + page := by unfold regKey; omega
  have hoff : regKey da page off i / 2 ^ 12 % 2 ^ 12 = off := by unfold regKey; omega
  rw [State.reg, softReset_regs s hb h hd, tget_filter_of_drops _ _ _ _ fun v => by rw [hpage, hoff]; simp [hlo]]

/-- A write of the host to CTRL leaves LOCK: only the Keeper sets it (R452). -/
theorem ctrlWrite_lock (b : Blk) (da page v : Nat) :
    bit ((s.ctrlWrite b da page v false).reg da page 0x00C) 2 = bit (s.reg da page 0x00C) 2 := by
  have hen : ∀ s : State, bit ((s.setReg da page 0x00C
      (if bit v 0 then setBit (s.reg da page 0x00C) 0 else clrBit (s.reg da page 0x00C) 0)).reg da page 0x00C) 2 =
        bit (s.reg da page 0x00C) 2 := fun s => by
    rw [State.setReg_reg_self, bit_mod_two_pow (by decide)]
    split
    · exact bit_two_setBit_zero _
    · exact bit_two_clrBit_zero _
  have hreset : ∀ (c : Bool) (s : State), (if c then s.resetBlock b da page else s).reg da page 0x00C = s.reg da page 0x00C := by
    rintro (_ | _) s
    · rfl
    · exact reg_of_regs (resetBlock_regs ..) ..
  have hsoft : ∀ (c : Bool) (s : State), (if c then s.softReset da page else s).reg da page 0x00C = s.reg da page 0x00C := by
    rintro (_ | _) s
    · rfl
    · exact softReset_reg_header s _ _ _ _ (by decide) (by decide)
  simp only [State.ctrlWrite, Bool.false_and, Bool.false_eq_true, ite_false]
  rw [hsoft, hreset]
  split
  · exact hen s
  · rfl

theorem disturb_regs (t c w i : Nat) : (s.disturb t c w i).regs = s.regs := by
  unfold State.disturb
  dsimp only
  split
  · rfl
  · split
    · rfl
    · split <;> rfl

theorem hitLine_reg_of_off_ne (t c l da page off i : Nat) (ho : off < 4096) (hi : i < 4096) (h : off ≠ 0x01C) :
    (s.hitLine t c l).reg da page off i = s.reg da page off i := by
  unfold State.hitLine
  dsimp only
  split
  · rw [reg_of_regs (disturb_regs ..)]
    exact setReg_reg_of_off_ne _ _ _ _ _ _ _ _ _ _ (by decide) (by decide) ho hi h
  · exact setReg_reg_of_off_ne _ _ _ _ _ _ _ _ _ _ (by decide) (by decide) ho hi h

/-- Arming an injection (R82) may disarm it again: it writes FAULT_INJECT only. -/
theorem armNow_reg_of_off_ne (t c da page off i : Nat) (ho : off < 4096) (hi : i < 4096) (h : off ≠ 0x01C) :
    (s.armNow t c).reg da page off i = s.reg da page off i := by
  unfold State.armNow
  split
  · split
    · rfl
    · exact hitLine_reg_of_off_ne s _ _ _ _ _ _ _ ho hi h
  · rfl

/-- A write to the header but for CTRL writes its own register only. -/
theorem headerWrite_reg_of_off_ne (b : Blk) (da page off v off' : Nat) (k : Bool) (hc : off ≠ 0x00C) (ho : off < 0x040)
    (ho' : off' < 4096) (h : off' ≠ off) :
    (s.headerWrite b da page off v k).reg da page off' = s.reg da page off' := by
  have hset : ∀ (s : State) v, (s.setReg da page off v).reg da page off' = s.reg da page off' := fun s v =>
    setReg_reg_of_off_ne _ _ _ _ _ _ _ _ _ _ (by omega) (by decide) ho' (by decide) h
  unfold State.headerWrite
  split
  · exact absurd rfl hc
  · exact hset ..
  · exact hset ..
  · split
    · rw [reg_of_regs (markHost_regs ..)]
      split
      · rw [armNow_reg_of_off_ne _ _ _ _ _ _ _ ho' (by decide) h, hset]
      · exact hset ..
    · rfl
  · rfl

theorem headerWrite_lock (b : Blk) (da page off v : Nat) (ho : off < 0x040) :
    bit ((s.headerWrite b da page off v false).reg da page 0x00C) 2 = bit (s.reg da page 0x00C) 2 := by
  by_cases h : off = 0x00C
  · subst h
    exact ctrlWrite_lock s b da page v
  · rw [headerWrite_reg_of_off_ne s _ _ _ _ _ _ _ h ho (by decide) (Ne.symm h)]

/-- A write to FAULT (R9, R449). -/
theorem headerWrite_fault (b : Blk) (da page n : Nat) (v : Nat) (k : Bool) (hn : n < b.faultBits)
    (hf : s.freshBits (regKey da page 0x014 0) < 2 ^ 32) :
    bit ((s.headerWrite b da page 0x014 v k).reg da page 0x014) n =
      (bit (s.reg da page 0x014) n && !(bit v n && !bit (s.freshBits (regKey da page 0x014 0)) n)) := by
  have hbits : b.faultBits ≤ 32 := by cases b <;> decide
  have hfields : headerFields b 0x014 = [w1c (b.faultBits - 1) 0] := by
    simp [headerFields, show b.faultBits ≠ 0 by omega]
  simp only [State.headerWrite, hfields, List.foldl_cons, List.foldl_nil, State.setReg_reg_self]
  rw [bit_mod_two_pow (by omega), bit_fieldWrite_w1c _ _ _ _ _ (by omega), bit_w1cBits s _ _ _ (by omega) hf]

/-! ### The way of an access -/

theorem hasRoute_of_reached {da : Nat} (h : s.reached da = true) : s.hasRoute da = true := by
  obtain ⟨hup, -⟩ := Bool.and_eq_true_iff.mp h
  unfold State.pathUp at hup
  unfold State.hasRoute
  split at hup
  next r hr => simp [hr]
  next =>
    have heq : pcieDA = da := by simpa using hup
    simp [heq]

/-- Reaching a die rests on the state of the network only. -/
theorem reached_of_net {s t : State} (h : t.net = s.net) (da : Nat) : t.reached da = s.reached da := by
  simp only [State.reached, State.pathUp, State.routeTo, State.routeWords, h]

theorem retired_of_keeper {s t : State} (h : t.keeper = s.keeper) (da page : Nat) : t.retired da page = s.retired da page := by
  simp only [State.retired, State.place, h]

/-- Only a page of a tile die retires (R30). -/
theorem ne_pcieDA_of_retired {da page : Nat} (h : s.retired da page = true) : da ≠ pcieDA := by
  rintro rfl
  exact absurd h Bool.false_ne_true

theorem ne_broadcast_of_blkAt {da page : Nat} {b : Blk} (h : blkAt da page = some b) : da ≠ 0xF0 := by
  rintro rfl
  exact absurd (show none = some b from h) (by simp)

/-- A populated page of a die that answers and that E6 reaches. -/
structure AtPage (s : State) (da page : Nat) (b : Blk) : Prop where
  answers : s.answers = true
  reached : s.reached da = true
  da_lt : da < 256
  page_lt : page < 256
  blk : blkAt da page = some b

section
variable {s} {da page : Nat} {b : Blk}

theorem AtPage.in_range (h : AtPage s da page b) {off : Nat} (ho : off < 4096) : ¬(256 ≤ da ∨ 256 ≤ page ∨ 4096 ≤ off) := by
  have hda := h.da_lt
  have hpage := h.page_lt
  omega

theorem AtPage.barAccess (h : AtPage s da page b) {off : Nat} (ho : off < 4096) (ha : off % 4 = 0) (body : Blk → State → State) :
    s.barAccess da page off body = body b s := by
  simp [State.barAccess, h.answers, h.blk, hasRoute_of_reached s h.reached, h.reached, ha, h.in_range ho]

/-- An access reaches the page, or its offset names no word of it: one that is not aligned sets a FAULT bit of E6. -/
theorem AtPage.barAccess_cases (h : AtPage s da page b) (off : Nat) (body : Blk → State → State) :
    s.barAccess da page off body = body b s ∨ s.barAccess da page off body = s ∨
      s.barAccess da page off body = s.flag pcieDA pgPci 0 := by
  by_cases ho : off < 4096
  · by_cases ha : off % 4 = 0
    · exact .inl (h.barAccess ho ha body)
    · exact .inr (.inr (by simp [State.barAccess, h.answers, ha, h.in_range ho]))
  · exact .inr (.inl (by simp [State.barAccess, Nat.le_of_not_lt ho]))

theorem AtPage.exec_registerWrite (h : AtPage s da page b) (off : Nat) (v : Word) :
    exec (.registerWrite da page off v) s = .next (s.barAccess da page off fun _ s => s.pageWrite da page off v.toNat pcieDA 0) := by
  have hda := ne_broadcast_of_blkAt h.blk
  show execRegisterWrite da page off v s = _
  simp [execRegisterWrite, hda]
end

/-! ### Writes to the header -/

theorem maxCleared_header (b : Blk) {off : Nat} (ho : off < 0x040) : maxCleared b off = none := by
  unfold maxCleared
  split
  case h_7 => rfl
  all_goals omega

/-- No register of the header commands an action. -/
theorem commandWrite_header (b : Blk) (da page off v src sport : Nat) (ho : off < 0x040) :
    s.commandWrite b da page off v src sport = none := by
  unfold State.commandWrite
  split
  case h_15 => simp [maxCleared_header b ho]
  all_goals omega

theorem pageWrite_header {da page : Nat} {b : Blk} (hb : blkAt da page = some b) {off : Nat} (v src sport : Nat)
    (ho : off < 0x040) (hr : s.retired da page = false ∨ off = 0x014) :
    s.pageWrite da page off v src sport = s.headerWrite b da page off (v % 2 ^ 32) false := by
  have hret : (s.retired da page && off != 0x014) = false := by rcases hr with h | h <;> simp [h]
  have hsrc : off ≠ 0x050 := by omega
  simp [State.pageWrite, State.regWrite, hb, hret, commandWrite_header, ho, hsrc]

theorem pageWrite_of_retired {da page off : Nat} (v src sport : Nat) (hr : s.retired da page = true) (ho : off ≠ 0x014) :
    s.pageWrite da page off v src sport = s := by
  unfold State.pageWrite
  split
  · rfl
  · simp [hr, ho]

theorem pageWrite_faultMask {da page : Nat} {b : Blk} (hb : blkAt da page = some b) (v : Word) (src sport : Nat)
    (hr : s.retired da page = false) :
    s.pageWrite da page 0x018 v.toNat src sport = s.setReg da page 0x018 v.toNat := by
  rw [pageWrite_header s hb _ _ _ (by decide) (.inl hr), Nat.mod_eq_of_lt v.isLt]
  rfl

end

/-! ### Broadcasts -/

/-- What another die's part of a broadcast leaves: the network, the Keeper, and FAULT_MASK of the page. -/
structure KeepsMask (s t : State) (da page : Nat) : Prop where
  net : t.net = s.net
  keeper : t.keeper = s.keeper
  mask : t.reg da page 0x018 = s.reg da page 0x018

section
variable {s t u : State} {da page : Nat}

theorem KeepsMask.refl (s : State) (da page : Nat) : KeepsMask s s da page := ⟨rfl, rfl, rfl⟩

theorem KeepsMask.trans (h : KeepsMask s t da page) (k : KeepsMask t u da page) : KeepsMask s u da page :=
  ⟨k.net.trans h.net, k.keeper.trans h.keeper, k.mask.trans h.mask⟩

theorem setReg_keepsMask (s : State) (da page da' page' off v : Nat) (ho : off < 4096) (h : off ≠ 0x018) :
    KeepsMask s (s.setReg da' page' off v) da page :=
  ⟨rfl, rfl, setReg_reg_of_off_ne _ _ _ _ _ _ _ _ _ _ ho (by decide) (by decide) (by decide) (Ne.symm h)⟩

theorem markFresh_keepsMask (s : State) (key n da page : Nat) : KeepsMask s (s.markFresh key n) da page := by
  unfold State.markFresh
  split <;> exact ⟨rfl, rfl, rfl⟩

theorem flag_keepsMask (s : State) (da page da' page' n : Nat) : KeepsMask s (s.flag da' page' n) da page :=
  ((setReg_keepsMask s _ _ _ _ _ _ (by decide) (by decide)).trans
    (setReg_keepsMask _ _ _ _ _ _ _ (by decide) (by decide))).trans (markFresh_keepsMask ..)

theorem barErr_keepsMask (s : State) (da page d p st : Nat) : KeepsMask s (s.barErr d p st) da page := by
  unfold State.barErr
  split
  · exact .refl ..
  · exact setReg_keepsMask _ _ _ _ _ _ _ (by decide) (by decide)

/-- The failure of a class 2 request is recorded, and no report is sent (R251). -/
theorem niError_keepsMask (s : State) (da page d st : Nat) {p : Packet} (h : ¬p.cls.toNat < 2) :
    KeepsMask s (s.niError d p st) da page := by
  unfold State.niError
  extract_lets old info u
  rw [if_neg fun e => h e.1]
  show KeepsMask s (if bit old 31 = true then s else s.setReg d pgNi 0x060 info) da page
  split
  · exact .refl ..
  · exact setReg_keepsMask _ _ _ _ _ _ _ (by decide) (by decide)

/-- An access of BAR0 is of class 2. -/
theorem barPkt_cls (d : Nat) : (barPkt d).cls = 2 := rfl

theorem broadcastFails_keepsMask (s : State) (da page d p st : Nat) : KeepsMask s (s.broadcastFails d p st) da page := by
  have hnote : KeepsMask s (if st = 1 then (s.flag pcieDA pgNi 0).incReg pcieDA pgNi 0x064
      else if st = 2 then s.flag pcieDA pgNi 1 else s) da page := by
    split
    · exact (flag_keepsMask ..).trans (setReg_keepsMask _ _ _ _ _ _ _ (by decide) (by decide))
    · split
      · exact flag_keepsMask ..
      · exact .refl ..
  exact ((hnote.trans (niError_keepsMask _ _ _ _ _ (by rw [barPkt_cls]; decide))).trans (barErr_keepsMask ..)).trans (flag_keepsMask ..)

/-- A write to FAULT_MASK of another die. -/
theorem pageWrite_keepsMask (s : State) {d : Nat} (v : Word) (src sport : Nat) (hp : page < 256) (h : d ≠ da) :
    KeepsMask s (s.pageWrite d page 0x018 v.toNat src sport) da page := by
  cases hr : s.retired d page with
  | true => rw [pageWrite_of_retired s _ _ _ hr (by decide)]; exact .refl ..
  | false =>
    cases hb : blkAt d page with
    | none => simpa [State.pageWrite, hb] using .refl ..
    | some b =>
      rw [pageWrite_faultMask s hb v _ _ hr]
      exact ⟨rfl, rfl, setReg_reg_of_die_ne _ _ _ _ _ _ _ _ _ _ hp (by decide) (by decide) hp (by decide) (by decide) h.symm⟩

theorem broadcastOne_keepsMask (s : State) {d : Nat} (v : Word) (hp : page < 256) (h : d ≠ da) :
    KeepsMask s (s.broadcastOne page 0x018 v.toNat [] d) da page := by
  unfold State.broadcastOne
  split
  · exact broadcastFails_keepsMask ..
  · exact pageWrite_keepsMask s v _ _ hp h

theorem broadcastOne_self (s : State) {b : Blk} (v : Word) (hb : blkAt da page = some b) (hr : s.retired da page = false)
    (hd : s.reached da = true) :
    s.broadcastOne page 0x018 v.toNat [] da = s.setReg da page 0x018 v.toNat := by
  simp [State.broadcastOne, hasRoute_of_reached s hd, hd, pageWrite_faultMask s hb v _ _ hr]

/-- A broadcast over the dies `ds` to FAULT_MASK stores the word at each of them that E6 reaches and whose page is not retired. -/
theorem foldl_broadcastOne_mask (s : State) {b : Blk} (v : Word) (ds : List Nat) (hb : blkAt da page = some b) (hp : page < 256)
    (hr : s.retired da page = false) (hd : s.reached da = true) (hin : da ∈ ds ∨ s.reg da page 0x018 = v.toNat) :
    (ds.foldl (fun s d => s.broadcastOne page 0x018 v.toNat [] d) s).reg da page 0x018 = v.toNat := by
  induction ds generalizing s with
  | nil => simpa using hin
  | cons d ds ih =>
    rw [List.foldl_cons]
    by_cases h : d = da
    · subst h
      rw [broadcastOne_self s v hb hr hd]
      exact ih _ hr hd (.inr (setReg_reg_word s v.isLt))
    · have hk := broadcastOne_keepsMask (da := da) s v hp h
      refine ih _ ((retired_of_keeper hk.keeper ..).trans hr) ((reached_of_net hk.net _).trans hd) ?_
      rw [hk.mask]
      simpa [Ne.symm h] using hin

theorem AtPage.mem_broadcastTargets {b : Blk} (h : AtPage s da page b) (hr : s.retired da page = false) :
    da ∈ s.broadcastTargets page := by
  have hall : da ∈ allDAs := by
    have hkind : ¬(10 ≤ da % 16 ∨ 10 ≤ da / 16) := fun e => by
      have hb := h.blk
      simp [blkAt, dieKind, e] at hb
    exact List.mem_map.mpr ⟨da / 16 * 10 + da % 16, List.mem_range.mpr (by omega), by omega⟩
  exact List.mem_filter.mpr ⟨hall, by simp [h.blk, hr]⟩

theorem AtPage.exec_broadcastWrite {b : Blk} (h : AtPage s da page b) {off : Nat} (v : Word) (failing : List (Nat × Nat))
    (ho : off < 4096) (ha : off % 4 = 0) :
    exec (.broadcastWrite page off v failing) s = .next (s.broadcast page off v.toNat failing) := by
  obtain ⟨-, hin⟩ := not_or.mp (h.in_range ho)
  show execBroadcastWrite page off v failing s = _
  simp [execBroadcastWrite, h.answers, hin, ha]
end

/-! ### Reads and maximum registers -/

theorem maxCleared_bounds {b : Blk} {off v : Nat} (h : maxCleared b off = some v) : off < 4096 ∧ off % 4 = 0 ∧ v < 2 ^ 32 := by
  unfold maxCleared at h
  split at h <;> cases h <;> exact ⟨by decide, by decide, by decide⟩

theorem clearsOnRead_bounds {b : Blk} {off : Nat} (h : clearsOnRead b off = true) : off < 4096 ∧ off % 4 = 0 := by
  simp only [clearsOnRead, Bool.or_eq_true, Bool.and_eq_true, beq_iff_eq] at h
  omega

/-- A latched word is a register's or is cut to 32 bits. -/
theorem latchWord_bounds {s : State} {b : Blk} {da page off v : Nat} (h : s.latchWord b da page off = some v) :
    off < 4096 ∧ off % 4 = 0 ∧ clearsOnRead b off = false ∧ v < 2 ^ 32 := by
  have hmq := s.reg_lt da page 0x05C 1
  have hseq := s.reg_lt da page 0x078 1
  have htsn := s.reg_lt da page 0x074 1
  unfold State.latchWord at h
  split at h <;> cases h <;> exact ⟨by decide, by decide, rfl, by omega⟩

/-! ### The commands at a page that the host reaches -/

section
variable {s : State} {da page : Nat} {b : Blk}

theorem AtPage.registerWrite_yields (h : AtPage s da page b) {off : Nat} {v : Word} {P : State → Prop} (ho : off < 4096)
    (ha : off % 4 = 0) (hP : P (s.pageWrite da page off v.toNat pcieDA 0)) : Yields (.registerWrite da page off v) s P :=
  ⟨_, h.exec_registerWrite off v, by rwa [h.barAccess ho ha]⟩

theorem AtPage.registerWrite_faultMask (h : AtPage s da page b) (v : Word) (hr : s.retired da page = false) :
    Yields (.registerWrite da page 0x018 v) s fun u => u.reg da page 0x018 = v.toNat := by
  refine h.registerWrite_yields (by decide) (by decide) ?_
  rw [pageWrite_faultMask s h.blk v _ _ hr, setReg_reg_word s v.isLt]

theorem AtPage.registerWrite_lock (h : AtPage s da page b) {off : Nat} (v : Word) (hr : s.retired da page = false) (ho : off < 0x040) :
    Yields (.registerWrite da page off v) s fun u => bit (u.reg da page 0x00C) 2 = bit (s.reg da page 0x00C) 2 := by
  refine ⟨_, h.exec_registerWrite off v, ?_⟩
  rcases h.barAccess_cases off _ with e | e | e <;> rw [e]
  · rw [pageWrite_header s h.blk _ _ _ ho (.inl hr), headerWrite_lock s _ _ _ _ _ ho]
  · rw [flag_reg_of_off_ne s _ _ _ _ _ _ _ (by decide) (by decide) (by decide) (by decide)]

theorem AtPage.broadcastWrite_faultMask (h : AtPage s da page b) (v : Word) (hr : s.retired da page = false) :
    Yields (.broadcastWrite page 0x018 v []) s fun u => u.reg da page 0x018 = v.toNat :=
  ⟨_, h.exec_broadcastWrite v [] (by decide) (by decide),
    foldl_broadcastOne_mask s v _ h.blk h.page_lt hr h.reached (.inl (h.mem_broadcastTargets hr))⟩

theorem AtPage.registerWrite_fault (h : AtPage s da page b) (v : Word) {n : Nat} (hn : n < b.faultBits)
    (hf : s.freshBits (regKey da page 0x014 0) < 2 ^ 32) :
    Yields (.registerWrite da page 0x014 v) s fun u => bit (u.reg da page 0x014) n =
      (bit (s.reg da page 0x014) n && !(bit v.toNat n && !bit (s.freshBits (regKey da page 0x014 0)) n)) := by
  refine h.registerWrite_yields (by decide) (by decide) ?_
  rw [pageWrite_header s h.blk _ _ _ (by decide) (.inr rfl), headerWrite_fault s _ _ _ _ _ _ hn hf, Nat.mod_eq_of_lt v.isLt]

theorem AtPage.registerWrite_of_retired (h : AtPage s da page b) (v : Word) {off : Nat} (hr : s.retired da page = true)
    (hf : off ≠ 0x014) :
    Yields (.registerWrite da page off v) s fun u => ∀ o i, o < 4096 → i < 4096 → u.reg da page o i = s.reg da page o i := by
  refine ⟨_, h.exec_registerWrite off v, fun o i ho hi => ?_⟩
  rcases h.barAccess_cases off _ with e | e | e <;> rw [e]
  · rw [pageWrite_of_retired s _ _ _ hr hf]
  · exact flag_reg_of_die_ne s (by decide) h.page_lt ho hi (ne_pcieDA_of_retired s hr)

theorem AtPage.exec_srst (h : AtPage s da page b) (hr : s.retired da page = false) :
    exec (.srst da page) s = .next (s.softReset da page) := by
  show execSrst da page s = _
  rw [execSrst, h.barAccess (by decide) (by decide), hr]
  rfl

theorem AtPage.maxClr_clears (h : AtPage s da page b) (hr : s.retired da page = false) {off v : Nat}
    (hm : maxCleared b off = some v) : Yields (.maxClr da page off) s fun u => u.reg da page off = v := by
  obtain ⟨ho, ha, hv⟩ := maxCleared_bounds hm
  refine ⟨s.setReg da page off v, ?_, setReg_reg_word s hv⟩
  show execMaxClr da page off s = _
  rw [execMaxClr, h.barAccess ho ha, hr]
  simp [State.clearMax, hm]

theorem AtPage.clearingRead_clears (h : AtPage s da page b) {off : Nat} (hc : clearsOnRead b off = true) :
    Yields (.clearingRead da page off) s fun u => bit (u.reg da page off) 31 = false := by
  obtain ⟨ho, ha⟩ := clearsOnRead_bounds hc
  refine ⟨s.setReg da page off (clrBit (s.reg da page off) 31), ?_, ?_⟩
  · show execClearingRead da page off s = _
    rw [execClearingRead, h.barAccess ho ha]
    simp [State.readEffect, hc]
  · show bit ((s.setReg da page off _).reg da page off) 31 = false
    rw [State.setReg_reg_self, bit_mod_two_pow (by decide), bit_clrBit_self]

theorem AtPage.exec_latchingRead (h : AtPage s da page b) {off : Nat} (ho : off < 4096) (ha : off % 4 = 0)
    (hc : clearsOnRead b off = false) :
    exec (.latchingRead da page off) s = .next ((s.takeTime b da page off).readEffect b da page off) := by
  show execLatchingRead da page off s = _
  rw [execLatchingRead, h.barAccess ho ha, hc]
  rfl

theorem AtPage.latchingRead_latches (h : AtPage s da page b) {off v : Nat} (hl : s.latchWord b da page off = some v)
    (hb : b ≠ .tsn) : Yields (.latchingRead da page off) s fun u => u.reg da page (off + 4) = v := by
  obtain ⟨ho, ha, hc, hv⟩ := latchWord_bounds hl
  refine ⟨_, h.exec_latchingRead ho ha hc, ?_⟩
  have htake : s.takeTime b da page off = s := by simp [State.takeTime, hb]
  rw [htake]
  simpa [State.readEffect, hc, hl] using hv

theorem AtPage.latchingRead_time (h : AtPage s da page .tsn) :
    Yields (.latchingRead da page 0x070) s fun u => u.reg da page 0x074 = u.reg da page 0x074 1 := by
  refine ⟨_, h.exec_latchingRead (by decide) (by decide) rfl, ?_⟩
  generalize s.takeTime .tsn da page 0x070 = t
  show (t.setReg da page 0x074 (t.reg da page 0x074 1)).reg da page 0x074 =
    (t.setReg da page 0x074 (t.reg da page 0x074 1)).reg da page 0x074 1
  rw [setReg_reg_word t (t.reg_lt ..), State.setReg_reg_ne _ _ _ _ _ _ _ _ _ _ (by unfold regKey; omega)]
end

/-- Settles O48: an access of the host comes to the page itself (`AtPage.barAccess`), and a broadcast by induction over the dies that
take it. -/
theorem registerAccesses : Obligations.RegisterAccesses := by
  intro s da page b hans hreach hda hpage hblk
  have h : AtPage s da page b := ⟨hans, hreach, hda, hpage, hblk⟩
  refine ⟨fun v hr =>
      ⟨h.registerWrite_faultMask v hr, fun off ho => h.registerWrite_lock v hr ho, h.broadcastWrite_faultMask v hr⟩,
    fun v n hn hf => h.registerWrite_fault v hn hf, fun v off hr hf => h.registerWrite_of_retired v hr hf,
    fun hr => ⟨fun hl hd => ?_, fun hl => ?_, fun off v hm => h.maxClr_clears hr hm⟩,
    fun off hc => h.clearingRead_clears hc, fun off v hl hb => h.latchingRead_latches hl hb, ?_⟩
  · exact ⟨_, h.exec_srst hr, fun off idx hlo ho hi => softReset_reg_block s hblk hl hd hlo ho hi⟩
  · exact ⟨_, h.exec_srst hr, softReset_of_locked_or_armed s hl⟩
  · rintro rfl
    exact h.latchingRead_time

end Sys2Proof.Machine
end

section
/-! PROOFS. What a host write to TKC_CLEAR and TKC_OUT does (R38). -/

namespace Sys2Proof.Machine

section
variable (s : State)

/-! ### FAULT bits -/

theorem bit_setBit_self (w n : Nat) : bit (setBit w n) n = true := by
  unfold setBit
  split
  · assumption
  next h =>
    have hdiv : (w + 2 ^ n) / 2 ^ n = w / 2 ^ n + 1 := Nat.add_div_right w (Nat.two_pow_pos n)
    simp only [bit, beq_iff_eq, hdiv] at h ⊢
    omega

/-- An event sets its FAULT bit (R449). -/
theorem flag_sets_bit (da page : Nat) {n : Nat} (hn : n < 32) : bit ((s.flag da page n).reg da page 0x014) n = true := by
  rw [State.flag, reg_of_regs (markFresh_regs ..), State.incReg,
    setReg_reg_of_off_ne _ _ _ _ _ _ _ _ _ _ (by decide) (by decide) (by decide) (by decide) (by decide),
    State.setReg_reg_self, bit_mod_two_pow hn, bit_setBit_self]

/-! ### TKC_CLEAR and TKC_OUT -/

/-- The page of the Pacer that holds TKC_CLEAR, of a device that answers. -/
theorem atPage_tkc {s : State} (ha : s.answers = true) (hr : s.reached pacerDA = true) : AtPage s pacerDA pgTkc .tkc :=
  ⟨ha, hr, by decide, by decide, rfl⟩

/-- A register that holds one RWL field [11:0] takes the field where its chapter states that it takes the value. -/
theorem fieldWrite_rwl_11 (b : Blk) (off v old reset : Nat) :
    fieldWrite b off false v old (rwl 11 0 reset) =
      if fieldTakes b off 0 (v % 4096) then putBits old 11 0 (v % 4096) else old := by
  simp [fieldWrite, rwl, bits_lo_zero]

theorem bits_putBits_lo_zero (w v k : Nat) : bits (putBits w k 0 v) k 0 = v % 2 ^ (k + 1) := by
  have hclear : (w - w % 2 ^ (k + 1)) % 2 ^ (k + 1) = 0 := Nat.sub_mod_eq_zero_of_mod_eq (Nat.mod_mod ..).symm
  simp [putBits, bits_lo_zero, Nat.add_mod, hclear]

theorem bits_eleven_mod_word (w : Nat) : bits (w % 2 ^ 32) 11 0 = bits w 11 0 := by
  rw [bits_lo_zero, bits_lo_zero]
  omega

variable {s}

/-- A write to TKC_CLEAR or TKC_OUT of the unlocked page: CFG_REFUSED is judged, and the field written. -/
theorem pageWrite_tkc {off reset : Nat} (v : Word) (hl : bit (s.reg pacerDA pgTkc 0x00C) 2 = false)
    (ho : off = 0x044 ∨ off = 0x048) (hf : tkcFields off = [rwl 11 0 reset]) :
    s.pageWrite pacerDA pgTkc off v.toNat pcieDA 0 =
      let u := s.cfgRefused false off v.toNat
      u.setReg pacerDA pgTkc off (fieldWrite .tkc off false v.toNat (u.reg pacerDA pgTkc off) (rwl 11 0 reset)) := by
  have hblk : blkAt pacerDA pgTkc = some .tkc := rfl
  have hret : s.retired pacerDA pgTkc = false := rfl
  rcases ho with rfl | rfl <;>
    simp [State.pageWrite, State.commandWrite, State.regWrite, State.blockWrite, State.wordTakes, State.winIdx, maxCleared,
      blockFields, hblk, hret, hl, hf, Nat.mod_eq_of_lt v.isLt]

/-- Below 700 the field of TKC_CLEAR keeps its value. -/
theorem pageWrite_clear_refused (v : Word) (hl : bit (s.reg pacerDA pgTkc 0x00C) 2 = false) (hv : v.toNat % 4096 < 700) :
    s.pageWrite pacerDA pgTkc 0x044 v.toNat pcieDA 0 =
      (s.flag pacerDA pgTkc 0).setReg pacerDA pgTkc 0x044 (s.reg pacerDA pgTkc 0x044) := by
  have hno : fieldTakes .tkc 0x044 0 (v.toNat % 4096) = false := by simpa [fieldTakes] using hv
  rw [pageWrite_tkc v hl (.inl rfl) rfl]
  simp [State.cfgRefused, fieldWrite_rwl_11, hno, flag_reg_of_off_ne]

/-- From 700 on the field of TKC_CLEAR takes the value. -/
theorem pageWrite_clear_taken (v : Word) (hl : bit (s.reg pacerDA pgTkc 0x00C) 2 = false) (hv : 700 ≤ v.toNat % 4096) :
    s.pageWrite pacerDA pgTkc 0x044 v.toNat pcieDA 0 =
      s.setReg pacerDA pgTkc 0x044 (putBits (s.reg pacerDA pgTkc 0x044) 11 0 (v.toNat % 4096)) := by
  have hyes : fieldTakes .tkc 0x044 0 (v.toNat % 4096) = true := by simpa [fieldTakes] using hv
  rw [pageWrite_tkc v hl (.inl rfl) rfl]
  simp [State.cfgRefused, fieldWrite_rwl_11, hyes]

/-- The field of TKC_OUT takes every value. -/
theorem pageWrite_out (v : Word) (hl : bit (s.reg pacerDA pgTkc 0x00C) 2 = false) :
    s.pageWrite pacerDA pgTkc 0x048 v.toNat pcieDA 0 =
      s.setReg pacerDA pgTkc 0x048 (putBits (s.reg pacerDA pgTkc 0x048) 11 0 (v.toNat % 4096)) := by
  have hyes : fieldTakes .tkc 0x048 0 (v.toNat % 4096) = true := rfl
  rw [pageWrite_tkc v hl (.inr rfl) rfl]
  simp [State.cfgRefused, fieldWrite_rwl_11, hyes]

theorem setReg_putBits_eleven (da page off x v : Nat) :
    bits ((s.setReg da page off (putBits x 11 0 (v % 4096))).reg da page off) 11 0 = v % 4096 := by
  rw [State.setReg_reg_self, bits_eleven_mod_word, bits_putBits_lo_zero]
  exact Nat.mod_mod ..

end

/-- Settles O47: a write that is not taken leaves the word and flags FAULT bit 0; a taken one puts the value into [11:0]. -/
theorem clearRegister : Obligations.ClearRegister := by
  intro s v ha hr hl
  have h := atPage_tkc ha hr
  refine ⟨fun hv => h.registerWrite_yields (by decide) (by decide) ?_, fun hv => h.registerWrite_yields (by decide) (by decide) ?_,
    h.registerWrite_yields (by decide) (by decide) ?_⟩
  · rw [pageWrite_clear_refused v hl hv]
    refine ⟨setReg_reg_word _ (s.reg_lt ..), ?_⟩
    rw [setReg_reg_of_off_ne _ _ _ _ _ _ _ _ _ _ (by decide) (by decide) (by decide) (by decide) (by decide)]
    exact flag_sets_bit s _ _ (by decide)
  · rw [pageWrite_clear_taken v hl hv]
    exact setReg_putBits_eleven ..
  · rw [pageWrite_out v hl]
    exact setReg_putBits_eleven ..

end Sys2Proof.Machine
end

section
/-! PROOFS. What flags, reports, charges and events leave (R251, R343, R378, R380, R449): the packets handed to the network stay
with it, FAULT bits stay set, and no unit changes. -/

namespace Sys2Proof.Machine

/-! ### FAULT bits stay set -/

theorem bit_setBit_of_bit {w m : Nat} (n : Nat) (h : bit w m = true) : bit (setBit w n) m = true := by
  induction n generalizing w m with
  | zero =>
    cases m with
    | zero => exact bit_setBit_self w 0
    | succ m =>
      have hhalf : setBit w 0 / 2 = w / 2 := by
        unfold setBit
        split
        · rfl
        next h0 => simp only [bit, beq_iff_eq] at h0; omega
      rwa [bit_succ, hhalf, ← bit_succ]
  | succ n ih =>
    have hhalf : setBit w (n + 1) / 2 = setBit (w / 2) n := by
      unfold setBit
      rw [bit_succ]
      split <;> omega
    cases m with
    | zero =>
      have hlow : bit (setBit w (n + 1)) 0 = bit w 0 := by
        unfold setBit
        split
        · rfl
        · simp only [bit]; congr 1; omega
      rw [hlow, h]
    | succ m => rw [bit_succ, hhalf]; exact ih (by rwa [← bit_succ])

/-- FAULT of every page resets to 0 (R449). -/
theorem regReset_fault (da page : Nat) : regReset da page 0x014 = 0 := by
  unfold regReset
  split
  · rfl
  next b _ =>
    show BitVec.ofNat 32 (fieldsReset (if b.faultBits = 0 then [] else [w1c (b.faultBits - 1) 0])) = 0
    split <;> rfl

theorem reg_fault_of_regKey {da page da' page' : Nat} (s : State) (h : regKey da page 0x014 0 = regKey da' page' 0x014 0) :
    s.reg da page 0x014 = s.reg da' page' 0x014 := by
  simp [State.reg, h, regReset_fault]

/-- Every FAULT bit that is set stays set. -/
def KeepsFaults (s u : State) : Prop :=
  ∀ da page n, n < 32 → bit (s.reg da page 0x014) n = true → bit (u.reg da page 0x014) n = true

section
variable {s t u : State}

theorem KeepsFaults.refl (s : State) : KeepsFaults s s := fun _ _ _ _ h => h

theorem KeepsFaults.trans (h : KeepsFaults s t) (k : KeepsFaults t u) : KeepsFaults s u :=
  fun da page n hn hb => k da page n hn (h da page n hn hb)

theorem KeepsFaults.of_regs (h : u.regs = s.regs) : KeepsFaults s u := fun da page n _ hb => by rwa [reg_of_regs h]

theorem setReg_keepsFaults (s : State) (da page off v : Nat) {i : Nat} (ho : off < 4096) (hi : i < 4096) (h : off ≠ 0x014) :
    KeepsFaults s (s.setReg da page off v i) := fun da' page' n _ hb => by
  rwa [setReg_reg_of_off_ne _ _ _ _ _ _ _ _ _ _ ho hi (by decide) (by decide) h.symm]

theorem flag_keepsFaults (s : State) (da page n : Nat) : KeepsFaults s (s.flag da page n) := by
  have hset : KeepsFaults s (s.setReg da page 0x014 (setBit (s.reg da page 0x014) n)) := by
    intro da' page' m hm hb
    by_cases hk : regKey da' page' 0x014 0 = regKey da page 0x014 0
    · rw [reg_fault_of_regKey _ hk] at hb ⊢
      rw [State.setReg_reg_self, bit_mod_two_pow hm]
      exact bit_setBit_of_bit n hb
    · rwa [State.setReg_reg_ne _ _ _ _ _ _ _ _ _ _ hk]
  exact (hset.trans (setReg_keepsFaults _ _ _ _ _ (by decide) (by decide) (by decide))).trans
    (.of_regs (markFresh_regs ..))

/-! ### Packets handed to the network stay with it -/

/-- The route tables stand, every packet that waits at its target or in a queue still waits there, and FAULT bits stay set. -/
structure KeepsSent (s u : State) : Prop where
  start : u.net.startRoutes = s.net.startRoutes
  routes : u.net.routes = s.net.routes
  failedLink : u.net.failedLink = s.net.failedLink
  arrived : ∀ p ∈ s.net.arrived, p ∈ u.net.arrived
  queued : ∀ q ∈ s.net.queued, ∃ q' ∈ u.net.queued, q'.p = q.p
  faults : KeepsFaults s u

theorem KeepsSent.trans (h : KeepsSent s t) (k : KeepsSent t u) : KeepsSent s u where
  start := k.start.trans h.start
  routes := k.routes.trans h.routes
  failedLink := k.failedLink.trans h.failedLink
  arrived p hp := k.arrived p (h.arrived p hp)
  queued q hq := by
    obtain ⟨q', hq', e⟩ := h.queued q hq
    obtain ⟨q'', hq'', e'⟩ := k.queued q' hq'
    exact ⟨q'', hq'', e'.trans e⟩
  faults := h.faults.trans k.faults

theorem KeepsSent.of_net (hn : u.net = s.net) (hf : KeepsFaults s u) : KeepsSent s u where
  start := by rw [hn]
  routes := by rw [hn]
  failedLink := by rw [hn]
  arrived p hp := by rwa [hn]
  queued q hq := ⟨q, by rwa [hn], rfl⟩
  faults := hf

theorem KeepsSent.refl (s : State) : KeepsSent s s := .of_net rfl (.refl s)

theorem KeepsSent.routeTo (h : KeepsSent s u) (src sport dst : Nat) : u.routeTo src sport dst = s.routeTo src sport dst := by
  simp [State.routeTo, State.routeWords, h.start, h.routes, h.failedLink]

/-- A packet that has been handed over stays handed over. -/
theorem Sends.mono {p : Packet} (h : Sends s t p) (k : KeepsSent t u) : Sends s u p := by
  unfold Sends at h ⊢
  split
  next r hr =>
    rw [hr] at h
    dsimp only at h
    split
    next h0 => rw [if_pos h0] at h; exact k.arrived _ h
    next h0 =>
      rw [if_neg h0] at h
      obtain ⟨q, hq, e⟩ := h
      obtain ⟨q', hq', e'⟩ := k.queued q hq
      exact ⟨q', hq', e'.trans e⟩
  next hr =>
    rw [hr] at h
    exact k.faults _ _ _ (by decide) h

theorem Sends.of_keepsSent {p : Packet} (h : KeepsSent s t) (k : Sends t u p) : Sends s u p := by
  unfold Sends at k ⊢
  rwa [h.routeTo] at k

/-! ### What flags, reports, charges and events change -/

/-- Nothing but registers, the network, the host's events, the marks of R9 and the count of free values has changed, and what was
sent stays sent. -/
structure Signals (s u : State) : Prop where
  frame : ∃ r n h a f d, u = { s with regs := r, net := n, host := h, freshAt := a, fresh := f, free := d }
  sent : KeepsSent s u

theorem Signals.refl (s : State) : Signals s s := ⟨⟨_, _, _, _, _, _, rfl⟩, .refl s⟩

theorem Signals.trans (h : Signals s t) (k : Signals t u) : Signals s u := by
  obtain ⟨⟨_, _, _, _, _, _, rfl⟩, hs⟩ := h
  obtain ⟨⟨_, _, _, _, _, _, rfl⟩, ks⟩ := k
  exact ⟨⟨_, _, _, _, _, _, rfl⟩, hs.trans ks⟩

theorem Signals.pacer (h : Signals s u) : u.pacer = s.pacer := by
  obtain ⟨⟨_, _, _, _, _, _, rfl⟩, -⟩ := h
  rfl

theorem Signals.tick (h : Signals s u) : u.tick = s.tick := by rw [State.tick, State.tick, h.pacer]

theorem Signals.core (h : Signals s u) (t c : Nat) : u.core t c = s.core t c := by
  obtain ⟨⟨_, _, _, _, _, _, rfl⟩, -⟩ := h
  rfl

theorem foldl_signals {α : Type} {f : State → α → State} (h : ∀ s a, Signals s (f s a)) (l : List α) (s : State) :
    Signals s (l.foldl f s) := by
  induction l generalizing s with
  | nil => exact .refl s
  | cons a l ih => exact (h s a).trans (ih _)

theorem Signals.sameStores (h : Signals s u) : SameStores s u := by
  obtain ⟨⟨_, _, _, _, _, _, rfl⟩, -⟩ := h
  exact fun _ _ _ => ⟨rfl, rfl⟩
end

section
variable (s : State)

theorem markFresh_signals (key n : Nat) : Signals s (s.markFresh key n) := by
  refine ⟨?_, .of_net ?_ (.of_regs (markFresh_regs ..))⟩ <;> unfold State.markFresh <;> split
  · exact ⟨_, _, _, _, _, _, rfl⟩
  · exact ⟨_, _, _, _, _, _, rfl⟩
  · rfl
  · rfl

theorem setReg_signals (da page off v : Nat) {i : Nat} (ho : off < 4096) (hi : i < 4096) (h : off ≠ 0x014) :
    Signals s (s.setReg da page off v i) :=
  ⟨⟨_, _, _, _, _, _, rfl⟩, .of_net rfl (setReg_keepsFaults s da page off v ho hi h)⟩

theorem draw_signals : Signals s s.draw := ⟨⟨_, _, _, _, _, _, rfl⟩, .of_net rfl (.of_regs rfl)⟩

theorem flag_signals (da page n : Nat) : Signals s (s.flag da page n) := by
  obtain ⟨⟨r, n', h, a, f, d, e⟩, -⟩ := markFresh_signals
    ((s.setReg da page 0x014 (setBit (s.reg da page 0x014) n)).incReg da page 0x020) (regKey da page 0x014 0) n
  refine ⟨⟨r, n', h, a, f, d, e.trans rfl⟩, .of_net ?_ (flag_keepsFaults s da page n)⟩
  unfold State.flag State.markFresh
  split <;> rfl

/-- The injection of queued packets loses none. -/
theorem mem_admitList {now : Nat} {l : List QPacket} {x : QPacket} (done : List QPacket) (h : x ∈ done ∨ x ∈ l) :
    ∃ y ∈ admitList now done l, y.p = x.p := by
  induction l generalizing done x with
  | nil =>
    obtain h | h := h
    · exact ⟨x, h, rfl⟩
    · cases h
  | cons a r ih =>
    unfold admitList
    extract_lets held
    split
    · obtain h | h := h
      · exact ih _ (.inl (List.mem_append_left _ h))
      · obtain rfl | h := List.mem_cons.mp h
        · obtain ⟨y, hy, e⟩ := ih (x := { x with inp := 4, since := now, aged := now, head := now })
            (done ++ [{ x with inp := 4, since := now, aged := now, head := now }]) (.inl (by simp))
          exact ⟨y, hy, e⟩
        · exact ih _ (.inr h)
    · obtain h | h := h
      · exact ih _ (.inl (List.mem_append_left _ h))
      · obtain rfl | h := List.mem_cons.mp h
        · exact ih _ (.inl (by simp))
        · exact ih _ (.inr h)

theorem inject_signals (p : Packet) : Signals s (s.inject p) := by
  unfold State.inject
  extract_lets now
  split
  · exact ⟨⟨_, _, _, _, _, _, rfl⟩, rfl, rfl, rfl,
      fun q hq => List.mem_append_left _ hq, fun q hq => ⟨q, hq, rfl⟩, .of_regs rfl⟩
  · exact ⟨⟨_, _, _, _, _, _, rfl⟩, rfl, rfl, rfl, fun q hq => hq,
      fun q hq => mem_admitList [] (.inr (List.mem_append_left _ hq)), .of_regs rfl⟩

theorem postRaw_signals (p : Packet) : Signals s (s.postRaw p) := by
  unfold State.postRaw
  split
  · exact inject_signals ..
  · exact flag_signals ..

theorem report_signals (da cls fkind ref detail : Nat) : Signals s (s.report da cls fkind ref detail) := postRaw_signals ..

theorem charge_signals (da ref ckind fkind loc : Nat) : Signals s (s.charge da ref ckind fkind loc) := postRaw_signals ..

theorem niError_signals (da status : Nat) (p : Packet) : Signals s (s.niError da p status) := by
  unfold State.niError
  extract_lets old info u
  have hu : Signals s u := by
    show Signals s (if bit old 31 = true then s else s.setReg da pgNi 0x060 info)
    split
    · exact .refl s
    · exact setReg_signals s _ _ _ _ (by decide) (by decide) (by decide)
  split
  · exact hu.trans (report_signals ..)
  · exact hu

theorem post_signals (p : Packet) : Signals s (s.post p) := by
  unfold State.post
  split
  · exact inject_signals ..
  · extract_lets u
    have hu : Signals s u := flag_signals ..
    split
    · exact hu.trans (niError_signals ..)
    · exact hu

theorem event_signals (e : Event) : Signals s (s.event e) := by
  have hhost : ∀ h, Signals s (s.setHost h) := fun h => ⟨⟨_, _, _, _, _, _, rfl⟩, .of_net rfl (.of_regs rfl)⟩
  unfold State.event
  extract_lets h
  split
  · exact hhost _
  · split
    · exact flag_signals ..
    · exact ((hhost _).trans (flag_signals ..)).trans (setReg_signals _ _ _ _ _ (by decide) (by decide) (by decide))

/-! ### What is handed to the network -/

theorem bits_lt (w hi lo : Nat) : bits w hi lo < 2 ^ (hi + 1 - lo) := Nat.mod_lt _ (Nat.two_pow_pos _)

/-- A route table entry counts fewer than 32 hops (R241). -/
theorem routeTo_hops_lt {src sport dst : Nat} {r : Nat × Nat × Bool} (h : s.routeTo src sport dst = some r) : r.1 < 32 := by
  have hlt (w hi lo : Nat) (e : hi + 1 - lo = 5) : bits w hi lo < 32 := by simpa [e] using bits_lt w hi lo
  unfold State.routeTo at h
  split at h
  dsimp only at h
  split at h
  · split at h
    · split at h <;> cases h <;> exact hlt _ _ _ rfl
    · cases h; exact hlt _ _ _ rfl
  · cases h

theorem inject_sends {p : Packet} {r : Nat × Nat × Bool} (h : s.routeTo p.src.toNat p.sport.toNat p.dst.toNat = some r) :
    Sends s (s.inject (p.routed r)) p := by
  have hops : (p.routed r).hops = 0 ↔ r.1 = 0 := by
    have hlt := routeTo_hops_lt s h
    rw [← BitVec.toNat_inj]
    simp [Packet.routed, Nat.mod_eq_of_lt hlt]
  unfold Sends
  rw [h]
  dsimp only
  unfold State.inject
  extract_lets now
  split
  next h0 => rw [if_pos (hops.mpr h0)]; exact List.mem_append_right _ (List.mem_singleton.mpr rfl)
  next h0 =>
    rw [if_neg fun e => h0 (hops.mp e)]
    exact mem_admitList (x := ⟨_, _, _, p.routed r, _, _, _, _, _⟩) [] (.inr (List.mem_append_right _ (List.mem_singleton.mpr rfl)))

theorem postRaw_sends (p : Packet) : Sends s (s.postRaw p) p := by
  unfold State.postRaw
  split
  next r hr => exact inject_sends s hr
  next hr =>
    unfold Sends
    rw [hr]
    exact flag_sets_bit s _ _ (by decide)

theorem post_sends (p : Packet) : Sends s (s.post p) p := by
  unfold State.post
  split
  next r hr => exact inject_sends s hr
  next hr =>
    extract_lets u
    have hu : Sends s u p := by
      unfold Sends
      rw [hr]
      exact flag_sets_bit s _ _ (by decide)
    split
    · exact hu.mono (niError_signals ..).sent
    · exact hu

theorem report_reports (da cls fkind ref detail : Nat) : Reports s (s.report da cls fkind ref detail) da cls fkind ref detail :=
  postRaw_sends ..

theorem charge_charges (da ref ckind fkind loc : Nat) : Charges s (s.charge da ref ckind fkind loc) da ref ckind fkind loc :=
  postRaw_sends ..
end

end Sys2Proof.Machine
end

section
/-! PROOFS. What START, BARRIER, STREAM, SIGNAL and NOP entries do when they take effect (R43, R46, R50, R129, R130, R194, R209). -/

namespace Sys2Proof.Machine

variable (s : State)

/-! ### An entry that takes effect -/

theorem action_of_entryNow {s : State} {i kind : Nat} {e : TtEntry} (h : s.entryNow i kind = some e) (deadline : Bool)
    (body : TtEntry → State → State) : s.action i kind deadline body = .next (body e (s.enter i deadline)) := by
  simp [State.action, h]

/-! The entry's action sees the units as they were. -/

@[simp] theorem enter_entryCore (i : Nat) (d : Bool) (e : TtEntry) : (s.enter i d).entryCore e = s.entryCore e := rfl
@[simp] theorem enter_prog (i : Nat) (d : Bool) (t c n : Nat) : (s.enter i d).prog t c n = s.prog t c n := rfl
@[simp] theorem enter_bank (i : Nat) (d : Bool) (t c cls : Nat) : (s.enter i d).bank t c cls = s.bank t c cls := rfl
@[simp] theorem enter_core (i : Nat) (d : Bool) (t c : Nat) : (s.enter i d).core t c = s.core t c := rfl
@[simp] theorem enter_physDie (i : Nat) (d : Bool) (n : Nat) : (s.enter i d).physDie n = s.physDie n := rfl
@[simp] theorem enter_tick (i : Nat) (d : Bool) : (s.enter i d).tick = s.tick := rfl

theorem mem_watch_enter (i : Nat) : (i, s.tick) ∈ (s.enter i true).pacer.watch := by
  simp [State.enter]

/-! ### Starts -/

/-- The bank of a class is the core's, so what `updCore` leaves of the banks it leaves of every class. -/
theorem updCore_bank_of_banks (t c cls : Nat) {f : Core → Core} (h : ∀ k, (f k).bank cls = k.bank cls) :
    (s.updCore t c f).bank t c cls = s.bank t c cls := by
  simp [State.bank, h]

/-- What a start leaves on a core whose SEQ page is enabled (R129, R130). -/
theorem startBank_starts {t c cls : Nat} (isTask skip : Bool) (prog entry : Nat) (pc : BitVec 17) (seed : Word)
    (hen : s.pageEn (tileDA t) (pgSeq c) = true) :
    let u := s.startBank t c cls isTask skip prog entry pc seed
    u.bank t c cls = (s.bank t c cls).started isTask skip prog entry pc seed s.tick ∧
      (u.core t c).issuing = some ((s.core t c).issuing.getD cls) ∧ u.pacer = s.pacer := by
  unfold State.startBank
  rw [if_pos hen]
  refine ⟨?_, ?_, rfl⟩
  · rw [updCore_bank_of_banks, State.updBank_bank_self]
    intro k
    split <;> rfl
  · rw [State.updCore_core_self]
    cases h : (s.core t c).issuing <;> simp [h]

/-- Taking a sample changes the die units only (R399). -/
theorem beginSample_frame (t c : Nat) (adapt : Bool) (latest : Nat) :
    ∃ u, s.beginSample t c adapt latest = { s with tiles := u } := by
  have hstop : ∃ u, s.stopSamples t c = { s with tiles := u } := by
    unfold State.stopSamples
    extract_lets x isOpen stop
    split <;> exact ⟨_, rfl⟩
  obtain ⟨u, hu⟩ := hstop
  unfold State.beginSample
  rw [hu]
  extract_lets v x take
  split
  · exact ⟨_, rfl⟩
  · split <;> exact ⟨_, rfl⟩

variable {s} {i : Nat} {e : TtEntry}

/-- START of a program with code on an inactive class (R50, R129, R130). -/
theorem start_yields {t c : Nat} (hnow : s.entryNow i 1 = some e) (hcore : s.entryCore e = some (t, c))
    (hcode : (s.prog t c e.obj).codeLen ≠ 0) (hcls : (s.prog t c e.obj).cls = e.cls) (hidle : (s.bank t c e.cls).active = false)
    (hen : s.pageEn (tileDA t) (pgSeq c) = true) :
    Yields (.start i) s fun u => (u.bank t c e.cls).active = true ∧ (u.bank t c e.cls).isTask = false ∧
      (u.bank t c e.cls).prog = e.obj ∧ (u.bank t c e.cls).pc = (s.prog t c e.obj).entry ∧ (u.bank t c e.cls).entry = i ∧
      (u.bank t c e.cls).startTick = s.tick ∧ (i, s.tick) ∈ u.pacer.watch ∧
      (u.core t c).issuing = some ((s.core t c).issuing.getD e.cls) := by
  let h := s.prog t c e.obj
  let u := (s.enter i true).startBank t c e.cls false h.skip e.obj i h.entry h.seed
  have hexec : exec (.start i) s = .next (if e.cls = 2 then u.beginSample t c false 0 else u) := by
    show execStart i s = _
    unfold execStart
    rw [action_of_entryNow hnow]
    simp only [enter_entryCore, enter_prog, enter_bank, hcore, hcode, hcls, hidle, ite_false, ne_eq, not_true_eq_false, false_or,
      Bool.false_eq_true, false_and]
    rfl
  have hsample : (if e.cls = 2 then u.beginSample t c false 0 else u).cores = u.cores ∧
      (if e.cls = 2 then u.beginSample t c false 0 else u).pacer = u.pacer := by
    split
    · obtain ⟨x, hx⟩ := beginSample_frame u t c false 0
      rw [hx]
      exact ⟨rfl, rfl⟩
    · exact ⟨rfl, rfl⟩
  refine ⟨_, hexec, ?_⟩
  obtain ⟨hbank, hiss, hpacer⟩ := startBank_starts (s.enter i true) (cls := e.cls) false h.skip e.obj i h.entry h.seed hen
  dsimp only [State.bank, State.core]
  rw [hsample.1, hsample.2]
  have hbank' : (tget u.cores (coreKey t c) {}).bank e.cls = (s.bank t c e.cls).started false h.skip e.obj i h.entry h.seed s.tick := hbank
  have hpacer' : u.pacer = (s.enter i true).pacer := hpacer
  rw [hbank', hpacer']
  exact ⟨rfl, rfl, rfl, rfl, rfl, rfl, mem_watch_enter s i, hiss⟩

/-- START of an empty program (R51). -/
theorem start_empty_yields {t c : Nat} (hnow : s.entryNow i 1 = some e) (hcore : s.entryCore e = some (t, c))
    (hcode : (s.prog t c e.obj).codeLen = 0) :
    Yields (.start i) s fun u => (i, s.tick) ∈ u.pacer.complete ∧ u.cores = s.cores ∧
      (e.cls < 2 → (s.prog t c e.obj).coins * coin ≠ 0 → (t, (s.prog t c e.obj).coins * coin) ∈ u.mint.refunds) := by
  let v := (s.enter i true).completeEntry i s.tick
  let n := (s.prog t c e.obj).coins * coin
  have hexec : exec (.start i) s = .next (if e.cls < 2 then v.reportRefund t n else v) := by
    show execStart i s = _
    unfold execStart
    rw [action_of_entryNow hnow]
    simp only [enter_entryCore, enter_prog, enter_tick, hcore, hcode, ite_true]
    rfl
  have hdone : (i, s.tick) ∈ v.pacer.complete := List.mem_cons_self ..
  refine ⟨_, hexec, ?_⟩
  split
  next hc =>
    unfold State.reportRefund
    split
    next h0 => exact ⟨hdone, rfl, fun _ hn => absurd h0 hn⟩
    · exact ⟨hdone, rfl, fun _ _ => List.mem_append_right _ (List.mem_singleton.mpr rfl)⟩
  next hc => exact ⟨hdone, rfl, fun h => absurd h hc⟩

/-! ### BARRIER, SIGNAL, NOP -/

theorem barrier_yields {t : Nat} (hnow : s.entryNow i 2 = some e) (hdie : s.physDie e.die = some t) :
    Yields (.barrier i) s fun u =>
      u.tally t e.obj = { s.tally t e.obj with expect := e.arg, armed := true } ∧ SameStores s u := by
  let v := s.enter i true
  have hexec : exec (.barrier i) s = .next (v.setTally t e.obj { v.tally t e.obj with expect := e.arg, armed := true }) := by
    show execBarrier i s = _
    unfold execBarrier
    rw [action_of_entryNow hnow]
    simp only [enter_physDie, hdie]
    rfl
  exact ⟨_, hexec, State.setTally_tally_self .., fun _ _ _ => ⟨rfl, rfl⟩⟩

theorem signal_yields (hnow : s.entryNow i 7 = some e) :
    Yields (.signal i) s fun u => SameStores s u ∧ Sends s u
      { Packet.blank with
        opc := opSIG, cls := BitVec.ofNat 2 e.cls, src := BitVec.ofNat 8 pacerDA,
        dst := BitVec.ofNat 8 e.die, addr := BitVec.ofNat 48 e.obj, aux := BitVec.ofNat 32 e.arg } := by
  have hkept : KeepsSent s (s.enter i false) := .of_net rfl (.of_regs rfl)
  exact ⟨_, show execSignal i s = _ from action_of_entryNow hnow .., (post_signals (s.enter i false) _).sameStores,
    (post_sends ..).of_keepsSent hkept⟩

theorem ttNop_yields (hnow : s.entryNow i 0 = some e) :
    Yields (.ttNop i) s fun u => u = s.setPacer { s.pacer with dispatched := s.pacer.dispatched.erase (i, s.tick) } :=
  ⟨_, show execTtNop i s = _ from action_of_entryNow hnow .., rfl⟩

/-! ### STREAM -/

/-- A stream as it enters its class's queue, and as it waits for an entry of it with its descriptor unread (R194). -/
def State.queuedStream (s : State) (t c cls : Nat) (src : StrSrc) (idx : Nat) (d : List Word) : Stream :=
  { cls := cls, src := src, index := idx, desc := d, gateOpen := s.gateOpen t d, due := (s.core t c).clock }

def unreadStream (cls : Nat) (src : StrSrc) (idx : Nat) : Stream :=
  { cls := cls, src := src, index := idx, desc := [], gateOpen := false }

theorem enterStream_waits {t c cls idx due : Nat} {src : StrSrc} {d : List Word} (hd : s.descriptor t c cls idx = some d)
    (hn : dTotal d ≠ 0) (hfull : 4 ≤ (s.core t c).str.count cls ∨ ∃ x ∈ (s.core t c).str.waiting, x.cls = cls) :
    s.enterStream t c cls src idx due = some (s.updCore t c fun k => { k with str := { k.str with
      waiting := k.str.waiting ++ [unreadStream cls src idx] } }) := by
  simp [unreadStream, State.enterStream, hd, hn, hfull]

theorem enterStream_accepts {t c cls idx : Nat} {src : StrSrc} {d : List Word} (hd : s.descriptor t c cls idx = some d)
    (hn : dTotal d ≠ 0) (hroom : ¬(4 ≤ (s.core t c).str.count cls ∨ ∃ x ∈ (s.core t c).str.waiting, x.cls = cls))
    (hok : s.streamOk t c cls (decide (idx < 1024)) d = true) (hen : s.pageEn (tileDA t) (pgStr c) = true) :
    s.enterStream t c cls src idx (s.core t c).clock = some (s.updCore t c fun k => { k with str := { k.str with
      streams := k.str.streams ++ [s.queuedStream t c cls src idx d] } }) := by
  obtain ⟨hcount, hwait⟩ := not_or.mp hroom
  simp only [not_exists, not_and] at hwait
  have hgo : (decide (4 ≤ (s.core t c).str.count cls) || (s.core t c).str.waiting.any fun x => x.cls == cls) = false := by
    simpa [hcount] using hwait
  simp [State.enterStream, State.acceptStream, State.queuedStream, hd, hn, hgo, hok, hen]

theorem exec_stream {t c : Nat} {v : State} (hnow : s.entryNow i 3 = some e) (hcore : s.entryCore e = some (t, c))
    (h : (s.enter i true).enterStream t c e.cls (.timetable i s.tick) e.obj (s.core t c).clock = some v) :
    exec (.stream i) s = .next v := by
  show execStream i s = _
  unfold execStream
  rw [action_of_entryNow hnow]
  simp only [enter_entryCore, enter_tick, enter_core, hcore, h]
  rfl

/-- Settles O32: each entry is its operation on the state in which the entry is no longer awaited. -/
theorem timetableActions : Obligations.TimetableActions := by
  intro s i e
  refine ⟨fun hnow t c hcore hcode hcls hidle hen => start_yields hnow hcore hcode hcls hidle hen,
    fun hnow t c hcore hcode => start_empty_yields hnow hcore hcode, fun hnow t hdie => barrier_yields hnow hdie,
    fun hnow t c d hcore hd hn => ⟨fun hroom hok hen => ?_, fun hfull => ?_⟩, fun hnow => signal_yields hnow,
    fun hnow => ttNop_yields hnow⟩
  · have hin := enterStream_accepts (s := s.enter i true) (src := .timetable i s.tick) hd hn hroom hok hen
    refine ⟨_, exec_stream hnow hcore hin, fun _ _ _ => ⟨rfl, rfl⟩,
      (s.enter i true).queuedStream t c e.cls (.timetable i s.tick) e.obj d, ?_, rfl, rfl, rfl⟩
    rw [State.updCore_core_self]
    rfl
  · have hin := enterStream_waits (s := s.enter i true) (src := .timetable i s.tick) (due := (s.core t c).clock) hd hn hfull
    refine ⟨_, exec_stream hnow hcore hin, fun _ _ _ => ⟨rfl, rfl⟩,
      unreadStream e.cls (.timetable i s.tick) e.obj, ?_, ?_, rfl, rfl, rfl⟩ <;> rw [State.updCore_core_self] <;> rfl

end Sys2Proof.Machine
end

section
/-! PROOFS. What the walk of the timetable dispatches in one cycle (R45, R46). -/

namespace Sys2Proof.Machine

/-- What one cycle of the walk over the entries `es` from place `i` gives: the new place and the entries dispatched, at most `k` of
them and none with an AT above `limit`. -/
structure Walked (es : List TtEntry) (tick limit k i : Nat) (x : Nat × List Nat) : Prop where
  le : i ≤ x.1
  count : x.2.length ≤ k
  increasing : x.2.Pairwise (· < ·)
  fires : ∀ j, j ∈ x.2 ↔ i ≤ j ∧ j < x.1 ∧ ∃ e, es[j]? = some e ∧ e.fires tick = true
  early : ∀ j ∈ x.2, ∀ e, es[j]? = some e → e.at_ ≤ limit
  stops : x.1 < es.length → x.2.length = k ∨ ∃ e, es[x.1]? = some e ∧ limit < e.at_

section
variable {es : List TtEntry} {tick limit k i : Nat} {x : Nat × List Nat}

theorem Walked.stop (h : i < es.length → k = 0 ∨ ∃ e, es[i]? = some e ∧ limit < e.at_) : Walked es tick limit k i (i, []) where
  le := Nat.le_refl _
  count := Nat.zero_le _
  increasing := .nil
  fires j := by simp; omega
  early j hj := by cases hj
  stops hi := (h hi).imp_left Eq.symm

/-- An entry that does not fire is passed over. -/
theorem Walked.pass {e : TtEntry} (he : es[i]? = some e) (hf : e.fires tick = false) (h : Walked es tick limit k (i + 1) x) :
    Walked es tick limit k i x where
  le := by have := h.le; omega
  count := h.count
  increasing := h.increasing
  fires j := by
    rw [h.fires]
    constructor
    · rintro ⟨hj, hlt, hfire⟩
      exact ⟨by omega, hlt, hfire⟩
    · rintro ⟨hj, hlt, e', he', hfire⟩
      have hne : j ≠ i := by
        rintro rfl
        rw [he] at he'
        cases he'
        simp [hf] at hfire
      exact ⟨by omega, hlt, e', he', hfire⟩
  early := h.early
  stops := h.stops

theorem Walked.take {e : TtEntry} (he : es[i]? = some e) (hf : e.fires tick = true) (hat : e.at_ ≤ limit)
    (h : Walked es tick limit k (i + 1) x) : Walked es tick limit (k + 1) i (x.1, i :: x.2) where
  le := by have := h.le; dsimp only; omega
  count := by simpa using h.count
  increasing := List.pairwise_cons.mpr ⟨fun j hj => ((h.fires j).mp hj).1, h.increasing⟩
  fires j := by
    have hle := h.le
    dsimp only
    rw [List.mem_cons, h.fires]
    constructor
    · rintro (rfl | ⟨hj, hlt, hfire⟩)
      · exact ⟨Nat.le_refl _, by omega, e, he, hf⟩
      · exact ⟨by omega, hlt, hfire⟩
    · rintro ⟨hj, hlt, hfire⟩
      by_cases hji : j = i
      · exact .inl hji
      · exact .inr ⟨by omega, hlt, hfire⟩
  early j hj e' he' := by
    obtain rfl | hj := List.mem_cons.mp hj
    · rw [he] at he'
      cases he'
      exact hat
    · exact h.early j hj e' he'
  stops hi := by simpa using h.stops hi

theorem walkEntries_walked (r : List TtEntry) (hr : es.drop i = r) : Walked es tick limit k i (walkEntries tick limit k i r) := by
  induction r generalizing k i with
  | nil =>
    have hend : es.length ≤ i := by simpa using hr
    cases k <;> exact .stop fun hi => absurd hi (Nat.not_lt.mpr hend)
  | cons e r ih =>
    have he : es[i]? = some e := by
      rw [← List.head?_drop, hr]
      rfl
    have hnext : es.drop (i + 1) = r := by rw [← List.tail_drop, hr, List.tail_cons]
    cases k with
    | zero => exact .stop fun _ => .inl rfl
    | succ k =>
      unfold walkEntries
      split
      next hlate => exact .stop fun _ => .inr ⟨e, he, hlate⟩
      next hat =>
        split
        next hf => exact .take he hf (Nat.not_lt.mp hat) (ih hnext)
        next hf => exact .pass he (Bool.not_eq_true _ ▸ hf) (ih hnext)
end

/-- One cycle of the walk for tick `n`, from the state `s` in which it stands at `i`. -/
def Dispatches (s u : State) (i n limit : Nat) : Prop :=
  ∃ l : List Nat,
    u.pacer.dispatched = s.pacer.dispatched ++ l.map (fun j => (j, n)) ∧ l.length ≤ 4 ∧ i ≤ u.pacer.walk ∧ l.Pairwise (· < ·) ∧
    (∀ j, j ∈ l ↔ i ≤ j ∧ j < u.pacer.walk ∧ ∃ e, s.pacer.entries[j]? = some e ∧ e.fires n = true) ∧
    (∀ j ∈ l, ∀ e, s.pacer.entries[j]? = some e → e.at_ ≤ limit) ∧
    (u.pacer.walk < s.pacer.entries.length → l.length = 4 ∨ ∃ e, s.pacer.entries[u.pacer.walk]? = some e ∧ limit < e.at_)

theorem walkFor_dispatches (s : State) (n limit : Nat) : Dispatches s (s.walkFor n limit) s.pacer.walk n limit := by
  have h := walkEntries_walked (es := s.pacer.entries) (tick := n) (limit := limit) (k := 4) (i := s.pacer.walk) _ rfl
  exact ⟨_, rfl, h.count, h.le, h.increasing, h.fires, h.early, h.stops⟩

theorem walkAhead_dispatches (s : State) (n limit : Nat) :
    (s.walkAhead n limit).pacer.walkNext = true ∧
      Dispatches s (s.walkAhead n limit) (if s.pacer.walkNext then s.pacer.walk else 0) n limit := by
  unfold State.walkAhead
  split
  next h => exact ⟨h, by simpa only [h, if_true] using walkFor_dispatches s n limit⟩
  next h =>
    exact ⟨rfl, walkFor_dispatches (s.setPacer { s.pacer with walkNext := true, walk := 0 }) n limit⟩

section
variable {s : State}

theorem exec_timetableDispatch_running (hp : s.pacer.phase = .running) (hs : s.pacer.strobed = false) :
    exec .timetableDispatch s = .next
      (if s.pacer.walkNext = false ∧ s.pacer.walk < s.pacer.entries.length then s.walkFor s.tick (s.pacer.cycle + 32)
      else if s.period ≤ s.pacer.cycle + 32 then s.walkAhead (s.tick + 1) (min 31 (s.pacer.cycle + 32 - s.period))
      else s) := by
  show execTimetableDispatch s = _
  simp [execTimetableDispatch, hp, hs]

theorem exec_timetableDispatch_ahead {n lim : Nat}
    (h : (s.pacer.phase = .armed ∧ n = 0 ∧ lim = 31) ∨
      (s.pacer.phase = .restarting ∧ s.pacer.acksWanted = [] ∧ n = s.tick + 1 ∧ lim = 31) ∨
      (s.pacer.phase = .running ∧ s.pacer.strobed = false ∧ (s.pacer.walkNext = true ∨ s.pacer.entries.length ≤ s.pacer.walk) ∧
        s.period ≤ s.pacer.cycle + 32 ∧ n = s.tick + 1 ∧ lim = min 31 (s.pacer.cycle + 32 - s.period))) :
    exec .timetableDispatch s = .next (s.walkAhead n lim) := by
  obtain ⟨hp, rfl, rfl⟩ | ⟨hp, hacks, rfl, rfl⟩ | ⟨hp, hs, hwalk, hper, rfl, rfl⟩ := h
  · show execTimetableDispatch s = _
    simp [execTimetableDispatch, hp]
  · show execTimetableDispatch s = _
    simp [execTimetableDispatch, hp, hacks]
  · rw [exec_timetableDispatch_running hp hs, if_neg, if_pos hper]
    rintro ⟨hnext, hlt⟩
    obtain h | h := hwalk
    · simp [hnext] at h
    · omega

theorem exec_timetableDispatch_idle
    (h : s.pacer.phase = .disarmed ∨ (s.pacer.phase = .running ∧ s.pacer.strobed = false ∧
      s.pacer.entries.length ≤ s.pacer.walk ∧ s.pacer.cycle + 32 < s.period)) : exec .timetableDispatch s = .next s := by
  obtain hp | ⟨hp, hs, hwalk, hper⟩ := h
  · show execTimetableDispatch s = _
    simp [execTimetableDispatch, hp]
  · rw [exec_timetableDispatch_running hp hs, if_neg (by omega), if_neg (by omega)]
end

end Sys2Proof.Machine
end

section
/-! PROOFS. What the work of a core leaves (R70, R131, R145, R149, R218, R389): the tick, the package time, and every FAULT bit that
is set. -/

namespace Sys2Proof.Machine

/-! ### Writes of the stores -/

/-- A write of a store changes the stores with their marks, and the captures of the die units. -/
theorem writeGran_frame (s : State) (sp : Sp) (unit a : Nat) (bs : List (Option Byte)) (p : Bool) :
    ∃ m q z x y u, s.writeGran sp unit a bs p =
      { s with mem := m, poison := q, zeroTags := z, dirty0 := x, dirty1 := y, tiles := u } := by
  unfold State.writeGran
  split
  · exact ⟨_, _, _, _, _, _, rfl⟩
  · obtain ⟨u, hu⟩ := captureOld_frame s sp unit a
    rw [hu]
    exact ⟨_, _, _, _, _, _, rfl⟩

theorem writePieces_frame (n : Nat) (s : State) (sp : Sp) (unit a : Nat) (bs : List (Option Byte)) (ps : List Bool) :
    ∃ m q z x y u, s.writePieces sp unit n a bs ps =
      { s with mem := m, poison := q, zeroTags := z, dirty0 := x, dirty1 := y, tiles := u } := by
  induction n generalizing s a bs ps with
  | zero => exact ⟨_, _, _, _, _, _, rfl⟩
  | succ n ih =>
    unfold State.writePieces
    extract_lets k
    obtain ⟨_, _, _, _, _, _, h⟩ := writeGran_frame s sp unit a (bs.take k) (ps.headD false)
    obtain ⟨_, _, _, _, _, _, h'⟩ := ih (s.writeGran sp unit a (bs.take k) (ps.headD false)) (a + k) (bs.drop k) (ps.drop 1)
    rw [h', h]
    exact ⟨_, _, _, _, _, _, rfl⟩

theorem write_frame (s : State) (sp : Sp) (unit a : Nat) (bs : List (Option Byte)) (ps : List Bool) :
    ∃ m q z x y u, s.write sp unit a bs ps =
      { s with mem := m, poison := q, zeroTags := z, dirty0 := x, dirty1 := y, tiles := u } :=
  writePieces_frame ..

/-! ### The frame -/

/-- The tick and the package time stand, and every FAULT bit that is set stays set. -/
structure CoreWork (s u : State) : Prop where
  pacer : u.pacer = s.pacer
  boot : u.boot = s.boot
  faults : KeepsFaults s u

section
variable {s t u : State}

theorem CoreWork.trans (h : CoreWork s t) (k : CoreWork t u) : CoreWork s u :=
  ⟨k.pacer.trans h.pacer, k.boot.trans h.boot, h.faults.trans k.faults⟩

theorem CoreWork.of_regs (hp : u.pacer = s.pacer) (hb : u.boot = s.boot) (hr : u.regs = s.regs) : CoreWork s u :=
  ⟨hp, hb, .of_regs hr⟩

theorem CoreWork.refl (s : State) : CoreWork s s := .of_regs rfl rfl rfl

theorem Signals.coreWork (h : Signals s u) : CoreWork s u := by
  obtain ⟨⟨_, _, _, _, _, _, rfl⟩, hs⟩ := h
  exact ⟨rfl, rfl, hs.faults⟩

theorem foldl_coreWork {α : Type} {f : State → α → State} (h : ∀ s a, CoreWork s (f s a)) (l : List α) (s : State) :
    CoreWork s (l.foldl f s) := by
  induction l generalizing s with
  | nil => exact .refl s
  | cons a l ih => exact (h s a).trans (ih _)
end

section
variable (s : State) (t c : Nat)

theorem updCore_coreWork (f : Core → Core) : CoreWork s (s.updCore t c f) := .of_regs rfl rfl rfl

theorem updBank_coreWork (cls : Nat) (f : Bank → Bank) : CoreWork s (s.updBank t c cls f) := .of_regs rfl rfl rfl

theorem setReg_coreWork (da page off v : Nat) {i : Nat} (ho : off < 4096) (hi : i < 4096) (h : off ≠ 0x014) :
    CoreWork s (s.setReg da page off v i) := (setReg_signals s da page off v ho hi h).coreWork

theorem flag_coreWork (da page n : Nat) : CoreWork s (s.flag da page n) := (flag_signals ..).coreWork

theorem write_coreWork (sp : Sp) (unit a : Nat) (bs : List (Option Byte)) (ps : List Bool) :
    CoreWork s (s.write sp unit a bs ps) := by
  obtain ⟨_, _, _, _, _, _, h⟩ := write_frame s sp unit a bs ps
  rw [h]
  exact .of_regs rfl rfl rfl

theorem writeRun_coreWork (cls a : Nat) (bs : List Byte) (p : Bool) : CoreWork s (s.writeRun t c cls a bs p) := by
  obtain ⟨_, h⟩ := writeRun_frame s t c cls a bs p
  rw [h]
  exact (write_coreWork ..).trans (.of_regs rfl rfl rfl)

theorem mergeFlags_coreWork (cls : Nat) (f : BitVec 4) : CoreWork s (s.mergeFlags t c cls f) :=
  (updBank_coreWork ..).trans (foldl_coreWork (fun _ _ => (markFresh_signals ..).coreWork) _ _)

theorem raiseAb_coreWork : CoreWork s (s.raiseAb t c) := (updBank_coreWork ..).trans (markFresh_signals ..).coreWork

/-! ### The pipeline -/

theorem checkRing_coreWork : CoreWork s (s.checkRing t c) := by
  have hupd : ∀ f, CoreWork s (s.updDisp t c f) := fun f => updCore_coreWork ..
  unfold State.checkRing
  extract_lets bad s'
  split
  · exact (hupd _).trans (flag_coreWork ..)
  · exact hupd _

theorem sawStore_coreWork (a n : Nat) : CoreWork s (s.sawStore t c a n) := by
  unfold State.sawStore
  extract_lets b
  split
  · exact (updCore_coreWork ..).trans (checkRing_coreWork ..)
  · exact .refl s

theorem applyWrite_coreWork (cls : Nat) (w : PendWrite) : CoreWork s (s.applyWrite t c cls w) := by
  unfold State.applyWrite
  split
  · exact (writeRun_coreWork ..).trans (sawStore_coreWork ..)
  · exact write_coreWork ..
  · exact mergeFlags_coreWork ..
  · exact updBank_coreWork ..

theorem retireFrom_coreWork (cls d n : Nat) : CoreWork s (s.retireFrom t c cls d n) := by
  induction n generalizing s d with
  | zero => exact .refl s
  | succ n ih =>
    have hset : ∀ b, CoreWork s (s.setBank t c cls b) := fun _ => .of_regs rfl rfl rfl
    exact ((hset _).trans (foldl_coreWork (fun _ _ => applyWrite_coreWork ..) _ _)).trans (ih ..)

theorem deactivate_coreWork (cls : Nat) : CoreWork s (s.deactivate t c cls) :=
  ((retireFrom_coreWork ..).trans (updBank_coreWork ..)).trans (updCore_coreWork ..)

/-! ### The units of a core -/

theorem stopLaunches_coreWork (cls : Nat) : CoreWork s (s.stopLaunches t c cls) :=
  (updCore_coreWork ..).trans (updBank_coreWork ..)

theorem cancelStreams_coreWork (f : Stream → Bool) : CoreWork s (s.cancelStreams t c f) := by
  unfold State.cancelStreams
  extract_lets gone s1 sis s2
  have h : CoreWork s s2 := (updCore_coreWork ..).trans (foldl_coreWork (fun _ _ => updBank_coreWork ..) _ _)
  split
  · exact h
  · exact h.trans (setReg_coreWork _ _ _ _ _ (by decide) (by decide) (by decide))

theorem countLines_coreWork (n : Nat) : CoreWork s (s.countLines t c n) := by
  unfold State.countLines
  split
  · exact .refl s
  · exact (setReg_coreWork _ _ _ _ _ (by decide) (by decide) (by decide)).trans
      (setReg_coreWork _ _ _ _ _ (by decide) (by decide) (by decide))

theorem writeOuts_coreWork (cls : Nat) (l : List OutWrite) : CoreWork s (s.writeOuts t c cls l) := by
  induction l generalizing s with
  | nil => exact .refl s
  | cons o r ih => exact (writeRun_coreWork ..).trans (ih _)

theorem abandon_coreWork : CoreWork s (s.abandon t c) := by
  unfold State.abandon
  extract_lets q qd ex ld n q1 q2 q3 s1 s2 s3 s4
  have h2 : CoreWork s s2 := ((updCore_coreWork ..).trans (raiseAb_coreWork ..)).trans (updBank_coreWork ..)
  have hout : ∀ l : List MulExec, CoreWork s (match l with
      | m :: _ => s2.writeOuts t c 2 (m.outs.take (Config.freeNat (s2.free + 1) % (m.outs.length + 1)))
      | [] => s2) := fun l => by
    cases l with
    | nil => exact h2
    | cons m _ => exact h2.trans (writeOuts_coreWork ..)
  have h3 : CoreWork s s3 := hout ex
  have h4 : CoreWork s { s4 with free := s4.free + 2 + ex.length } :=
    (h3.trans (countLines_coreWork ..)).trans (.of_regs rfl rfl rfl)
  split
  · exact .refl s
  · exact h4.trans (setReg_coreWork _ _ _ _ _ (by decide) (by decide) (by decide))

theorem dropQuad_coreWork (cls : Nat) : CoreWork s (s.dropQuad t c cls) := by
  unfold State.dropQuad
  extract_lets free ex s1
  have h : CoreWork s s1 := countLines_coreWork ..
  exact h.trans (.of_regs rfl rfl rfl)

theorem parkTask_coreWork (k : Task) : CoreWork s (s.parkTask t c k) := by
  unfold State.parkTask
  split
  · exact updCore_coreWork ..
  · exact flag_coreWork ..

theorem endTask_coreWork : CoreWork s (s.endTask t c) := by
  unfold State.endTask
  extract_lets d s'
  have h : CoreWork s s' := updCore_coreWork ..
  split
  · exact h
  · split
    · exact h.trans (parkTask_coreWork ..)
    · exact h.trans (setReg_coreWork _ _ _ _ _ (by decide) (by decide) (by decide))

theorem endUnits2_coreWork : CoreWork s (s.endUnits2 t c) :=
  ((abandon_coreWork ..).trans (stopLaunches_coreWork ..)).trans (cancelStreams_coreWork ..)

theorem endClass2_coreWork : CoreWork s (s.endClass2 t c) := by
  unfold State.endClass2
  extract_lets task s'
  have h : CoreWork s s' := (endUnits2_coreWork ..).trans (deactivate_coreWork ..)
  split
  · exact h.trans (endTask_coreWork ..)
  · exact h

theorem emptyHolding_coreWork : CoreWork s (s.emptyHolding t c) := .of_regs rfl rfl rfl

theorem stopCore_coreWork : CoreWork s (s.stopCore t c) := by
  unfold State.stopCore
  extract_lets s1 s2 fresh s3
  have h1 : CoreWork s s1 := by
    show CoreWork s (if (s.bank t c 2).active then s.endClass2 t c else s)
    split
    · exact endClass2_coreWork ..
    · exact .refl s
  have h2 : CoreWork s s2 := h1.trans (cancelStreams_coreWork ..)
  have h3 : CoreWork s2 s3 := by
    refine foldl_coreWork (fun s cls => ?_) _ _
    exact ((dropQuad_coreWork s t c cls).trans (stopLaunches_coreWork ..)).trans (updBank_coreWork ..)
  have h4 : CoreWork s (s3.updCore t c Core.reissue) := (h2.trans h3).trans (updCore_coreWork ..)
  exact h4.trans (emptyHolding_coreWork ..)

theorem stopTile_coreWork : CoreWork s (s.stopTile t) := foldl_coreWork (fun _ _ => stopCore_coreWork ..) _ _
end

end Sys2Proof.Machine
end

section
/-! PROOFS. What the deadline of a timetable entry does (R44, R48, R49), and the statement about the walk and the deadlines. -/

namespace Sys2Proof.Machine

section
variable {s t u : State}

theorem Charges.of_signals {da ref ckind fkind loc : Nat} (h : Signals s t) (k : Charges t u da ref ckind fkind loc) :
    Charges s u da ref ckind fkind loc := by
  unfold Charges at k ⊢
  rw [h.tick] at k
  exact k.of_keepsSent h.sent

/-- A violation reports the entry, charges the unit as confirmed or suspect, and ends the watch of the entry (R48). -/
theorem violation_spec (s : State) (da i cls tick ref : Nat) :
    let u := s.violation da i cls tick ref
    Reports s u da cls 0x01 ref i ∧ (∃ k, k < 2 ∧ Charges s u da ref k 0x01 noRef) ∧ (i, tick) ∉ u.pacer.watch := by
  unfold State.violation
  extract_lets s1 s2
  have hset : KeepsSent s2 (s2.setPacer { s2.pacer with watch := s2.pacer.watch.filter fun w => w != (i, tick) }) :=
    .of_net rfl (.of_regs rfl)
  have h1 : Signals s s1 := report_signals ..
  have h2 : Signals s1 s2 := (charge_signals ..).trans (draw_signals _)
  refine ⟨(report_reports ..).mono (h2.sent.trans hset), ⟨if Config.freeBool s1.free then ckConfirmed else ckSuspect, ?_, ?_⟩, ?_⟩
  · split <;> decide
  · exact .of_signals h1 ((charge_charges s1 ..).mono ((draw_signals _).sent.trans hset))
  · show (i, tick) ∉ s2.pacer.watch.filter fun w => w != (i, tick)
    simp

theorem chargeReplays_signals (s : State) (n : Nat) : Signals s (s.chargeReplays n) := by
  refine foldl_signals (fun s x => ?_) _ _
  dsimp only
  split
  · exact (((charge_signals ..).trans (draw_signals _)).trans (draw_signals _)).trans (draw_signals _)
  · exact draw_signals s

theorem chargeChannels_signals (s : State) (n : Nat) : Signals s (s.chargeChannels n) := by
  refine foldl_signals (fun s x => ?_) _ _
  dsimp only
  split
  · exact ((charge_signals ..).trans (draw_signals _)).trans (draw_signals _)
  · exact draw_signals s

/-! ### Classes 0 and 1 -/

/-- The unit that a missed deadline of class 0 or 1 charges: the core of the entry, or the die store of its die (R48). -/
def State.missedRef (s : State) (e : TtEntry) : Nat :=
  match s.entryCore e with
  | some (t, c) => if e.kind = 2 then ledgerRef (s.entryDA e) 0x04 0 else coreRef t c
  | none => ledgerRef (s.entryDA e) 0x04 0

/-- What a missed deadline of class 0 or 1 does (R48, R235, R276). -/
def State.missDeadline (s : State) (i n : Nat) (e : TtEntry) : State :=
  let v := ((s.unwatch i n).violation (s.entryDA e) i e.cls n (s.missedRef e)).chargeReplays n
  if e.cls = 1 then v.chargeChannels n else v

theorem missDeadline_spec (s : State) (i n : Nat) (e : TtEntry) :
    let u := s.missDeadline i n e
    (∃ ref k, Reports s u (s.entryDA e) e.cls 0x01 ref i ∧ Charges s u (s.entryDA e) ref k 0x01 noRef ∧ k < 2) ∧
      (i, n) ∉ u.pacer.watch := by
  obtain ⟨hrep, ⟨k, hk, hcharge⟩, hwatch⟩ := violation_spec (s.unwatch i n) (s.entryDA e) i e.cls n (s.missedRef e)
  have hin : KeepsSent s (s.unwatch i n) := .of_net rfl (.of_regs rfl)
  have hout : Signals ((s.unwatch i n).violation (s.entryDA e) i e.cls n (s.missedRef e)) (s.missDeadline i n e) := by
    unfold State.missDeadline
    extract_lets v
    have hv : Signals ((s.unwatch i n).violation (s.entryDA e) i e.cls n (s.missedRef e)) v := chargeReplays_signals ..
    split
    · exact hv.trans (chargeChannels_signals ..)
    · exact hv
  refine ⟨⟨s.missedRef e, k, (hrep.of_keepsSent hin).mono hout.sent, (hcharge.of_keepsSent hin).mono hout.sent, hk⟩, ?_⟩
  rwa [hout.pacer]

/-! ### Class 2 -/

theorem reissueAfter_bank (k : Core) (cls b : Nat) : (k.reissueAfter cls).bank b = k.bank b := by
  unfold Core.reissueAfter
  split <;> rfl

theorem deactivate_inactive (s : State) (t c cls : Nat) : ((s.deactivate t c cls).bank t c cls).active = false := by
  simp [State.deactivate, State.bank, reissueAfter_bank]

/-- The program of class 2 that ends is no longer active (R149). -/
theorem endClass2_inactive (s : State) (t c : Nat) (h : (s.bank t c 2).isTask = false) :
    ((s.endClass2 t c).bank t c 2).active = false := by
  simp [State.endClass2, h, deactivate_inactive]

theorem updBank_str (s : State) (t c cls : Nat) (f : Bank → Bank) :
    ((s.updBank t c cls f).core t c).str = (s.core t c).str := by
  simp

/-- The queues and the wait for them without the streams that `f` names. -/
def StrUnit.without (u : StrUnit) (f : Stream → Bool) : StrUnit :=
  { streams := u.streams.filter fun x => !f x, waiting := u.waiting.filter fun x => !f x }

theorem StrUnit.not_mem_without {u : StrUnit} {f : Stream → Bool} {x : Stream}
    (h : x ∈ (u.without f).streams ++ (u.without f).waiting) : f x = false := by
  simp only [StrUnit.without, List.mem_append, List.mem_filter] at h
  rcases h with ⟨-, h⟩ | ⟨-, h⟩ <;> simpa using h

/-- Cancelled streams have left the queues and the wait for them (R218). -/
theorem cancelStreams_str (s : State) (t c : Nat) (f : Stream → Bool) :
    ((s.cancelStreams t c f).core t c).str = (s.core t c).str.without f := by
  unfold State.cancelStreams
  extract_lets gone s1 sis s2
  have h : (s2.core t c).str = (s1.core t c).str := by
    show (((([0, 1, 2] : List Nat).foldl (fun s cls => s.updBank t c cls fun b => { b with outS := b.outS - sis cls }) s1)).core
      t c).str = _
    simp only [List.foldl_cons, List.foldl_nil, updBank_str]
  have h1 : (s1.core t c).str = (s.core t c).str.without f := by
    rw [State.updCore_core_self]
    rfl
  split <;> exact h.trans h1

/-- What a missed deadline of class 2 does at the entry's core, behind the flag (R49). -/
theorem estOverrun_of_entryCore {s : State} {e : TtEntry} {t c : Nat} (i n : Nat) (h : s.entryCore e = some (t, c)) :
    s.estOverrun i n e =
      if e.kind = 1 then
        if (s.bank t c 2).active && !(s.bank t c 2).isTask && (s.bank t c 2).entry == i && (s.bank t c 2).startTick == n
        then (s.flag pacerDA pgTkc 3).endClass2 t c else s.flag pacerDA pgTkc 3
      else if e.kind = 3 then (s.flag pacerDA pgTkc 3).cancelStreams t c fun x => decide (x.src = .timetable i n)
      else s.flag pacerDA pgTkc 3 := by
  have hflag : Signals s (s.flag pacerDA pgTkc 3) := flag_signals ..
  have hcore : (s.flag pacerDA pgTkc 3).entryCore e = some (t, c) := by
    obtain ⟨⟨_, _, _, _, _, _, hf⟩, -⟩ := hflag
    rw [hf]
    exact h
  have hbank : (s.flag pacerDA pgTkc 3).bank t c 2 = s.bank t c 2 := congrArg (·.bank 2) (hflag.core t c)
  simp only [State.estOverrun, hcore, hbank]

/-- EST_OVERRUN (R49). -/
theorem estOverrun_flagged (s : State) (i n : Nat) (e : TtEntry) :
    bit ((s.estOverrun i n e).reg pacerDA pgTkc 0x014) 3 = true := by
  have hset : bit ((s.flag pacerDA pgTkc 3).reg pacerDA pgTkc 0x014) 3 = true := flag_sets_bit s _ _ (by decide)
  have hwork : CoreWork (s.flag pacerDA pgTkc 3) (s.estOverrun i n e) := by
    unfold State.estOverrun
    extract_lets v
    split
    · exact .refl v
    · split
      · extract_lets b
        split
        · exact endClass2_coreWork ..
        · exact .refl v
      · split
        · exact cancelStreams_coreWork ..
        · exact .refl v
  exact hwork.faults _ _ _ (by decide) hset

/-- The program that the entry started ends (R49, R149). -/
theorem estOverrun_program {e : TtEntry} {t c i n : Nat} (h : s.entryCore e = some (t, c)) (hkind : e.kind = 1)
    (hact : (s.bank t c 2).active = true) (htask : (s.bank t c 2).isTask = false) (hentry : (s.bank t c 2).entry = i)
    (hstart : (s.bank t c 2).startTick = n) : ((s.estOverrun i n e).bank t c 2).active = false := by
  rw [estOverrun_of_entryCore i n h, if_pos hkind, if_pos (by simp [hact, htask, hentry, hstart])]
  refine endClass2_inactive _ t c ?_
  rwa [State.bank, (flag_signals ..).core]

/-- The streams that the entry issued are cancelled (R49, R218). -/
theorem estOverrun_streams {e : TtEntry} {t c i n : Nat} (h : s.entryCore e = some (t, c)) (hkind : e.kind = 3) :
    ∀ x ∈ ((s.estOverrun i n e).core t c).str.streams ++ ((s.estOverrun i n e).core t c).str.waiting, x.src ≠ .timetable i n := by
  intro x hx
  rw [estOverrun_of_entryCore i n h, if_neg (by omega), if_pos hkind, cancelStreams_str] at hx
  simpa using StrUnit.not_mem_without hx

/-! ### The command -/

theorem exec_deadline {i n : Nat} {e : TtEntry} (he : s.ttEntry i = some e)
    (hw : (s.pacer.watch.find? fun w => w.1 == i && s.elapsed w.2 == e.at_ + e.span) = some (i, n)) :
    exec (.deadline i) s = .next
      (if e.cls < 2 ∧ s.pacer.strobed = true then s
      else if s.actionDone i n e = true ∨ s.entryGone e = true then s.unwatch i n
      else if e.cls < 2 then s.missDeadline i n e
      else (s.unwatch i n).estOverrun i n e) := by
  show execDeadline i s = _
  simp only [execDeadline, he, hw, Bool.and_eq_true, decide_eq_true_eq, Bool.or_eq_true]
  rfl

/-- Settles O31: the walk by induction over the entries that it has still to pass (`walkEntries_walked`), the deadline by the branches
of the command. -/
theorem timetableDispatchAndDeadlines : Obligations.TimetableDispatchAndDeadlines := by
  refine ⟨⟨fun s hp hs hnext hlt => ?_, fun s n lim h => ?_, fun s h => ⟨s, exec_timetableDispatch_idle h, rfl⟩⟩,
    fun s i e n he hw => ?_⟩
  · refine ⟨_, exec_timetableDispatch_running hp hs, ?_⟩
    rw [if_pos ⟨hnext, hlt⟩]
    exact walkFor_dispatches ..
  · exact ⟨_, exec_timetableDispatch_ahead h, walkAhead_dispatches ..⟩
  · have hexec := exec_deadline he hw
    refine ⟨fun hc hs => ⟨_, hexec, if_pos ⟨hc, hs⟩⟩, fun hstrobe => ⟨fun hdone => ⟨_, hexec, ?_⟩, fun hdone hgone hc => ⟨_, hexec, ?_⟩,
      fun hdone hgone hc => ⟨_, hexec, ?_⟩⟩⟩
    · rw [if_neg fun h => by simp [hstrobe h.1] at h, if_pos hdone]
    · rw [if_neg fun h => by simp [hstrobe h.1] at h, if_neg (by simp [hdone, hgone]), if_pos hc]
      exact missDeadline_spec ..
    · rw [if_neg fun h => by omega, if_neg (by simp [hdone, hgone]), if_neg (by omega)]
      exact ⟨estOverrun_flagged .., fun t c hcore => ⟨estOverrun_program (s := s.unwatch i n) hcore,
        estOverrun_streams (s := s.unwatch i n) hcore⟩⟩
end

end Sys2Proof.Machine
end

section
/-! PROOFS. What a tick edge, an ARM and a DISARM do (R36, R37, R41, R42, R386, R391, R442, R444). -/

namespace Sys2Proof.Machine

/-! ### What leaves the tick alone -/

/-- The tick of the Pacer stands but for the entries watched, and so does the package time. -/
structure KeepsTick (s u : State) : Prop where
  pacer : ∃ w, u.pacer = { s.pacer with watch := w }
  boot : u.boot = s.boot

section
variable {s t u : State}

theorem KeepsTick.of_eq (hp : u.pacer = s.pacer) (hb : u.boot = s.boot) : KeepsTick s u := ⟨⟨s.pacer.watch, hp⟩, hb⟩

theorem KeepsTick.refl (s : State) : KeepsTick s s := .of_eq rfl rfl

theorem KeepsTick.trans (h : KeepsTick s t) (k : KeepsTick t u) : KeepsTick s u := by
  obtain ⟨⟨v, hv⟩, hb⟩ := h
  obtain ⟨⟨w, hw⟩, kb⟩ := k
  exact ⟨⟨w, by rw [hw, hv]⟩, kb.trans hb⟩

theorem CoreWork.keepsTick (h : CoreWork s u) : KeepsTick s u := .of_eq h.pacer h.boot

theorem Signals.keepsTick (h : Signals s u) : KeepsTick s u := h.coreWork.keepsTick

theorem foldl_keepsTick {α : Type} {f : State → α → State} (h : ∀ s a, KeepsTick s (f s a)) (l : List α) (s : State) :
    KeepsTick s (l.foldl f s) := by
  induction l generalizing s with
  | nil => exact .refl s
  | cons a l ih => exact (h s a).trans (ih _)

theorem KeepsTick.tick (h : KeepsTick s u) : u.tick = s.tick := by
  obtain ⟨⟨w, hw⟩, -⟩ := h
  simp [State.tick, hw]

theorem KeepsTick.stretch (h : KeepsTick s u) : u.pacer.stretch = s.pacer.stretch := by
  obtain ⟨⟨w, hw⟩, -⟩ := h
  simp [hw]
end

/-! ### Retirements and rejoins at an edge (R390, R393, R397) -/

section
variable (s : State)

theorem setReg_keepsTick (da page off v i : Nat) : KeepsTick s (s.setReg da page off v i) := .of_eq rfl rfl

theorem write_keepsTick (sp : Sp) (unit a : Nat) (bs : List (Option Byte)) (ps : List Bool) :
    KeepsTick s (s.write sp unit a bs ps) := (write_coreWork ..).keepsTick

theorem copyGrans_keepsTick (sp sp' : Sp) (unit unit' a a' n : Nat) : KeepsTick s (s.copyGrans sp sp' unit unit' a a' n) :=
  write_keepsTick ..

theorem copyList_keepsTick (t c : Nat) (toDie : Bool) (d : Nat) (l : List Nat) : KeepsTick s (s.copyList t c toDie d l) := by
  induction l generalizing s d with
  | nil => exact .refl s
  | cons a r ih =>
    unfold State.copyList
    split <;> exact (copyGrans_keepsTick ..).trans (ih ..)

theorem restoreRange_keepsTick (t c k : Nat) (cls2 : Bool) (j : Nat) : KeepsTick s (s.restoreRange t c k cls2 j) :=
  copyGrans_keepsTick ..

theorem rollbackCore_keepsTick (t c k : Nat) (older : Bool) : KeepsTick s (s.rollbackCore t c k older).1 :=
  (restoreRange_keepsTick ..).trans (.of_eq rfl rfl)

theorem spareImage_keepsTick (t sp k : Nat) : KeepsTick s (s.spareImage t sp k) := by
  unfold State.spareImage
  extract_lets b s1 s2 s3
  have h1 : KeepsTick s s1 := copyGrans_keepsTick ..
  have h2 : KeepsTick s1 s2 := copyGrans_keepsTick ..
  have h3 : KeepsTick s2 s3 := (updCore_coreWork ..).keepsTick
  exact ((h1.trans h2).trans h3).trans (copyList_keepsTick ..)

theorem spareCopy_keepsTick (t c sp k : Nat) : KeepsTick s (s.spareCopy t c sp k) := by
  unfold State.spareCopy
  extract_lets da s1 s2
  have h1 : KeepsTick s s1 := foldl_keepsTick (fun _ _ => setReg_keepsTick ..) _ _
  have h2 : KeepsTick s1 s2 := foldl_keepsTick (fun _ _ => setReg_keepsTick ..) _ _
  exact (h1.trans h2).trans (spareImage_keepsTick ..)

theorem spareSteps_keepsTick (ref : Nat) : KeepsTick s (s.spareSteps ref) := by
  unfold State.spareSteps
  split
  extract_lets k
  split
  next sp _ =>
    split
    · extract_lets s1 s2
      have h1 : KeepsTick s s1 := spareCopy_keepsTick ..
      have h2 : KeepsTick s1 s2 := restoreRange_keepsTick ..
      exact (h1.trans h2).trans (rollbackCore_keepsTick ..)
    · exact .refl s
  · exact .refl s

theorem setKeeper_keepsTick (k : Keeper) : KeepsTick s (s.setKeeper k) := .of_eq rfl rfl

theorem setPlace_keepsTick (p : Placement) : KeepsTick s (s.setPlace p) := .of_eq rfl rfl

theorem retireDie_keepsTick (t : Nat) : KeepsTick s (s.retireDie t) := by
  unfold State.retireDie
  extract_lets p s1
  have h1 : KeepsTick s s1 := setPlace_keepsTick ..
  split
  · exact .refl s
  · split
    · exact h1
    · extract_lets s2 loads s3
      have h3 : KeepsTick s s3 := (h1.trans (setPlace_keepsTick ..)).trans (setKeeper_keepsTick ..)
      split
      · exact h3.trans (setKeeper_keepsTick ..)
      · exact (h3.trans (setPlace_keepsTick ..)).trans (setKeeper_keepsTick ..)

theorem retireCore_keepsTick (t c : Nat) : KeepsTick s (s.retireCore t c) := by
  have hset : KeepsTick s (s.setPlace (s.place.retireCore t c)) := .of_eq rfl rfl
  unfold State.retireCore
  split
  · exact .refl s
  · split
    · exact hset.trans (retireDie_keepsTick ..)
    · exact .of_eq rfl rfl

theorem markRetired_keepsTick (ref : Nat) : KeepsTick s (s.markRetired ref) := by
  have hrec : KeepsTick s (s.setRec ref { s.ledRec ref with state := 3 }) := .of_eq rfl rfl
  exact hrec.trans (event_signals ..).keepsTick

theorem retireUnit_keepsTick (ref : Nat) : KeepsTick s (s.retireUnit ref) := by
  unfold State.retireUnit
  extract_lets t tile s1 retired s2
  have h1 : KeepsTick s s1 := markRetired_keepsTick ..
  have hdie : KeepsTick s (s1.retireDie t) := h1.trans (retireDie_keepsTick ..)
  have hcore : ∀ c, KeepsTick s (s1.retireCore t c) := fun c => h1.trans (retireCore_keepsTick ..)
  have h2 : KeepsTick s s2 := h1.trans (setKeeper_keepsTick ..)
  split
  · exact .refl s
  · split
    · exact hcore _
    · exact hcore _
    · exact hdie
    · exact hdie
    · split
      · exact hdie
      · exact h1
    · split
      · exact hdie
      · exact h1
    · split
      · exact h2.trans (retireDie_keepsTick ..)
      · exact h2
    · exact h1

theorem applyRetirements_keepsTick (steps : Bool) : KeepsTick s (s.applyRetirements steps) := by
  have hset : KeepsTick s (s.setKeeper { s.keeper with applying := [] }) := .of_eq rfl rfl
  refine hset.trans (foldl_keepsTick (fun s r => ?_) _ _)
  split
  · exact (spareSteps_keepsTick ..).trans (retireUnit_keepsTick ..)
  · exact retireUnit_keepsTick ..

theorem copyEntry_keepsTick (key : Nat) : KeepsTick s (s.copyEntry key) := by
  unfold State.copyEntry
  split
  next t c p t2 _ _ _ =>
    extract_lets x
    split
    next n _ =>
    extract_lets s1 s2
    have h1 : KeepsTick s s1 := copyGrans_keepsTick ..
    have h2 : KeepsTick s1 s2 := .of_eq rfl rfl
    exact (h1.trans h2).trans (restoreRange_keepsTick ..)
  · exact .refl s

theorem rejoinCore_keepsTick (key : Nat) : KeepsTick s (s.rejoinCore key) := by
  unfold State.rejoinCore
  extract_lets n die s1 loads s2
  have h2 : KeepsTick s s2 := (setPlace_keepsTick ..).trans (setKeeper_keepsTick ..)
  exact h2.trans (copyEntry_keepsTick ..)
end

/-! ### The chores of an edge -/

/-- The tick stands but for the entries watched, and so do tallies, clearings, the escrow and the Mint's shutdown. -/
structure EdgeWork (s u : State) : Prop extends KeepsTick s u where
  tallies : u.tallies = s.tallies
  clearings : u.clearings = s.clearings
  escrow : u.escrow = s.escrow
  shutdown : u.mint.shutdown = s.mint.shutdown

section
variable {s t u : State}

theorem EdgeWork.refl (s : State) : EdgeWork s s := ⟨.refl s, rfl, rfl, rfl, rfl⟩

theorem EdgeWork.trans (h : EdgeWork s t) (k : EdgeWork t u) : EdgeWork s u :=
  ⟨h.toKeepsTick.trans k.toKeepsTick, k.tallies.trans h.tallies, k.clearings.trans h.clearings, k.escrow.trans h.escrow,
    k.shutdown.trans h.shutdown⟩

theorem Signals.edgeWork (h : Signals s u) : EdgeWork s u := by
  obtain ⟨⟨_, _, _, _, _, _, rfl⟩, -⟩ := h
  exact ⟨.of_eq rfl rfl, rfl, rfl, rfl, rfl⟩

theorem foldl_edgeWork {α : Type} {f : State → α → State} (h : ∀ s a, EdgeWork s (f s a)) (l : List α) (s : State) :
    EdgeWork s (l.foldl f s) := by
  induction l generalizing s with
  | nil => exact .refl s
  | cons a l ih => exact (h s a).trans (ih _)
end

section
variable (s : State)

theorem setReg_edgeWork (da page off v i : Nat) : EdgeWork s (s.setReg da page off v i) := ⟨.of_eq rfl rfl, rfl, rfl, rfl, rfl⟩

theorem setOut_edgeWork (da g : Nat) (v : OutGroup) : EdgeWork s (s.setOut da g v) := ⟨.of_eq rfl rfl, rfl, rfl, rfl, rfl⟩

theorem setTeller_edgeWork (da i : Nat) (v : Teller) : EdgeWork s (s.setTeller da i v) := ⟨.of_eq rfl rfl, rfl, rfl, rfl, rfl⟩

theorem violation_edgeWork (da i cls tick ref : Nat) : EdgeWork s (s.violation da i cls tick ref) := by
  unfold State.violation
  extract_lets s1 s2
  have h : EdgeWork s s2 := (((report_signals ..).trans (charge_signals ..)).trans (draw_signals _)).edgeWork
  exact h.trans ⟨⟨⟨_, rfl⟩, rfl⟩, rfl, rfl, rfl, rfl⟩

theorem releaseViolation_edgeWork (da : Nat) (x : OutGroup) : EdgeWork s (s.releaseViolation da x) := by
  unfold State.releaseViolation
  split
  · exact violation_edgeWork ..
  · exact .refl s

theorem failFetch_edgeWork (e g : Nat) : EdgeWork s (s.failFetch e g) := by
  unfold State.failFetch
  extract_lets da x s1
  have h1 : EdgeWork s s1 := (setOut_edgeWork ..).trans (flag_signals ..).edgeWork
  split
  · exact (h1.trans (report_signals ..).edgeWork).trans (releaseViolation_edgeWork ..)
  · exact h1

theorem lateFetches_edgeWork (n : Nat) : EdgeWork s (s.lateFetches n) := by
  refine foldl_edgeWork (fun s e => foldl_edgeWork (fun s g => ?_) _ _) _ _
  dsimp only
  split
  · exact failFetch_edgeWork ..
  · exact .refl s

theorem lateVerdicts_edgeWork (n : Nat) : EdgeWork s (s.lateVerdicts n) := by
  refine foldl_edgeWork (fun s y => ?_) _ _
  dsimp only
  split
  · exact .refl s
  · exact releaseViolation_edgeWork ..

theorem floorTokens_edgeWork : EdgeWork s s.floorTokens := by
  refine foldl_edgeWork (fun s da => ?_) _ _
  dsimp only
  split
  · exact .refl s
  · exact foldl_edgeWork (fun s i => setTeller_edgeWork ..) _ _

theorem mintEdge_edgeWork (len : Nat) : EdgeWork s (s.mintEdge len) := by
  unfold State.mintEdge
  extract_lets m b exceeded log late s1 s2 s3
  have h1 : EdgeWork s s1 := by
    show EdgeWork s (if late then s.flag pacerDA pgMnt 2 else s)
    split
    · exact (flag_signals ..).edgeWork
    · exact .refl s
  have h2 : EdgeWork s s2 := h1.trans (setReg_edgeWork ..)
  have h3 : EdgeWork s s3 := ⟨h2.toKeepsTick.trans (.of_eq rfl rfl), h2.tallies, h2.clearings, h2.escrow, rfl⟩
  exact h3.trans ⟨.of_eq rfl rfl, rfl, rfl, rfl, rfl⟩

theorem zeroAllowances_edgeWork : EdgeWork s s.zeroAllowances := ⟨.of_eq rfl rfl, rfl, rfl, rfl, rfl⟩

theorem strobeTick_edgeWork : EdgeWork s s.strobeTick := ⟨.of_eq rfl rfl, rfl, rfl, rfl, rfl⟩

theorem mintArm_edgeWork : EdgeWork s s.mintArm := ⟨.of_eq rfl rfl, rfl, rfl, rfl, rfl⟩

/-- Tick `n` begins (R37). -/
theorem beginTick_spec (n : Nat) :
    let u := s.beginTick n
    u.pacer.phase = .running ∧ u.pacer.tick = n ∧ u.pacer.cycle = 0 ∧ u.pacer.stretch = s.pacer.stretch ∧
      u.tallies = [] ∧ u.clearings = [] ∧ u.escrow = s.escrow := by
  unfold State.beginTick
  extract_lets p len s1 since net flipped s2 s3
  have h3 : EdgeWork s2 s3 := ((zeroAllowances_edgeWork _).trans (floorTokens_edgeWork _)).trans (strobeTick_edgeWork _)
  have hu : EdgeWork s2 (if n = 0 then s3.mintArm else ((s3.mintEdge len).lateFetches (n - 1)).lateVerdicts (n - 1)) := by
    split
    · exact h3.trans (mintArm_edgeWork _)
    · exact ((h3.trans (mintEdge_edgeWork ..)).trans (lateFetches_edgeWork ..)).trans (lateVerdicts_edgeWork ..)
  obtain ⟨⟨⟨w, hw⟩, -⟩, htally, hclear, hesc, -⟩ := hu
  rw [hw, htally, hclear, hesc]
  exact ⟨rfl, rfl, rfl, rfl, rfl, rfl, rfl⟩
end

end Sys2Proof.Machine
end

section
/-! PROOFS. The stop line at an ARM's end and at a disarming edge (R322, R323, R327), and the statement about tick edges, ARM and
DISARM. -/

namespace Sys2Proof.Machine

/-! ### Stop groups (R323) -/

/-- Stop group `g` of edge die `e` is tripped. -/
def State.Tripped (s : State) (e g : Nat) : Prop := (s.edge e).tripped.getLsbD g = true

/-- Every stop group that is tripped stays tripped. -/
def KeepsTrips (s u : State) : Prop := ∀ e g, s.Tripped e g → u.Tripped e g

theorem KeepsTrips.of_edges {s u : State} (h : u.edges = s.edges) : KeepsTrips s u := fun e g ht => by
  unfold State.Tripped State.edge at ht ⊢
  rwa [h]

/-- An edge die with one more stop group tripped. -/
def EdgeDie.trip (x : EdgeDie) (g : Nat) : EdgeDie := { x with tripped := x.tripped ||| BitVec.ofNat 16 (2 ^ g) }

theorem EdgeDie.trip_keeps {x : EdgeDie} {g k : Nat} (h : x.tripped.getLsbD k = true) : (x.trip g).tripped.getLsbD k = true := by
  simp [EdgeDie.trip, h]

theorem EdgeDie.trip_self (x : EdgeDie) {g : Nat} (h : g < 16) : (x.trip g).tripped.getLsbD g = true := by
  rw [EdgeDie.trip, BitVec.getLsbD_or, BitVec.getLsbD_ofNat, Nat.testBit_two_pow_self]
  simp [h]

/-- A group trips, with its record, report and event, unless it is tripped already or its die has none of that number. -/
theorem tripGroup_cases (s : State) (e g source : Nat) :
    (s.tripGroup e g source = s ∧ (s.Tripped e g ∨ sgCount e ≤ g)) ∨
      ∃ r n h a f d l, s.tripGroup e g source = { s with
        edges := tput s.edges e ((s.edge e).trip g), regs := r, net := n, host := h, freshAt := a, fresh := f, free := d, lanes := l } := by
  unfold State.tripGroup
  extract_lets x da pg info isFirst s1 s2 s3 s4 s5 s6 lane
  split
  next h => exact .inl ⟨rfl, by simpa [State.Tripped] using h⟩
  next h =>
    have h2 : Signals s1 s2 := by
      have hinfo : info < 4092 ∧ 0x014 < info := by
        show (if isLink e = true then 0x0A8 else 0x048) < 4092 ∧ 0x014 < if isLink e = true then 0x0A8 else 0x048
        split <;> decide
      show Signals s1 (if isFirst = true then _ else s1)
      split
      · exact (setReg_signals _ _ _ _ _ (by omega) (by decide) (by omega)).trans
          (setReg_signals _ _ _ _ _ (by omega) (by decide) (by omega))
      · exact .refl s1
    have h5 : Signals s1 s5 := ((h2.trans (flag_signals ..)).trans (report_signals ..)).trans (event_signals ..)
    obtain ⟨⟨r, n, h, a, f, d, e5⟩, -⟩ := h5
    clear_value s5
    subst e5
    refine .inr ⟨r, n, h, a, f, d, ?_⟩
    split <;> exact ⟨_, rfl⟩

theorem tripGroup_edgeWork (s : State) (e g source : Nat) : EdgeWork s (s.tripGroup e g source) := by
  obtain ⟨h, -⟩ | ⟨_, _, _, _, _, _, _, h⟩ := tripGroup_cases s e g source <;> rw [h]
  · exact .refl s
  · exact ⟨.of_eq rfl rfl, rfl, rfl, rfl, rfl⟩

theorem tripGroup_keepsTrips (s : State) (e g source : Nat) : KeepsTrips s (s.tripGroup e g source) := by
  obtain ⟨h, -⟩ | ⟨_, _, _, _, _, _, _, h⟩ := tripGroup_cases s e g source <;> rw [h]
  · exact .of_edges rfl
  · intro e' g' ht
    unfold State.Tripped State.edge at ht ⊢
    dsimp only
    rw [tget_tput]
    split
    next he => subst he; exact EdgeDie.trip_keeps ht
    · exact ht

theorem sgCount_le (e : Nat) : sgCount e ≤ 16 := by
  unfold sgCount
  split <;> decide

theorem tripGroup_trips (s : State) (source : Nat) {e g : Nat} (hg : g < sgCount e) : (s.tripGroup e g source).Tripped e g := by
  obtain ⟨h, hno⟩ | ⟨_, _, _, _, _, _, _, h⟩ := tripGroup_cases s e g source <;> rw [h]
  · exact hno.resolve_right (Nat.not_le.mpr hg)
  · unfold State.Tripped State.edge
    dsimp only
    rw [tget_tput_self]
    exact EdgeDie.trip_self _ (Nat.lt_of_lt_of_le hg (sgCount_le e))

/-- A fold whose steps keep the groups tripped keeps them, and trips what one of its steps trips. -/
theorem foldl_trips {α : Type} {f : State → α → State} (hk : ∀ s a, KeepsTrips s (f s a)) (l : List α) (s : State) {e g : Nat}
    (h : s.Tripped e g ∨ ∃ a ∈ l, ∀ s, (f s a).Tripped e g) : (l.foldl f s).Tripped e g := by
  induction l generalizing s with
  | nil =>
    obtain h | ⟨a, ha, -⟩ := h
    · exact h
    · cases ha
  | cons b l ih =>
    refine ih _ ?_
    obtain h | ⟨a, ha, h⟩ := h
    · exact .inl (hk s b e g h)
    · obtain rfl | ha := List.mem_cons.mp ha
      · exact .inl (h s)
      · exact .inr ⟨a, ha, h⟩

/-- What one die's part of the stop line does. -/
def State.stopDie (s : State) (e : Nat) : State := (List.range (sgCount e)).foldl (fun s g => s.tripGroup e g 0x40) s

theorem assertStop_eq (s : State) : s.assertStop = [0, 1, 2, 3, 4, 5].foldl State.stopDie s := by
  unfold State.assertStop State.tripWhere
  simp only [if_true]
  rfl

theorem stopDie_keepsTrips (s : State) (e : Nat) : KeepsTrips s (s.stopDie e) := fun _ _ ht =>
  foldl_trips (fun s g => tripGroup_keepsTrips s _ g _) _ _ (.inl ht)

theorem stopDie_trips (s : State) {e g : Nat} (hg : g < sgCount e) : (s.stopDie e).Tripped e g :=
  foldl_trips (fun s g => tripGroup_keepsTrips s _ g _) _ _ (.inr ⟨g, List.mem_range.mpr hg, fun s => tripGroup_trips s _ hg⟩)

/-- The stop line trips every group (R322 item 3). -/
theorem assertStop_trips (s : State) {e g : Nat} (he : e < 6) (hg : g < sgCount e) : s.assertStop.Tripped e g := by
  have hmem : e ∈ [0, 1, 2, 3, 4, 5] := by
    simp only [List.mem_cons, List.not_mem_nil, or_false]
    omega
  rw [assertStop_eq]
  exact foldl_trips stopDie_keepsTrips _ _ (.inr ⟨e, hmem, fun s => stopDie_trips s hg⟩)

theorem assertStop_edgeWork (s : State) : EdgeWork s s.assertStop := by
  rw [assertStop_eq]
  exact foldl_edgeWork (fun _ _ => foldl_edgeWork (fun _ _ => tripGroup_edgeWork ..) _ _) _ _

/-! ### Generations at an edge (R386) -/

theorem tget?_map {α : Type} (f : α → α) (t : Table α) (k : Nat) :
    tget? (t.map fun x => (x.1, f x.2)) k = (tget? t k).map f := by
  induction t with
  | nil => rfl
  | cons x r ih =>
    obtain ⟨j, w⟩ := x
    by_cases h : j = k <;> simp [tget?, h, ih]

theorem tget_map {α : Type} (f : α → α) (t : Table α) (k : Nat) {d : α} (hd : f d = d) :
    tget (t.map fun x => (x.1, f x.2)) k d = f (tget t k d) := by
  unfold tget
  rw [tget?_map]
  cases tget? t k <;> simp [hd]

theorem esc_of_escrow {s u : State} (h : u.escrow = s.escrow) (t k : Nat) (cls2 : Bool) : u.esc t k cls2 = s.esc t k cls2 := by
  rw [State.esc, State.esc, h]

theorem endGens_esc_confirm (s : State) (t k : Nat) (cls2 : Bool) : (s.endGens true).esc t k cls2 = (s.esc t k cls2).confirm :=
  tget_map Escrow.confirm s.escrow _ rfl

theorem endGens_esc_drop (s : State) (t k : Nat) (cls2 : Bool) : (s.endGens false).esc t k cls2 = (s.esc t k cls2).drop :=
  tget_map Escrow.drop s.escrow _ rfl

/-! ### The disarming edge (R42) -/

theorem takeFailedLink_edgeWork (s : State) : EdgeWork s s.takeFailedLink := by
  unfold State.takeFailedLink
  split
  · exact ⟨.of_eq rfl rfl, rfl, rfl, rfl, rfl⟩
  · exact .refl s

theorem takeFailedLink_edges (s : State) : s.takeFailedLink.edges = s.edges := by
  unfold State.takeFailedLink
  split <;> rfl

/-- The reset of dies leaves every stop group tripped, and the phase (R428). -/
theorem dropDies_trips (s : State) {e g : Nat} (hg : g < sgCount e) : s.dropDies.Tripped e g := by
  have hedges : s.dropDies.edges = [] := rfl
  have h16 : g < 16 := Nat.lt_of_lt_of_le hg (sgCount_le e)
  unfold State.Tripped State.edge
  rw [hedges]
  show (0xFFFF : BitVec 16).getLsbD g = true
  rw [show (0xFFFF : BitVec 16) = BitVec.allOnes 16 from rfl, BitVec.getLsbD_allOnes]
  simpa using h16

theorem dropDies_phase (s : State) : s.dropDies.pacer.phase = s.pacer.phase := rfl

theorem disarmEdge_spec (s : State) :
    s.disarmEdge.pacer.phase = .disarmed ∧ (∀ e g, e < 6 → g < sgCount e → s.disarmEdge.Tripped e g) ∧
      (s.mint.shutdown = false → ∀ t k cls2, s.disarmEdge.esc t k cls2 = (s.esc t k cls2).drop) := by
  unfold State.disarmEdge
  extract_lets p len ran s1 keeper s2 s3 s4 s5 mint s6
  have h5 : EdgeWork s4 s5 := (((zeroAllowances_edgeWork _).trans (mintEdge_edgeWork ..)).trans (assertStop_edgeWork _)).trans
    (takeFailedLink_edgeWork _)
  have h6 : EdgeWork s4 s6 := h5.trans ⟨.of_eq rfl rfl, rfl, rfl, rfl, rfl⟩
  have hphase : s6.pacer.phase = .disarmed := by
    obtain ⟨w, hw⟩ := h6.pacer
    rw [hw]
    rfl
  have htrips : ∀ e g, e < 6 → g < sgCount e → s6.Tripped e g := fun e g he hg =>
    KeepsTrips.of_edges (takeFailedLink_edges _) e g (assertStop_trips _ he hg)
  have hshut : s6.mint.shutdown = s.mint.shutdown := h6.shutdown
  have hesc : ∀ t k cls2, s6.esc t k cls2 = (s.esc t k cls2).drop := fun t k cls2 =>
    (esc_of_escrow h6.escrow t k cls2).trans (endGens_esc_drop s t k cls2)
  split
  next h =>
    exact ⟨(dropDies_phase s6).trans hphase, fun e g _ hg => dropDies_trips s6 hg, fun hs => by simp [hshut, hs] at h⟩
  next => exact ⟨hphase, htrips, fun _ => hesc⟩

/-! ### Tick edges (R36, R37, R391) -/

section
variable {s : State}

theorem tickEdge_armed (hp : s.pacer.phase = .armed) (hr : s.pacer.rearm = none) : Yields .tickEdge s fun u =>
    u.pacer.phase = .running ∧ u.pacer.tick = 0 ∧ u.pacer.cycle = 0 ∧ u.tallies = [] ∧ u.clearings = [] := by
  let v := s.restartEdgeDies.applyRetirements false
  obtain ⟨hphase, htick, hcycle, -, htally, hclear, -⟩ :=
    beginTick_spec { v.setPacer { v.pacer with refEdges := [] } with verdicts := [] } 0
  refine ⟨_, ?_, hphase, htick, hcycle, htally, hclear⟩
  show execTickEdge s = _
  simp [execTickEdge, hp, hr]
  rfl

/-- The state in which the next tick begins: the generations written are confirmed and the stretch counted, then the retirements
and rejoins of the edge are applied (R386, R391, R393, R397). -/
def State.settled (s : State) : State :=
  let v := s.latchBarriers.endGens true
  v.setPacer { v.pacer with stretch := min (2 ^ 32 - 1) (v.pacer.stretch + v.stretchNow) }

def State.nextJob (s : State) : State := s.pacer.rejoin.foldl (fun s key => s.rejoinCore key) (s.settled.applyRetirements true)

theorem settled_pacer (s : State) : s.settled.tick = s.tick ∧
    s.settled.pacer.stretch = min (2 ^ 32 - 1) (s.pacer.stretch + (s.pacer.cycle - s.period)) := ⟨rfl, rfl⟩

theorem nextJob_keepsTick (s : State) : KeepsTick s.settled s.nextJob :=
  (applyRetirements_keepsTick ..).trans (foldl_keepsTick (fun _ _ => rejoinCore_keepsTick ..) _ _)

theorem nextJob_esc (s : State) (ha : s.keeper.applying = []) (hr : s.pacer.rejoin = []) (t k : Nat) (cls2 : Bool) :
    s.nextJob.esc t k cls2 = (s.esc t k cls2).confirm := by
  have happly : s.settled.keeper.applying = [] := ha
  unfold State.nextJob
  rw [hr, List.foldl_nil, State.applyRetirements, happly, List.foldl_nil]
  exact endGens_esc_confirm s t k cls2

theorem exec_tickEdge_running (hp : s.pacer.phase = .running) (hs : s.pacer.strobed = false) (hper : s.period ≤ s.pacer.cycle) :
    exec .tickEdge s = .next (if s.pacer.disarmAt then s.disarmEdge else s.nextJob.beginTick (s.nextJob.tick + 1)) := by
  show execTickEdge s = _
  simp only [execTickEdge, hp, hs, Nat.not_lt.mpr hper, decide_false, Bool.or_self, Bool.false_eq_true, if_false]
  rfl

theorem tickEdge_running (hp : s.pacer.phase = .running) (hs : s.pacer.strobed = false) (hper : s.period ≤ s.pacer.cycle)
    (hd : s.pacer.disarmAt = false) : Yields .tickEdge s fun u =>
      u.pacer.phase = .running ∧ u.pacer.tick = s.pacer.tick + 1 ∧ u.pacer.cycle = 0 ∧ u.tallies = [] ∧
      u.pacer.stretch = min (2 ^ 32 - 1) (s.pacer.stretch + (s.pacer.cycle - s.period)) ∧
      (s.keeper.applying = [] → s.pacer.rejoin = [] → ∀ t k c2, u.esc t k c2 = (s.esc t k c2).confirm) := by
  obtain ⟨hphase, htick, hcycle, hstretch, htally, -, hesc⟩ := beginTick_spec s.nextJob (s.nextJob.tick + 1)
  have hk := nextJob_keepsTick s
  obtain ⟨hst, hss⟩ := settled_pacer s
  refine ⟨_, exec_tickEdge_running hp hs hper, ?_⟩
  rw [hd, if_neg Bool.false_ne_true]
  refine ⟨hphase, ?_, hcycle, htally, ?_, fun ha hr t k c2 => ?_⟩
  · rw [htick, hk.tick, hst]
    rfl
  · rw [hstretch, hk.stretch, hss]
  · exact (esc_of_escrow hesc t k c2).trans (nextJob_esc s ha hr t k c2)

theorem tickEdge_disarms (hp : s.pacer.phase = .running) (hs : s.pacer.strobed = false) (hper : s.period ≤ s.pacer.cycle)
    (hd : s.pacer.disarmAt = true) : Yields .tickEdge s fun u =>
      u.pacer.phase = .disarmed ∧ (∀ e g, e < 6 → g < sgCount e → (u.edge e).tripped.getLsbD g = true) ∧
      (s.mint.shutdown = false → ∀ t k c2, u.esc t k c2 = (s.esc t k c2).drop) := by
  refine ⟨_, exec_tickEdge_running hp hs hper, ?_⟩
  rw [if_pos hd]
  exact disarmEdge_spec s

theorem tickEdge_early (hp : s.pacer.phase = .running) (hper : s.pacer.cycle < s.period) : Yields .tickEdge s fun u => u = s := by
  refine ⟨s, ?_, rfl⟩
  show execTickEdge s = _
  simp [execTickEdge, hp, hper]

/-! ### ARM and DISARM (R41, R42, R444) -/

/-- The restore of a job changes only what the Pacer awaits. -/
theorem beginRestore_pacer (s : State) :
    (∃ a l, s.beginRestore.pacer = { s.pacer with acksWanted := a, lastAck := l }) ∧ s.beginRestore.boot = s.boot := by
  have h : CoreWork s (allTiles.foldl (fun s t => if s.place.dieState t = 1 then s.stopTile t else s) s) := by
    refine foldl_coreWork (fun s t => ?_) _ _
    split
    · exact stopTile_coreWork ..
    · exact .refl s
  unfold State.beginRestore
  generalize allTiles.foldl _ s = u at h ⊢
  exact ⟨⟨u.inService, u.boot.time, by rw [State.setPacer_pacer, h.pacer]⟩, h.boot⟩

theorem arm_accepted (h : s.armOk = true) : Yields .arm s fun u =>
    u.pacer.phase = .armed ∧ u.pacer.cycle = 0 ∧ u.pacer.disarmAt = false ∧
      (s.pacer.resumes = true → u.pacer.rearm = some s.boot.time) := by
  refine ⟨s.arm, rfl, ?_⟩
  unfold State.arm
  rw [if_pos h]
  extract_lets keeper s1 pacer s2 s3 s4 pacer4
  split
  next hres =>
    have h3 : Signals s2 s3 := event_signals ..
    obtain ⟨⟨a, l, hpacer⟩, hboot⟩ := beginRestore_pacer (s3.endGens false).ageGens
    have hp4 : s4.pacer = { s2.pacer with acksWanted := a, lastAck := l } := by rw [← h3.pacer]; exact hpacer
    have hb4 : s4.boot = s2.boot := hboot.trans h3.coreWork.boot
    simp only [State.setPacer_pacer, pacer4, hp4, hb4]
    exact ⟨rfl, rfl, rfl, fun _ => rfl⟩
  next hres => exact ⟨rfl, rfl, rfl, fun hr => absurd hr hres⟩

theorem arm_refused (h : s.armOk = false) : Yields .arm s fun u =>
    u.pacer = s.pacer ∧ bit (u.reg pacerDA pgTkc 0x014) 1 = true := by
  refine ⟨s.arm, rfl, ?_⟩
  unfold State.arm
  rw [if_neg (by simp [h])]
  exact ⟨(flag_signals ..).pacer, flag_sets_bit s _ _ (by decide)⟩

theorem disarm_disarmed (h : s.pacer.phase = .disarmed) : Yields .disarm s fun u => u = s :=
  ⟨s.requestDisarm, rfl, by simp only [State.requestDisarm, h]⟩

theorem disarm_armed (h : s.pacer.phase = .armed) : Yields .disarm s fun u =>
    u.pacer.phase = .disarmed ∧ u.pacer.tick = s.pacer.tick := by
  refine ⟨s.requestDisarm, rfl, ?_⟩
  simp only [State.requestDisarm, h]
  obtain ⟨w, hw⟩ := (assertStop_edgeWork (s.setPacer { s.pacer with
    phase := .disarmed, cycle := 0, walk := 0, walkNext := false, dispatched := [], rearm := none, acksWanted := [] })).pacer
  rw [hw]
  exact ⟨rfl, rfl⟩

theorem disarm_running (h : s.pacer.phase = .running ∨ s.pacer.phase = .restarting) : Yields .disarm s fun u =>
    u = s.setPacer { s.pacer with disarmAt := true } := by
  refine ⟨s.requestDisarm, rfl, ?_⟩
  obtain h | h := h <;> simp only [State.requestDisarm, h]
end

/-- Settles O30: the chores of an edge leave the tick that has begun (`beginTick_spec`), the stop line trips every group by induction
over the dies and groups (`assertStop_trips`). -/
theorem tickEdgesArmAndDisarm : Obligations.TickEdgesArmAndDisarm :=
  ⟨fun _ => ⟨tickEdge_armed, fun hp hs hper => ⟨tickEdge_running hp hs hper, tickEdge_disarms hp hs hper⟩, tickEdge_early⟩,
    fun _ => ⟨arm_accepted, arm_refused, disarm_disarmed, disarm_armed, disarm_running⟩⟩

end Sys2Proof.Machine
end

section
/-! PROOFS. What reads and updates of the state leave of a quad, and what the updates that the matrix commands share leave of the
rest (R9, R81, R104, R125, R449). -/

namespace Sys2Proof.Machine

section
variable (s : State) (t c cls : Nat)

/-! ### The quad of a core -/

theorem quad_of_cores {s u : State} (h : u.cores = s.cores) (t c : Nat) : u.quad t c = s.quad t c := by
  simp [State.quad, State.core, h]

theorem bank_of_cores {s u : State} (h : u.cores = s.cores) (t c cls : Nat) : u.bank t c cls = s.bank t c cls := by
  simp [State.bank, State.core, h]

@[simp] theorem setQuad_quad_self (q : Quad) : (s.setQuad t c q).quad t c = q := by
  simp [State.setQuad, State.quad]

@[simp] theorem setQuad_bank (q : Quad) : (s.setQuad t c q).bank t c cls = s.bank t c cls :=
  updCore_bank_of_banks s t c cls fun _ => by rcases cls with _ | _ | _ <;> rfl

@[simp] theorem updBank_quad (f : Bank → Bank) : (s.updBank t c cls f).quad t c = s.quad t c := by
  simp [State.quad]

/-! ### Cores that stay -/

@[simp] theorem markFresh_cores (key n : Nat) : (s.markFresh key n).cores = s.cores := by
  unfold State.markFresh
  split <;> rfl

@[simp] theorem flag_cores (da page n : Nat) : (s.flag da page n).cores = s.cores := markFresh_cores ..

@[simp] theorem incReg_cores (da page off n : Nat) : (s.incReg da page off n).cores = s.cores := rfl

@[simp] theorem poisonIn_cores (b : Bool) : (s.poisonIn t c b).cores = s.cores := by
  cases b
  · rfl
  · exact flag_cores ..

theorem writeOuts_cores (l : List OutWrite) : (s.writeOuts t c cls l).cores = s.cores := by
  induction l generalizing s with
  | nil => rfl
  | cons o r ih => exact (ih _).trans (writeRun_cores ..)

/-! ### Frames -/

theorem markFreshes_frame (l : List Nat) (key : Nat) :
    ∃ a f, l.foldl (fun s i => s.markFresh key i) s = { s with freshAt := a, fresh := f } := by
  induction l generalizing s with
  | nil => exact ⟨_, _, rfl⟩
  | cons i l ih =>
    have hone : ∃ a f, s.markFresh key i = { s with freshAt := a, fresh := f } := by
      unfold State.markFresh
      split <;> exact ⟨_, _, rfl⟩
    obtain ⟨_, _, h⟩ := hone
    obtain ⟨_, _, h'⟩ := ih (s.markFresh key i)
    rw [List.foldl_cons, h', h]
    exact ⟨_, _, rfl⟩

/-- A merge of flags (R104) changes ASTAT of the class and the marks of R9. -/
theorem mergeFlags_frame (f : BitVec 4) : ∃ a x, s.mergeFlags t c cls f =
    { s.updBank t c cls fun b => { b with astat := b.astat ||| f } with freshAt := a, fresh := x } := markFreshes_frame ..

theorem mergeFlags_cores (f : BitVec 4) :
    (s.mergeFlags t c cls f).cores = (s.updBank t c cls fun b => { b with astat := b.astat ||| f }).cores := by
  obtain ⟨_, _, h⟩ := mergeFlags_frame s t c cls f
  rw [h]

@[simp] theorem mergeFlags_bank_self (f : BitVec 4) :
    (s.mergeFlags t c cls f).bank t c cls = { s.bank t c cls with astat := (s.bank t c cls).astat ||| f } := by
  rw [bank_of_cores (mergeFlags_cores ..), State.updBank_bank_self]

@[simp] theorem mergeFlags_quad (f : BitVec 4) : (s.mergeFlags t c cls f).quad t c = s.quad t c := by
  rw [quad_of_cores (mergeFlags_cores ..), updBank_quad]

@[simp] theorem mergeFlags_regs (f : BitVec 4) : (s.mergeFlags t c cls f).regs = s.regs := by
  obtain ⟨_, _, h⟩ := mergeFlags_frame s t c cls f
  rw [h]
  rfl

@[simp] theorem mergeFlags_mem (f : BitVec 4) : (s.mergeFlags t c cls f).mem = s.mem := by
  obtain ⟨_, _, h⟩ := mergeFlags_frame s t c cls f
  rw [h]
  rfl

/-- A write of a run changes the stores with their marks, and the die units. -/
theorem writeRun_store_frame (a : Nat) (bs : List Byte) (p : Bool) : ∃ m q z x y u, s.writeRun t c cls a bs p =
    { s with mem := m, poison := q, zeroTags := z, dirty0 := x, dirty1 := y, tiles := u } := by
  obtain ⟨_, h⟩ := writeRun_frame s t c cls a bs p
  obtain ⟨_, _, _, _, _, _, h'⟩ := write_frame s .core (coreKey t c) a (bs.map some)
    (List.replicate ((a % 32 + bs.length + 31) / 32) p)
  rw [h, State.writeAll, h']
  exact ⟨_, _, _, _, _, _, rfl⟩

theorem writeOuts_frame (l : List OutWrite) : ∃ m q z x y u, s.writeOuts t c cls l =
    { s with mem := m, poison := q, zeroTags := z, dirty0 := x, dirty1 := y, tiles := u } := by
  induction l generalizing s with
  | nil => exact ⟨_, _, _, _, _, _, rfl⟩
  | cons o r ih =>
    obtain ⟨_, _, _, _, _, _, h⟩ := writeRun_store_frame s t c cls o.addr o.bytes o.poison
    obtain ⟨_, _, _, _, _, _, h'⟩ := ih (s.writeRun t c cls o.addr o.bytes o.poison)
    rw [State.writeOuts, h', h]
    exact ⟨_, _, _, _, _, _, rfl⟩

/-- The count of lines (R81) changes its own register. -/
theorem countLines_frame (n : Nat) : ∃ r, s.countLines t c n = { s with regs := r } := by
  unfold State.countLines
  split <;> exact ⟨_, rfl⟩

@[simp] theorem countLines_cores (n : Nat) : (s.countLines t c n).cores = s.cores := by
  obtain ⟨_, h⟩ := countLines_frame s t c n
  rw [h]

@[simp] theorem countLines_mem (n : Nat) : (s.countLines t c n).mem = s.mem := by
  obtain ⟨_, h⟩ := countLines_frame s t c n
  rw [h]

theorem countLines_reg_of_off_ne (n : Nat) {da page off : Nat} (ho : off < 4096) (h : off ≠ 0x058) (h' : off ≠ 0x05C) :
    (s.countLines t c n).reg da page off = s.reg da page off := by
  unfold State.countLines
  split
  · rfl
  · rw [State.incReg64, State.setReg64,
      setReg_reg_of_off_ne _ _ _ _ _ _ _ _ _ _ (by decide) (by decide) ho (by decide) h',
      setReg_reg_of_off_ne _ _ _ _ _ _ _ _ _ _ (by decide) (by decide) ho (by decide) h]

theorem incReg_reg_self (da page off : Nat) : (s.incReg da page off).reg da page off = (s.reg da page off + 1) % 2 ^ 32 := by
  rw [State.incReg, State.setReg_reg_self, Nat.mod_mod]

/-- The report of a refund (R125) changes the Mint. -/
theorem reportRefund_frame (n : Nat) : ∃ m, s.reportRefund t n = { s with mint := m } ∧ (n ≠ 0 → (t, n) ∈ m.refunds) := by
  unfold State.reportRefund
  split
  next h => exact ⟨s.mint, rfl, fun h' => absurd h h'⟩
  next h => exact ⟨_, rfl, fun _ => List.mem_append_right _ (List.mem_singleton.mpr rfl)⟩

/-! ### A completed command (R61, R69, R74) -/

/-- A command of a class completes: one outstanding matrix command less, one completed command more. -/
def State.completeMq (s : State) (t c cls : Nat) : State :=
  (s.updBank t c cls fun b => { b with outM := b.outM - 1 }).incReg (tileDA t) (pgMq c) 0x044

@[simp] theorem completeMq_quad : (s.completeMq t c cls).quad t c = s.quad t c :=
  (quad_of_cores (incReg_cores ..) t c).trans (updBank_quad ..)

@[simp] theorem completeMq_outM : ((s.completeMq t c cls).bank t c cls).outM = (s.bank t c cls).outM - 1 := by
  rw [State.completeMq, bank_of_cores (incReg_cores ..), State.updBank_bank_self]

theorem completeMq_count :
    (s.completeMq t c cls).reg (tileDA t) (pgMq c) 0x044 = (s.reg (tileDA t) (pgMq c) 0x044 + 1) % 2 ^ 32 :=
  incReg_reg_self ..
end

end Sys2Proof.Machine
end

section
/-! PROOFS. What a command at the front of the quad's queue does that completes at once, starts a load or is refused (R61, R63,
R74, R147, R149). -/

namespace Sys2Proof.Machine

/-- The quad with another queue. -/
def Quad.withQueue (q : Quad) (r : List MqCmd) : Quad := { q with queue := r }

/-- The state in which the front command has left the queue of a quad and `r` stays. -/
def State.dequeued (s : State) (t c : Nat) (r : List MqCmd) : State := s.setQuad t c ((s.quad t c).withQueue r)

section
variable (s : State) (t c cls : Nat) (r : List MqCmd)

@[simp] theorem dequeued_quad : (s.dequeued t c r).quad t c = (s.quad t c).withQueue r := setQuad_quad_self ..

@[simp] theorem dequeued_bank : (s.dequeued t c r).bank t c cls = s.bank t c cls := setQuad_bank ..

/-! ### A program stopped as faulted -/

theorem endTask_bank : (s.endTask t c).bank t c cls = s.bank t c cls := by
  have hdisp : ∀ (s : State) f, (s.updDisp t c f).bank t c cls = s.bank t c cls := fun s f =>
    updCore_bank_of_banks s t c cls fun _ => by rcases cls with _ | _ | _ <;> rfl
  unfold State.endTask
  extract_lets d s'
  have hs' : s'.bank t c cls = s.bank t c cls := hdisp ..
  split
  · exact hs'
  · split
    · unfold State.parkTask
      split
      · exact (hdisp ..).trans hs'
      · exact (bank_of_cores (flag_cores ..) t c cls).trans hs'
    · exact hs'

theorem endClass2_stops : ((s.endClass2 t c).bank t c 2).active = false := by
  unfold State.endClass2
  dsimp only
  split
  · rw [endTask_bank, deactivate_inactive]
  · rw [deactivate_inactive]

theorem violation_keepsFaults (da i tick ref : Nat) : KeepsFaults s (s.violation da i cls tick ref) := by
  unfold State.violation
  extract_lets s1 s2
  have h1 : Signals s s1 := report_signals ..
  have h2 : Signals s1 s2 := (charge_signals ..).trans (draw_signals _)
  exact (h1.trans h2).sent.faults.trans (.of_regs rfl)

/-- The program of a class that stops as a faulted program is no longer active (R149). -/
theorem faultProgram_stops (b pc : Nat) : ((s.faultProgram t c cls b pc).bank t c cls).active = false := by
  unfold State.faultProgram
  extract_lets
  split
  next h => subst h; exact endClass2_stops ..
  · exact deactivate_inactive ..

theorem faultProgram_keepsFaults (b pc : Nat) : KeepsFaults s (s.faultProgram t c cls b pc) := by
  unfold State.faultProgram
  extract_lets da first s1 s2 s3 b s4
  have h1 : KeepsFaults s s1 := flag_keepsFaults _ _ _ _
  have h2 : KeepsFaults s1 s2 := by
    show KeepsFaults s1 (if first then _ else s1)
    split
    · exact setReg_keepsFaults _ _ _ _ _ (by decide) (by decide) (by decide)
    · exact .refl _
  have h3 : KeepsFaults s s3 := (h1.trans h2).trans (report_signals ..).sent.faults
  split
  · exact h3.trans (endClass2_coreWork ..).faults
  · have h4 : KeepsFaults s3 s4 := by
      show KeepsFaults s3 (if b.active then _ else s3)
      split
      · exact violation_keepsFaults _ _ _ _ _ _
      · exact .refl _
    exact (h3.trans h4).trans (deactivate_coreWork ..).faults

/-- A refused command stops the program of its class and sets CMD_REFUSED (R147). -/
theorem refuseCmd_spec (m : MqCmd) : ((s.refuseCmd t c m).bank t c m.cls).active = false ∧
    bit ((s.refuseCmd t c m).reg (tileDA t) (pgMq c) 0x014) 2 = true := by
  unfold State.refuseCmd
  extract_lets s1 s2
  have h1 : bit (s1.reg (tileDA t) (pgMq c) 0x014) 2 = true := flag_sets_bit s _ _ (by decide)
  exact ⟨faultProgram_stops .., faultProgram_keepsFaults _ _ _ _ _ _ _ _ _ (by decide) h1⟩

/-! ### The commands -/

/-- The bytes of the image that a weight load reads (R74). -/
def State.loadImage (m : MqCmd) : List Byte :=
  s.bytesAt (if m.fromDie then .die else .core) (if m.fromDie then t else coreKey t c) (m.saddr * 32) m.loadBytes

theorem loadImage_length (m : MqCmd) : (s.loadImage t c m).length = m.loadBytes := by
  simp [State.loadImage, State.bytesAt, memGetAll]
end

section
variable {s : State} {t c : Nat} {m : MqCmd} {r : List MqCmd}

theorem exec_matrixNop (h : s.queueHead t c = some (m, r)) (h0 : m.w0 = 0) (h1 : m.w1 = 0) (h2 : m.w2 = 0) (h3 : m.w3 = 0) :
    exec (.matrixNop t c) s = .next ((s.dequeued t c r).completeMq t c m.cls) := by
  have hkind : m.kind = 0 := by simp [MqCmd.kind, h0, bits]
  show execMatrixNop t c s = _
  simp only [execMatrixNop, h, hkind, h0, h1, h2, h3, and_self, ite_true]
  rfl

/-- A multiply that its own words make illegal is refused before its planes and the load are looked at (R63). -/
theorem exec_matrixMultiply_illegal (h : s.queueHead t c = some (m, r)) (hk : m.kind = 2)
    (hbad : m.geo = none ∨ m.mulLegal = false) :
    exec (.matrixMultiply t c) s = .next ((s.dequeued t c r).refuseCmd t c m) := by
  have hl : m.mulLegal = false := hbad.elim (fun hg => by simp [MqCmd.mulLegal, hg]) id
  show execMatrixMultiply t c s = _
  simp only [execMatrixMultiply, h, hk, hl]
  cases m.geo <;> rfl

theorem exec_weightLoad (h : s.queueHead t c = some (m, r)) (hk : m.kind = 1) (hl : m.loadLegal = true)
    (hfree : (s.quad t c).load = none) (hcls : m.wide = false ∨ anyBadCls (m.loadBytes / 4) (s.loadImage t c m) = false) :
    ∃ v psn, exec (.weightLoad t c) s = .next (State.setQuad v t c
      { s.quad t c with queue := r, load := some m, loadImg := s.loadImage t c m, loadPsn := psn }) := by
  have hok : (m.wide && anyBadCls ((s.loadImage t c m).length / 4) (s.loadImage t c m)) = false := by
    rw [loadImage_length]
    exact Bool.and_eq_false_iff.mpr hcls
  have hfree' : (s.quad t c).load.isSome = false := by rw [hfree]; rfl
  have hexec : execWeightLoad t c s = .next
      ((if m.fromDie then (s.dequeued t c r).arbWait t m.cls else s.dequeued t c r).setQuad t c
        { s.quad t c with
          queue := r, load := some m, loadImg := s.loadImage t c m
          loadPsn := (List.range m.loadBytes).map fun i =>
            s.psn (if m.fromDie then .die else .core) (if m.fromDie then t else coreKey t c) (m.saddr * 32 + i) }) := by
    unfold State.loadImage at hok ⊢
    simp only [execWeightLoad, h, hk, hl, hfree', hok]
    rfl
  exact ⟨_, _, hexec⟩
end

end Sys2Proof.Machine
end

section
/-! PROOFS. What a multiply that leaves the queue does to the quad (R65, R69, R71, R72, R75, R80, R82), and the statement about the
front of the queue. -/

namespace Sys2Proof.Machine

theorem tput_tput {α : Type} (t : Table α) (k : Nat) (v w : α) : tput (tput t k v) k w = tput t k w := by
  induction t with
  | nil => simp [tput]
  | cons x r ih =>
    obtain ⟨j, y⟩ := x
    by_cases h : k < j
    · simp [tput, h]
    · by_cases e : k = j
      · simp [tput, e]
      · simp [tput, h, e, ih]

theorem setQuad_setQuad (s : State) (t c : Nat) (q q' : Quad) : (s.setQuad t c q).setQuad t c q' = s.setQuad t c q' := by
  simp [State.setQuad, State.updCore, State.setCore, State.core, tput_tput]

/-! ### The rows of a pass put in place -/

section
variable (q : Quad) (r : List MqCmd) (i : Nat) (l : List AccRow)

theorem putRows_frame : ∃ a, q.putRows i l = { q with acc := a } := by
  induction l generalizing q i with
  | nil => exact ⟨_, rfl⟩
  | cons x l ih =>
    obtain ⟨_, h⟩ := ih { q with acc := tput q.acc i x } (i + 1)
    exact ⟨_, h⟩

theorem putRows_row_of_lt {k : Nat} (h : k < i) : (q.putRows i l).row k = q.row k := by
  induction l generalizing q i with
  | nil => rfl
  | cons x l ih => exact (ih _ _ (by omega)).trans (tget_tput_ne _ _ _ _ _ (by omega))

theorem putRows_row {k : Nat} {x : AccRow} (h : l[k]? = some x) : (q.putRows i l).row (i + k) = x := by
  induction l generalizing q i k with
  | nil => simp at h
  | cons y l ih =>
    cases k with
    | zero =>
      cases h
      exact (putRows_row_of_lt { q with acc := tput q.acc i x } (i + 1) l (Nat.lt_succ_self i)).trans (tget_tput_self ..)
    | succ k =>
      rw [show i + (k + 1) = i + 1 + k by omega]
      exact ih _ _ h

theorem putRows_withQueue : (q.withQueue r).putRows i l = (q.putRows i l).withQueue r := by
  induction l generalizing q i with
  | nil => rfl
  | cons x l ih => exact ih { q with acc := tput q.acc i x } (i + 1)

theorem swapped_withQueue (b : Bool) : (q.withQueue r).swapped b = (q.swapped b).withQueue r := by
  cases b <;> rfl
end

/-! ### The commands behind in the queue are not read -/

section
variable (s : State) (t c : Nat) (r : List MqCmd) (m : MqCmd) (md : MMode) (g : Geo)

theorem dequeued_outRow (i k n : Nat) (row : AccRow) (l : Word) :
    (s.dequeued t c r).outRow t c m md g i row k n l = s.outRow t c m md g i row k n l := by
  induction k generalizing n l with
  | zero => rfl
  | succ k ih =>
    simp only [State.outRow, ih]
    rfl

theorem dequeued_outRows (q : Quad) (k i : Nat) (l : Word) :
    (s.dequeued t c r).outRows t c m md g (q.withQueue r) k i l = s.outRows t c m md g q k i l := by
  induction k generalizing i l with
  | zero => rfl
  | succ k ih =>
    simp only [State.outRows, ih, dequeued_outRow]
    rfl

theorem dequeued_formMul (q : Quad) (inj : List Inject) (skip : Bool) (l : Word) :
    (s.dequeued t c r).formMul t c m md g (q.withQueue r) inj skip l =
      ((s.formMul t c m md g q inj skip l).1.withQueue r, (s.formMul t c m md g q inj skip l).2) := by
  simp only [State.formMul, putRows_withQueue, swapped_withQueue, dequeued_outRows]
  rfl

theorem dequeued_muls : ((s.dequeued t c r).quad t c).muls = (s.quad t c).muls := by
  rw [dequeued_quad]
  rfl

theorem dequeued_disturb (w i : Nat) : (s.dequeued t c r).disturb t c w i = (s.disturb t c w i).dequeued t c r := by
  unfold State.disturb
  dsimp only
  rw [dequeued_muls]
  cases (s.quad t c).muls.getLast? with
  | none => rfl
  | some e =>
    cases hg : e.cmd.geo with
    | none => simp only [hg]
    | some x =>
      simp only [hg]
      split
      · rfl
      · rw [dequeued_quad, putRows_withQueue, swapped_withQueue, dequeued_formMul]
        simp only [State.dequeued, setQuad_setQuad, setQuad_quad_self]
        rfl

theorem dequeued_armed : (s.dequeued t c r).armed t c = s.armed t c := rfl

theorem dequeued_hitLine (l : Nat) : (s.dequeued t c r).hitLine t c l = (s.hitLine t c l).dequeued t c r := by
  by_cases h : bits (s.armed t c) 12 10 ≤ l
  · simp only [State.hitLine, dequeued_armed, h, ite_true]
    exact dequeued_disturb (s.setReg (tileDA t) (pgMq c) 0x01C (clrBit (s.reg (tileDA t) (pgMq c) 0x01C) 18)) t c r _ _
  · simp only [State.hitLine, dequeued_armed, h, ite_false]
    rfl

theorem dequeued_chained : (s.dequeued t c r).chained t c m g = s.chained t c m g := by
  unfold State.chained
  rw [dequeued_quad]
  rfl

theorem dequeued_chainHit : (s.dequeued t c r).chainHit t c m g = (s.chainHit t c m g).dequeued t c r := by
  unfold State.chainHit
  dsimp only
  rw [dequeued_chained, dequeued_muls, dequeued_armed]
  split
  · rfl
  · cases (s.quad t c).muls.getLast? with
    | none => rfl
    | some e => exact dequeued_hitLine ..

/-! ### An armed injection before the multiply -/

/-- A disturbed product (R82) forms the last multiply again: only the accumulator and the multiplies that execute have changed, and
these are of the same commands. -/
structure Reformed (s u : State) (t c : Nat) : Prop where
  quad : ∃ a l, u.quad t c = { s.quad t c with acc := a, muls := l } ∧ l.map (·.cmd) = (s.quad t c).muls.map (·.cmd)
  poison : u.poison = s.poison

variable {s} in
theorem Reformed.of_cores {u : State} (h : u.cores = s.cores) (hp : u.poison = s.poison) : Reformed s u t c :=
  ⟨⟨(s.quad t c).acc, (s.quad t c).muls, quad_of_cores h t c, rfl⟩, hp⟩

theorem disturb_reformed (w i : Nat) : Reformed s (s.disturb t c w i) t c := by
  unfold State.disturb
  extract_lets q
  split
  · exact .of_cores t c rfl rfl
  next e he =>
    split
    · exact .of_cores t c rfl rfl
    · split
      · exact .of_cores t c rfl rfl
      · refine ⟨⟨_, _, setQuad_quad_self .., ?_⟩, rfl⟩
        obtain ⟨l, hl⟩ := List.getLast?_eq_some_iff.mp he
        simp [State.formMul, hl, q]

theorem hitLine_reformed (l : Nat) : Reformed s (s.hitLine t c l) t c := by
  unfold State.hitLine
  extract_lets w st u
  have hu : u.quad t c = s.quad t c := quad_of_cores rfl t c
  split
  · obtain ⟨hq, hp⟩ := disturb_reformed u t c w (l - st)
    exact ⟨by rwa [hu] at hq, hp⟩
  · exact .of_cores t c rfl rfl

theorem chainHit_reformed : Reformed s (s.chainHit t c m g) t c := by
  unfold State.chainHit
  extract_lets w
  split
  · exact .of_cores t c rfl rfl
  · split
    · exact hitLine_reformed ..
    · exact .of_cores t c rfl rfl

/-! ### The multiply -/

/-- The multiply is skipped (R115, R116). -/
def State.skips : Bool := s.skippable t c m g (s.quad t c) && ((s.quad t c).load.isNone || Config.freeBool s.free)

/-- The state in which the multiply is formed. -/
def State.lined : State := if s.skips t c m g then s else s.chainHit t c m g

/-- The multiply formed in that state. -/
def State.formed (cls : Nat) : Quad × MulExec × Word :=
  let u := s.lined t c m g
  u.formMul t c m md g (u.quad t c) (if s.skips t c m g then [] else u.injection t c m) (s.skips t c m g) (u.bank t c cls).lfsr

theorem runMul_quad : ∃ e k, e.cmd = m ∧ e.rows = m.m ∧ (s.runMul t c m md g).quad t c =
    { (s.formed t c m md g m.cls).1 with muls := (s.formed t c m md g m.cls).1.muls ++ [e], lastMul := k } := by
  unfold State.runMul
  extract_lets da skip u q inj f pin slots lines e0 ex q0 u1 u2 u3 u4 u5 u6
  have h3 : u3.quad t c = u1.quad t c := (quad_of_cores (poisonIn_cores ..) t c).trans (updBank_quad ..)
  have h4 : u4.quad t c = u3.quad t c := by
    show (if skip then _ else u3).quad t c = _
    split <;> rfl
  have h5 : u5.quad t c = u4.quad t c := by
    show (if slots = 0 then u4 else _).quad t c = _
    split <;> rfl
  have h6 : u6.quad t c = u5.quad t c := by
    show (if lines = 0 ∨ u5.armed t c = 0 then u5 else _).quad t c = _
    split <;> rfl
  exact ⟨ex, _, rfl, rfl, (h6.trans h5).trans (h4.trans (h3.trans (setQuad_quad_self ..)))⟩

theorem dequeued_formed (cls : Nat) : (s.dequeued t c r).formed t c m md g cls =
    ((s.formed t c m md g cls).1.withQueue r, (s.formed t c m md g cls).2) := by
  have hskips : (s.dequeued t c r).skips t c m g = s.skips t c m g := by
    unfold State.skips
    rw [dequeued_quad]
    rfl
  have hlined : (s.dequeued t c r).lined t c m g = (s.lined t c m g).dequeued t c r := by
    unfold State.lined
    rw [hskips, dequeued_chainHit]
    split <;> rfl
  unfold State.formed
  extract_lets u v
  rw [hskips, show u = v.dequeued t c r from hlined, dequeued_quad, dequeued_bank]
  exact dequeued_formMul ..

/-- What the quad holds in which the multiply has been formed: its rows, its planes exchanged, the multiplies before it. -/
theorem formed_quad (cls : Nat) : (s.formed t c m md g cls).1.muls.map (·.cmd) = (s.quad t c).muls.map (·.cmd) ∧
    (s.formed t c m md g cls).1.active = if m.swap then ~~~(s.quad t c).active else (s.quad t c).active := by
  have hlined : Reformed s (s.lined t c m g) t c := by
    unfold State.lined
    split
    · exact .of_cores t c rfl rfl
    · exact chainHit_reformed ..
  obtain ⟨⟨a, l, hq, hl⟩, -⟩ := hlined
  unfold State.formed State.formMul
  extract_lets u wp rows q1 o
  obtain ⟨a', hp⟩ := putRows_frame (u.quad t c) m.accrow (rows.map (·.1))
  have hq' : u.quad t c = _ := hq
  show q1.muls.map _ = _ ∧ q1.active = _
  have h1 : q1 = _ := congrArg (·.swapped m.swap) (hp.trans (by rw [hq']))
  rw [h1]
  unfold Quad.swapped
  cases m.swap <;> exact ⟨hl, rfl⟩

/-! ### The entries of a pass -/

theorem tget_map_mem {α : Type} (f : Nat → α) (rest : Table α) (d : α) {l : List Nat} {n : Nat} (h : n ∈ l) :
    tget (l.map (fun n => (n, f n)) ++ rest) n d = f n := by
  have hget : tget? (l.map (fun n => (n, f n)) ++ rest) n = some (f n) := by
    induction l with
    | nil => cases h
    | cons k l ih =>
      by_cases e : k = n
      · simp [tget?, e]
      · have hn : n ∈ l := (List.mem_cons.mp h).resolve_left (Ne.symm e)
        simpa [tget?, e] using ih hn
  simp [tget, hget]

/-- Entry `n` of accumulator row `i` of a pass (R71, R79, R80, R90). -/
def State.accEntry (q : Quad) (inj : List Inject) (wp : List Bool) (i n : Nat) : AccEnt :=
  let x := (s.passOut t c m md g q inj i n).1
  let old : AccEnt := tget (q.row (m.accrow + i)).ent n {}
  { val := (if m.acc then md.accumulate old.val x else (x, 0)).1
    failed := m.acc && old.failed
    poison := s.rowPoison t c m g i || wp.getD n false || (m.acc && old.poison) }

theorem accRow_ent (q : Quad) (inj : List Inject) (wp : List Bool) (i : Nat) : (s.accRow t c m md g q inj wp i).1.ent =
    (List.range g.n).map (fun n => (n, s.accEntry t c m md g q inj wp i n)) ++ m.restRow md g (q.row (m.accrow + i)) i := by
  simp only [State.accRow, List.map_map]
  rfl

theorem accRow_entry (q : Quad) (inj : List Inject) (wp : List Bool) (i : Nat) {n : Nat} (hn : n < g.n) :
    let old : AccEnt := tget (q.row (m.accrow + i)).ent n {}
    let x := (s.passOut t c m md g q inj i n).1
    let new : AccEnt := tget (s.accRow t c m md g q inj wp i).1.ent n {}
    new.val = (if m.acc then (md.accumulate old.val x).1 else x) ∧
    new.poison = (s.rowPoison t c m g i || wp.getD n false || (m.acc && old.poison)) := by
  intro old x new
  have hnew : new = s.accEntry t c m md g q inj wp i n := by
    simp only [new, accRow_ent]
    exact tget_map_mem _ _ _ (List.mem_range.mpr hn)
  rw [hnew]
  refine ⟨?_, rfl⟩
  unfold State.accEntry
  cases m.acc <;> rfl

theorem rowPoison_of_poison {u : State} (h : u.poison = s.poison) (i : Nat) : u.rowPoison t c m g i = s.rowPoison t c m g i := by
  simp only [State.rowPoison, State.psnAny, State.psn, h]

/-- The accumulator entries of a multiply that is not skipped. -/
theorem formed_entry (cls : Nat) (hskip : s.skips t c m g = false) {i n : Nat} (hi : i < m.m) (hn : n < g.n) :
    let u := s.chainHit t c m g
    let q := u.quad t c
    let old : AccEnt := tget (q.row (m.accrow + i)).ent n {}
    let x := (u.passOut t c m md g q (u.injection t c m) i n).1
    let new : AccEnt := tget ((s.formed t c m md g cls).1.row (m.accrow + i)).ent n {}
    new.val = (if m.acc then (md.accumulate old.val x).1 else x) ∧
    new.poison = (s.rowPoison t c m g i || m.outPoison g q n || (m.acc && old.poison)) := by
  intro u q old x new
  let wp := (List.range g.n).map fun n => m.outPoison g q n
  have hlined : s.lined t c m g = u := by simp [State.lined, hskip, u]
  have hrow : (s.formed t c m md g cls).1.row (m.accrow + i) = (u.accRow t c m md g q (u.injection t c m) wp i).1 := by
    unfold State.formed
    rw [hlined, hskip]
    have hswap : ∀ (q : Quad) k, (q.swapped m.swap).row k = q.row k := fun q k => by cases m.swap <;> rfl
    refine (hswap _ _).trans (putRows_row _ _ _ ?_)
    simp [hi, wp, q]
  have hwp : wp.getD n false = m.outPoison g q n := by simp [wp, hn]
  have hpoison := rowPoison_of_poison s t c m g (chainHit_reformed s t c m g).poison i
  have hentry := accRow_entry u t c m md g q (u.injection t c m) wp i hn
  simp only [new, hrow]
  rwa [hwp, hpoison] at hentry

theorem exec_matrixMultiply {s : State} {t c : Nat} {m : MqCmd} {r : List MqCmd} {md : MMode} {g : Geo}
    (h : s.queueHead t c = some (m, r)) (hk : m.kind = 2) (hg : m.geo = some (md, g)) (hl : m.mulLegal = true)
    (hfits : (s.quad t c).fits m = true) (hready : (s.quad t c).mulReady m g = true) :
    exec (.matrixMultiply t c) s = .next ((s.dequeued t c r).runMul t c m md g) := by
  have hload : (m.swap && (s.quad t c).load.isSome) = false := by
    obtain ⟨hswap, -⟩ := Bool.and_eq_true_iff.mp hready
    cases hs : m.swap
    · rfl
    · simpa [hs] using hswap
  show execMatrixMultiply t c s = _
  simp only [execMatrixMultiply, h, hk, hg, hl, hload, hfits, hready]
  rfl

/-- What a multiply that leaves the queue leaves of the quad. -/
theorem runMul_spec : ∃ e k, e.cmd = m ∧ e.rows = m.m ∧ ((s.dequeued t c r).runMul t c m md g).quad t c =
    { (s.formed t c m md g m.cls).1 with
      queue := r, muls := (s.formed t c m md g m.cls).1.muls ++ [e], lastMul := k } := by
  obtain ⟨e, k, hcmd, hrows, hquad⟩ := runMul_quad (s.dequeued t c r) t c m md g
  rw [dequeued_formed] at hquad
  exact ⟨e, k, hcmd, hrows, hquad⟩
end

/-- Settles O18: the multiply that leaves is formed as if the queue still held it (`dequeued_formed`), row by row
(`formed_entry`); the other commands by the branch of each that is taken. -/
theorem matrixQueue : Obligations.MatrixQueue := by
  intro s t c m r h q
  refine ⟨fun h0 h1 h2 h3 => ⟨_, exec_matrixNop h h0 h1 h2 h3, ?_⟩, fun hk hl hfree hcls => ?_,
    fun md g hk hg hl hfits hready => ⟨_, exec_matrixMultiply h hk hg hl hfits hready, ?_⟩,
    fun hk hbad => ⟨_, exec_matrixMultiply_illegal h hk hbad, refuseCmd_spec ..⟩⟩
  · refine ⟨?_, ?_, completeMq_count ..⟩
    · rw [completeMq_quad, dequeued_quad]
      rfl
    · rw [completeMq_outM, dequeued_bank]
  · obtain ⟨v, psn, hexec⟩ := exec_weightLoad h hk hl hfree hcls
    refine ⟨_, hexec, ?_⟩
    dsimp only
    rw [setQuad_quad_self]
    exact ⟨rfl, rfl, rfl, rfl⟩
  · obtain ⟨e, k, hcmd, hrows, hquad⟩ := runMul_spec s t c r m md g
    obtain ⟨hmuls, hactive⟩ := formed_quad s t c m md g m.cls
    dsimp only
    rw [hquad]
    refine ⟨rfl, ⟨e, _, rfl, hmuls, hcmd, hrows⟩, hactive, fun hskip i n hi hn => ?_⟩
    exact formed_entry s t c m md g m.cls (Bool.and_eq_false_iff.mpr (.inl hskip)) hi hn

end Sys2Proof.Machine
end

section
/-! PROOFS. What MULTIPLY_COMPLETE does (R69, R73, R104, R117, R125). -/

namespace Sys2Proof.Machine

/-! ### Which multiply completes next -/

theorem passes_spec {x e : MulExec} (h : x.passes e = true) :
    e.fails = [] ∧ (x.skipped = true ∨ (e.skipped = true ∧ e.cmd.out = true)) := by
  obtain ⟨hfails, h⟩ := Bool.and_eq_true_iff.mp h
  refine ⟨List.isEmpty_iff.mp hfails, ?_⟩
  by_cases hx : x.skipped = true
  · exact .inl hx
  · simp only [hx, Bool.false_and, Bool.and_eq_true, Bool.false_eq_true, ite_false] at h
    exact .inr h.1

/-- A multiply may complete next where it may do so before all older ones. -/
theorem mem_mayComplete {q : Quad} {i : Nat} :
    i ∈ q.mayComplete ↔ ∃ x, q.muls[i]? = some x ∧ ∀ e ∈ q.muls.take i, x.passes e = true := by
  simp only [Quad.mayComplete, List.mem_filterMap, Prod.exists, List.mk_mem_zipIdx_iff_getElem?, Option.ite_none_right_eq_some,
    List.all_eq_true, Option.some.injEq]
  constructor
  · rintro ⟨x, j, hx, hpass, rfl⟩
    exact ⟨x, hx, hpass⟩
  · rintro ⟨x, hx, hpass⟩
    exact ⟨x, i, hx, hpass, rfl⟩

/-- The multiply that completes next is the oldest one or one of those that may pass all older ones. -/
theorem nextDone_eq (s : State) (q : Quad) : ∃ i, s.nextDone q = (q.muls[i]?).map (fun e => (e, q.muls.eraseIdx i)) ∧
    (i = 0 ∨ i ∈ q.mayComplete) := by
  refine ⟨_, rfl, ?_⟩
  split
  · exact .inl rfl
  next h =>
    have hlt : Config.freeNat s.free % q.mayComplete.length < q.mayComplete.length := Nat.mod_lt _ (by omega)
    right
    rw [List.getD_eq_getElem?_getD, List.getElem?_eq_getElem hlt, Option.getD_some]
    exact List.getElem_mem hlt

theorem nextDone_spec {s : State} {q : Quad} {e : MulExec} {r : List MulExec} (h : q.muls = e :: r) :
    ∃ x y, s.nextDone q = some (x, y) ∧ ((x = e ∧ y = r) ∨
      ∃ i, 0 < i ∧ q.muls[i]? = some x ∧ y = q.muls.eraseIdx i ∧
      ∀ o ∈ q.muls.take i, o.fails = [] ∧ (x.skipped = true ∨ (o.skipped = true ∧ o.cmd.out = true))) := by
  obtain ⟨i, hi, hmay⟩ := nextDone_eq s q
  by_cases h0 : i = 0
  · subst h0
    exact ⟨e, r, by rw [hi, h]; rfl, .inl ⟨rfl, rfl⟩⟩
  · obtain ⟨x, hx, hpass⟩ := mem_mayComplete.mp (hmay.resolve_left h0)
    exact ⟨x, _, by rw [hi, hx]; rfl, .inr ⟨i, by omega, hx, rfl, fun o ho => passes_spec (hpass o ho)⟩⟩

/-! ### What a write leaves in the bytes that it covers -/

section
variable (s : State)

theorem writeGran_in (sp : Sp) (unit a : Nat) (bs : List (Option Byte)) (p : Bool) {i : Nat} {b : Byte}
    (h : bs[i]? = some (some b)) :
    memGet (s.writeGran sp unit a bs p).mem (gAddr sp unit a + i) = b := by
  unfold State.writeGran
  split
  next hnone => simpa using List.all_eq_true.mp hnone _ (List.mem_of_getElem? h)
  · exact memGet_memPutAll_in _ _ _ _ _ h

theorem writePieces_in (n : Nat) (sp : Sp) (unit a : Nat) (bs : List (Option Byte)) (ps : List Bool)
    (hn : a % 32 + bs.length ≤ 32 * n) {i : Nat} {b : Byte} (h : bs[i]? = some (some b)) :
    memGet (s.writePieces sp unit n a bs ps).mem (gAddr sp unit a + i) = b := by
  have hi : i < bs.length := (List.getElem?_eq_some_iff.mp h).1
  induction n generalizing s a bs ps i with
  | zero => omega
  | succ n ih =>
    unfold State.writePieces
    extract_lets k
    have hnext : gAddr sp unit (a + k) = gAddr sp unit a + k := by simp only [gAddr]; omega
    by_cases hik : i < k
    · rw [writePieces_out _ _ _ _ _ _ _ _ (.inl (by omega))]
      exact writeGran_in s sp unit a _ _ (by rwa [List.getElem?_take_of_lt hik])
    · have hlen : (bs.drop k).length = bs.length - k := List.length_drop
      have hdrop : (bs.drop k)[i - k]? = some (some b) := by rwa [List.getElem?_drop, Nat.add_sub_cancel' (by omega)]
      have hk : k = 32 - a % 32 := rfl
      have hread := ih (s.writeGran sp unit a (bs.take k) (ps.headD false)) (a + k) (bs.drop k) (ps.drop 1) (by omega) hdrop
        (by omega)
      rwa [hnext, show gAddr sp unit a + k + (i - k) = gAddr sp unit a + i by omega] at hread

theorem writeAll_bytesAt (sp : Sp) (unit a : Nat) (bs : List Byte) (p : Bool) :
    (s.writeAll sp unit a bs p).bytesAt sp unit a bs.length = bs := by
  refine List.ext_getElem (by simp [State.bytesAt, memGetAll]) fun i h h' => ?_
  simp only [State.bytesAt, memGetAll, List.getElem_map, List.getElem_range]
  exact writePieces_in _ _ _ _ _ _ _ (by rw [List.length_map]; omega) (by simp [h'])

theorem writeAll_bytesAt_out (sp : Sp) (unit a : Nat) (bs : List Byte) (p : Bool) {a' n : Nat}
    (h : a' + n ≤ a ∨ a + bs.length ≤ a') :
    (s.writeAll sp unit a bs p).bytesAt sp unit a' n = s.bytesAt sp unit a' n := by
  refine List.ext_getElem (by simp [State.bytesAt, memGetAll]) fun i h h' => ?_
  have hi : i < n := by simpa [State.bytesAt, memGetAll] using h'
  simp only [State.bytesAt, memGetAll, List.getElem_map, List.getElem_range]
  exact write_out _ _ _ _ _ _ _ (by simp only [gAddr, List.length_map]; omega)

variable (t c cls : Nat)

theorem writeRun_mem (a : Nat) (bs : List Byte) (p : Bool) :
    (s.writeRun t c cls a bs p).mem = (s.writeAll .core (coreKey t c) a bs p).mem := by
  obtain ⟨_, h⟩ := writeRun_frame s t c cls a bs p
  rw [h]

theorem bytesAt_of_mem {s u : State} (h : u.mem = s.mem) (sp : Sp) (unit a n : Nat) :
    u.bytesAt sp unit a n = s.bytesAt sp unit a n := by
  rw [State.bytesAt, State.bytesAt, h]

/-- An output that no other one overlaps reads as written (R73). -/
theorem writeOuts_bytesAt (l : List OutWrite) (o : OutWrite)
    (hsep : ∀ o' ∈ l, o' = o ∨ o'.addr + o'.bytes.length ≤ o.addr ∨ o.addr + o.bytes.length ≤ o'.addr)
    (h : o ∈ l ∨ s.bytesAt .core (coreKey t c) o.addr o.bytes.length = o.bytes) :
    (s.writeOuts t c cls l).bytesAt .core (coreKey t c) o.addr o.bytes.length = o.bytes := by
  induction l generalizing s with
  | nil => exact h.resolve_left List.not_mem_nil
  | cons x l ih =>
    refine ih _ (fun o' ho' => hsep o' (List.mem_cons_of_mem _ ho')) ?_
    rw [bytesAt_of_mem (writeRun_mem ..)]
    by_cases hx : x = o
    · subst hx
      exact .inr (writeAll_bytesAt ..)
    · rw [writeAll_bytesAt_out _ _ _ _ _ _ (((hsep x List.mem_cons_self).resolve_left hx).symm)]
      exact h.imp_left fun ho => (List.mem_cons.mp ho).resolve_left (Ne.symm hx)
end

/-! ### The completion -/

section
variable (s : State) (t c : Nat)

/-- A multiply that has left the executing ones writes its outputs and completes. -/
def State.finishMul (e : MulExec) : State :=
  let s := s.draw.writeOuts t c e.cmd.cls e.outs
  let s := (s.mergeFlags t c e.cmd.cls e.flags).updBank t c e.cmd.cls fun b => { b with outM := b.outM - 1 }
  ((s.countLines t c e.lines).incReg (tileDA t) (pgMq c) 0x044).reportRefund t e.refund

variable {s t c} in
theorem exec_multiplyComplete {e : MulExec} {r : List MulExec} (h : s.nextDone (s.quad t c) = some (e, r)) (hf : e.fails = []) :
    exec (.multiplyComplete t c) s = .next ((s.setQuad t c { s.quad t c with muls := r }).finishMul t c e) := by
  show execMultiplyComplete t c s = _
  simp only [execMultiplyComplete, h, hf]
  rfl

/-- The outputs leave the cores and the registers; the flags and the count of outstanding commands are the class's, the rest is
counted in registers and at the Mint. -/
theorem finishMul_spec (e : MulExec) :
    let u := s.finishMul t c e
    let b := s.bank t c e.cmd.cls
    u.quad t c = s.quad t c ∧ (u.bank t c e.cmd.cls).astat = b.astat ||| e.flags ∧ (u.bank t c e.cmd.cls).outM = b.outM - 1 ∧
    u.reg (tileDA t) (pgMq c) 0x044 = (s.reg (tileDA t) (pgMq c) 0x044 + 1) % 2 ^ 32 ∧
    (e.refund ≠ 0 → (t, e.refund) ∈ u.mint.refunds) ∧ u.mem = (s.draw.writeOuts t c e.cmd.cls e.outs).mem := by
  unfold State.finishMul
  extract_lets s1 s2 u b
  have hcores1 : s1.cores = s.cores := writeOuts_cores ..
  have hregs1 : s1.regs = s.regs := by
    obtain ⟨_, _, _, _, _, _, h⟩ := writeOuts_frame s.draw t c e.cmd.cls e.outs
    rw [show s1 = _ from h]
    rfl
  have hbank2 : s2.bank t c e.cmd.cls = { b with astat := b.astat ||| e.flags, outM := b.outM - 1 } := by
    rw [State.updBank_bank_self, mergeFlags_bank_self, bank_of_cores hcores1]
  have hquad2 : s2.quad t c = s.quad t c := by
    rw [updBank_quad, mergeFlags_quad, quad_of_cores hcores1]
  have hregs2 : s2.regs = s.regs := (mergeFlags_regs ..).trans hregs1
  have hmem2 : s2.mem = s1.mem := mergeFlags_mem ..
  let s3 := (s2.countLines t c e.lines).incReg (tileDA t) (pgMq c) 0x044
  have hcores3 : s3.cores = s2.cores := (incReg_cores ..).trans (countLines_cores ..)
  have hmem3 : s3.mem = s2.mem := countLines_mem ..
  obtain ⟨_, hu, hrefund⟩ := reportRefund_frame s3 t e.refund
  rw [show u = _ from hu]
  refine ⟨(quad_of_cores hcores3 t c).trans hquad2, ?_, ?_, ?_, hrefund, hmem3.trans hmem2⟩
  · exact congrArg Bank.astat ((bank_of_cores hcores3 t c _).trans hbank2)
  · exact congrArg Bank.outM ((bank_of_cores hcores3 t c _).trans hbank2)
  · refine (incReg_reg_self ..).trans ?_
    rw [countLines_reg_of_off_ne _ _ _ _ (by decide) (by decide) (by decide), reg_of_regs hregs2]
end

end Sys2Proof.Machine
end

section
/-! PROOFS. What WEIGHT_LOAD_COMPLETE does (R74, R75, R113). -/

namespace Sys2Proof.Machine

/-! ### The planes of a load -/

section
variable (m : MqCmd)

/-- The plane of one array from the front of a weight image (R74, R113). -/
def MqCmd.loadedPlane (img : List Byte) (psn : List Bool) : Plane :=
  let n := arrayBytes m.lwfmt m.lsparse
  let p : Plane := { img := img.take n, psn := psn.take n, wfmt := m.lwfmt, sparse := m.lsparse, valid := true }
  { p with clean := p.soundRows (List.range 32) }

theorem loadedPlane_clean (img : List Byte) (psn : List Bool) :
    (m.loadedPlane img psn).clean = (m.loadedPlane img psn).soundRows (List.range 32) := rfl

variable (q : Quad) (l : List Nat) (img : List Byte) (psn : List Bool)

/-- The shadow plane of one array filled. -/
def Quad.fillPlane (q : Quad) (a : Nat) (p : Plane) : Quad := { q with planes := tput q.planes (2 * a + (1 - q.activeIx a)) p }

theorem fillPlanes_cons (a : Nat) : q.fillPlanes m (a :: l) img psn = (q.fillPlane a (m.loadedPlane img psn)).fillPlanes m l
    (img.drop (arrayBytes m.lwfmt m.lsparse)) (psn.drop (arrayBytes m.lwfmt m.lsparse)) := rfl

theorem fillPlanes_frame : ∃ x, q.fillPlanes m l img psn = { q with planes := x } := by
  induction l generalizing q img psn with
  | nil => exact ⟨_, rfl⟩
  | cons a l ih =>
    obtain ⟨_, h⟩ := ih (q.fillPlane a (m.loadedPlane img psn)) (img.drop (arrayBytes m.lwfmt m.lsparse))
      (psn.drop (arrayBytes m.lwfmt m.lsparse))
    exact ⟨_, h⟩

theorem fillPlanes_activeIx (k : Nat) : (q.fillPlanes m l img psn).activeIx k = q.activeIx k := by
  obtain ⟨_, h⟩ := fillPlanes_frame m q l img psn
  rw [h]
  rfl

theorem activeIx_lt (a : Nat) : q.activeIx a < 2 := by
  unfold Quad.activeIx boolNat
  split <;> decide

/-- Only shadow planes of the arrays named are filled. -/
theorem fillPlanes_plane_ne {k i : Nat} (h : ∀ a ∈ l, 2 * a + (1 - q.activeIx a) ≠ 2 * k + i) :
    (q.fillPlanes m l img psn).plane k i = q.plane k i := by
  induction l generalizing q img psn with
  | nil => rfl
  | cons a l ih =>
    rw [fillPlanes_cons, ih]
    · exact tget_tput_ne _ _ _ _ _ (h a List.mem_cons_self).symm
    · exact fun b hb => h b (List.mem_cons_of_mem _ hb)

theorem fillPlanes_activePlane (k : Nat) : (q.fillPlanes m l img psn).activePlane k = q.activePlane k := by
  unfold Quad.activePlane
  rw [fillPlanes_activeIx]
  refine fillPlanes_plane_ne _ _ _ _ _ fun a _ => ?_
  have hk := activeIx_lt q k
  by_cases hak : a = k
  · subst hak
    omega
  · have ha := activeIx_lt q a
    omega

/-- The shadow plane of the array at place `i` of the load's arrays is made of part `i` of the image. -/
theorem fillPlanes_shadowPlane {i k : Nat} (hl : l.Nodup) (hk : l[i]? = some k) :
    (q.fillPlanes m l img psn).shadowPlane k =
      m.loadedPlane (img.drop (arrayBytes m.lwfmt m.lsparse * i)) (psn.drop (arrayBytes m.lwfmt m.lsparse * i)) := by
  induction l generalizing q img psn i with
  | nil => simp at hk
  | cons a l ih =>
    obtain ⟨ha, hl⟩ := List.nodup_cons.mp hl
    rw [fillPlanes_cons]
    cases i with
    | zero =>
      obtain rfl : a = k := by simpa using hk
      unfold Quad.shadowPlane
      rw [fillPlanes_activeIx, fillPlanes_plane_ne]
      · exact tget_tput_self ..
      · intro b hb
        have hne : b ≠ a := fun e => ha (e ▸ hb)
        have hix := activeIx_lt (q.fillPlane a (m.loadedPlane img psn)) a
        have hix' := activeIx_lt (q.fillPlane a (m.loadedPlane img psn)) b
        omega
    | succ i => rw [ih _ _ _ hl hk, List.drop_drop, List.drop_drop, Nat.mul_succ, Nat.add_comm]

/-- The place of an array among those that a mask names. -/
theorem getElem?_filter_range {p : Nat → Bool} {n a : Nat} (ha : a < n) (hp : p a = true) :
    ((List.range n).filter p)[((List.range a).filter p).length]? = some a := by
  have hsplit : List.range n = List.range a ++ a :: (List.range' (a + 1) (n - (a + 1))) := by
    have happ := List.range'_append_1 (s := 0) (m := a) (n := n - (a + 1) + 1)
    rw [Nat.zero_add] at happ
    rw [List.range_eq_range', List.range_eq_range', ← List.range'_succ, happ]
    congr 1
    omega
  rw [hsplit, List.filter_append, List.filter_cons_of_pos hp]
  simp
end

/-! ### The completion -/

/-- The arrays that a load names, in increasing order (R74). -/
def MqCmd.loadArrays (m : MqCmd) : List Nat := (List.range 4).filter fun a => bit m.amask a

/-- The quad after its load `m` has completed. -/
def Quad.loadDone (q : Quad) (m : MqCmd) : Quad :=
  { q.fillPlanes m m.loadArrays q.loadImg q.loadPsn with load := none, loadImg := [], loadPsn := [] }

theorem exec_weightLoadComplete {s : State} {t c : Nat} {m : MqCmd} (h : (s.quad t c).load = some m) :
    exec (.weightLoadComplete t c) s = .next ((s.setQuad t c ((s.quad t c).loadDone m)).completeMq t c m.cls) := by
  show execWeightLoadComplete t c s = _
  simp only [execWeightLoadComplete, h]
  rfl

section
variable (q : Quad) (m : MqCmd)

theorem loadDone_frame : ∃ x, q.loadDone m = { q with planes := x, load := none, loadImg := [], loadPsn := [] } := by
  obtain ⟨_, h⟩ := fillPlanes_frame m q m.loadArrays q.loadImg q.loadPsn
  unfold Quad.loadDone
  rw [h]
  exact ⟨_, rfl⟩

theorem loadDone_activePlane (a : Nat) : (q.loadDone m).activePlane a = q.activePlane a := fillPlanes_activePlane ..

/-- A load fills the shadow plane of each array that it names with that array's part of the image (R74). -/
theorem loadDone_shadowPlane {a : Nat} (ha : a < 4) (hbit : bit m.amask a = true) :
    let at_ := arrayBytes m.lwfmt m.lsparse * ((List.range a).filter fun b => bit m.amask b).length
    (q.loadDone m).shadowPlane a = m.loadedPlane (q.loadImg.drop at_) (q.loadPsn.drop at_) :=
  fillPlanes_shadowPlane m q m.loadArrays q.loadImg q.loadPsn (List.nodup_range.filter _) (getElem?_filter_range ha hbit)
end

end Sys2Proof.Machine
end

section
/-! PROOFS. What MATRIX_CHECK does (R79, R81, R381), and the statement about completions and checks. -/

namespace Sys2Proof.Machine

/-! ### Marks of failed checks -/

section
variable (q : Quad) (l : List (Nat × Nat)) (x : Nat × Nat)

/-- One accumulator entry marked failed. -/
def Quad.markEntry (q : Quad) (x : Nat × Nat) : Quad :=
  let r := q.row x.1
  { q with acc := tput q.acc x.1 { r with ent := tput r.ent x.2 { tget r.ent x.2 {} with failed := true } } }

/-- The failed mark of an accumulator entry, by row and output. -/
def Quad.failedAt (q : Quad) (x : Nat × Nat) : Bool := (tget (q.row x.1).ent x.2 ({} : AccEnt)).failed

theorem markEntry_failedAt (y : Nat × Nat) : (q.markEntry x).failedAt y = (decide (y = x) || q.failedAt y) := by
  obtain ⟨i, n⟩ := x
  obtain ⟨j, k⟩ := y
  simp only [Quad.failedAt, Quad.markEntry, Quad.row, Prod.mk.injEq]
  by_cases hj : j = i
  · subst hj
    by_cases hk : k = n
    · subst hk
      simp
    · simp [hk, tget_tput_ne]
  · simp [hj, tget_tput_ne]

theorem markFailed_frame : ∃ a, q.markFailed l = { q with acc := a } := by
  induction l generalizing q with
  | nil => exact ⟨_, rfl⟩
  | cons x l ih =>
    obtain ⟨_, h⟩ := ih (q.markEntry x)
    exact ⟨_, h⟩

theorem markFailed_failedAt (h : x ∈ l ∨ q.failedAt x = true) : (q.markFailed l).failedAt x = true := by
  induction l generalizing q with
  | nil => exact h.resolve_left List.not_mem_nil
  | cons y l ih =>
    refine ih (q.markEntry y) ?_
    rw [markEntry_failedAt, Bool.or_eq_true, decide_eq_true_eq]
    rcases h with h | h
    · exact (List.mem_cons.mp h).elim (fun e => .inr (.inl e)) .inl
    · exact .inr (.inr h)
end

section
variable (tag : AccTag) (live : List (Nat × Nat)) (r : List MulExec)

theorem failLater_length : (failLater tag live r).1.length = r.length := by
  induction r generalizing live with
  | nil => rfl
  | cons e r ih => exact congrArg (· + 1) (ih _)

/-- A command leaves the mark of an entry in a row that it does not write, and with ACC = 1 every mark. -/
theorem mem_keepMarks {m : MqCmd} {x : Nat × Nat} (hx : x ∈ live)
    (h : m.acc = true ∨ x.1 < m.accrow ∨ m.accrow + m.m ≤ x.1) : x ∈ m.keepMarks tag live := by
  unfold MqCmd.keepMarks
  split
  · split
    · exact hx
    next hacc =>
      refine List.mem_filter.mpr ⟨hx, decide_eq_true ?_⟩
      exact (h.resolve_left hacc).imp_right .inl
  · exact hx

theorem mem_failLater {x : Nat × Nat} (hx : x ∈ live)
    (h : ∀ e ∈ r, e.cmd.acc = true ∨ x.1 < e.cmd.accrow ∨ e.cmd.accrow + e.cmd.m ≤ x.1) :
    x ∈ (failLater tag live r).2 := by
  induction r generalizing live with
  | nil => exact hx
  | cons e r ih =>
    exact ih _ (mem_keepMarks tag live hx (h e List.mem_cons_self)) fun y hy => h y (List.mem_cons_of_mem _ hy)
end

theorem mem_failEnts {m : MqCmd} {g : Geo} {fails : List CheckFail} {i n : Nat} (hi : i < m.m) (hn : n < g.n)
    (h : ((m.sources g n).1.any fun a => fails.any fun f => f.array == a) = true) : (m.accrow + i, n) ∈ m.failEnts g fails :=
  List.mem_flatMap.mpr ⟨i, List.mem_range.mpr hi, List.mem_map.mpr
    ⟨n, List.mem_filter.mpr ⟨List.mem_range.mpr hn, h⟩, rfl⟩⟩

/-! ### The quad after a check -/

/-- The oldest multiply `e` with its failures reported and the later ones `r`: outputs poisoned, entries marked (R79). -/
def Quad.checked (q : Quad) (e : MulExec) (r : List MulExec) (md : MMode) (g : Geo) (fails : List CheckFail) : Quad :=
  let live := e.cmd.failEnts g fails
  let later := failLater md.tag live r
  ({ q with muls := { e with outs := e.cmd.failOuts live e.outs, fails := [] } :: later.1 }).markFailed later.2

section
variable (q : Quad) (e : MulExec) (r : List MulExec) (md : MMode) (g : Geo) (fails : List CheckFail)

theorem checked_muls : ∃ l, l.length = r.length ∧ (q.checked e r md g fails).muls =
    { e with outs := e.cmd.failOuts (e.cmd.failEnts g fails) e.outs, fails := [] } :: l := by
  obtain ⟨_, h⟩ := markFailed_frame ({ q with
    muls := { e with outs := e.cmd.failOuts (e.cmd.failEnts g fails) e.outs, fails := [] } ::
      (failLater md.tag (e.cmd.failEnts g fails) r).1 }) (failLater md.tag (e.cmd.failEnts g fails) r).2
  exact ⟨_, failLater_length md.tag (e.cmd.failEnts g fails) r, congrArg Quad.muls h⟩

theorem checked_failedAt {i n : Nat} (hi : i < e.cmd.m) (hn : n < g.n)
    (hhit : ((e.cmd.sources g n).1.any fun a => fails.any fun f => f.array == a) = true)
    (hlater : ∀ x ∈ r, x.cmd.acc = true ∨ e.cmd.accrow + i < x.cmd.accrow ∨ x.cmd.accrow + x.cmd.m ≤ e.cmd.accrow + i) :
    (q.checked e r md g fails).failedAt (e.cmd.accrow + i, n) = true :=
  markFailed_failedAt _ _ _ (.inl (mem_failLater _ _ _ (mem_failEnts hi hn hhit) hlater))
end

/-! ### What is reported -/

section
variable {s t u : State}

theorem Charges.of_keepsSent {da ref ckind fkind loc : Nat} (h : KeepsSent s t) (hp : t.pacer = s.pacer)
    (k : Charges t u da ref ckind fkind loc) : Charges s u da ref ckind fkind loc := by
  unfold Charges at k ⊢
  rw [show t.tick = s.tick from congrArg Pacer.tick hp] at k
  exact Sends.of_keepsSent h k

theorem Reports.of_keepsSent {da cls fkind ref detail : Nat} (h : KeepsSent s t) (hp : t.pacer = s.pacer)
    (k : Reports t u da cls fkind ref detail) : Reports s u da cls fkind ref detail := by
  unfold Reports at k ⊢
  rw [show t.tick = s.tick from congrArg Pacer.tick hp] at k
  exact Sends.of_keepsSent h k
end

section
variable (s : State) (t c : Nat) (m : MqCmd)

theorem chargeArrays_signals (n : Nat) (l : List CheckFail) : Signals s (s.chargeArrays t c n l) := by
  induction l generalizing s with
  | nil => exact .refl s
  | cons f l ih => exact (charge_signals ..).trans (ih _)

theorem chargeArrays_charges (n : Nat) (l : List CheckFail) {f : CheckFail} (hf : f ∈ l) :
    Charges s (s.chargeArrays t c n l) (tileDA t) (ledgerRef (tileDA t) 0x01 (4 * c + f.array)) ckConfirmed 0x02
      ((failColumn f n).getD noRef) := by
  induction l generalizing s with
  | nil => cases hf
  | cons x l ih =>
    rcases List.mem_cons.mp hf with rfl | hf
    · exact Sends.mono (charge_charges ..) (chargeArrays_signals ..).sent
    · exact .of_signals (charge_signals ..) (ih _ hf)

/-- The FAULT bits and the check record of the page (R79, R81). -/
def State.recordCheck (info : Nat) : State :=
  let da := tileDA t
  let fresh := bits (s.reg da (pgMq c) 0x014) 1 0 == 0
  let s := if bit info 2 then s.flag da (pgMq c) 0 else s
  let s := if bit info 3 then s.flag da (pgMq c) 1 else s
  if fresh then (s.setReg da (pgMq c) 0x04C info).setReg da (pgMq c) 0x050 m.seq else s

/-- The charges and the report of a check (R79, R381). -/
def State.reportCheck (fails : List CheckFail) (info : Nat) : State :=
  let s := s.chargeArrays t c m.m fails
  if m.cls < 2 then
    s.report (tileDA t) m.cls 0x02 (ledgerRef (tileDA t) 0x01 (4 * c + (fails.headD ⟨0, [], []⟩).array)) info
  else s

theorem recordCheck_spec (info : Nat) : Signals s (s.recordCheck t c m info) ∧
    (bit info 2 = true → bit ((s.recordCheck t c m info).reg (tileDA t) (pgMq c) 0x014) 0 = true) ∧
    (bit info 3 = true → bit ((s.recordCheck t c m info).reg (tileDA t) (pgMq c) 0x014) 1 = true) := by
  have hflag : ∀ (s : State) b n, Signals s (if b = true then s.flag (tileDA t) (pgMq c) n else s) := fun s b n => by
    split
    · exact flag_signals ..
    · exact .refl s
  unfold State.recordCheck
  extract_lets da fresh s1 s2
  have h1 : Signals s s1 := hflag ..
  have h2 : Signals s1 s2 := hflag ..
  have h3 : Signals s2 (if fresh = true then (s2.setReg da (pgMq c) 0x04C info).setReg da (pgMq c) 0x050 m.seq else s2) := by
    split
    · exact (setReg_signals _ _ _ _ _ (by decide) (by decide) (by decide)).trans
        (setReg_signals _ _ _ _ _ (by decide) (by decide) (by decide))
    · exact .refl s2
  refine ⟨(h1.trans h2).trans h3, fun hb => ?_, fun hb => ?_⟩
  · refine (h2.trans h3).sent.faults _ _ _ (by decide) ?_
    rw [show s1 = s.flag da (pgMq c) 0 from if_pos hb]
    exact flag_sets_bit _ _ _ (by decide)
  · refine h3.sent.faults _ _ _ (by decide) ?_
    rw [show s2 = s1.flag da (pgMq c) 1 from if_pos hb]
    exact flag_sets_bit _ _ _ (by decide)

theorem reportCheck_spec (fails : List CheckFail) (info : Nat) :
    let u := s.reportCheck t c m fails info
    Signals s u ∧
    (∀ f ∈ fails, Charges s u (tileDA t) (ledgerRef (tileDA t) 0x01 (4 * c + f.array)) ckConfirmed 0x02
      ((failColumn f m.m).getD noRef)) ∧
    (∀ f l, fails = f :: l → m.cls < 2 →
      Reports s u (tileDA t) m.cls 0x02 (ledgerRef (tileDA t) 0x01 (4 * c + f.array)) info) := by
  unfold State.reportCheck
  extract_lets s1 u
  have h1 : Signals s s1 := chargeArrays_signals ..
  have h2 : Signals s1 u := by
    show Signals s1 (if m.cls < 2 then _ else s1)
    split
    · exact report_signals ..
    · exact .refl s1
  refine ⟨h1.trans h2, fun f hf => Sends.mono (chargeArrays_charges _ _ _ _ _ hf) h2.sent, ?_⟩
  rintro f l rfl hcls
  rw [show u = s1.report _ _ _ _ _ from if_pos hcls]
  exact .of_keepsSent h1.sent h1.pacer (report_reports ..)

/-- The check of a multiply of class `m.cls` in the state `s`, which holds the quad as the check leaves it. -/
def State.endCheck (fails : List CheckFail) : State :=
  ((s.recordCheck t c m (chkInfo fails m.m)).raiseCk t c m.cls).reportCheck t c m fails (chkInfo fails m.m)

theorem raiseCk_spec (cls : Nat) : KeepsSent s (s.raiseCk t c cls) ∧ (s.raiseCk t c cls).pacer = s.pacer ∧
    (s.raiseCk t c cls).quad t c = s.quad t c ∧ ((s.raiseCk t c cls).bank t c cls).ck = true := by
  unfold State.raiseCk
  have hupd : KeepsSent s (s.updBank t c cls fun b => { b with ck := true }) := .of_net rfl (.of_regs rfl)
  have hmark := markFresh_signals (s.updBank t c cls fun b => { b with ck := true }) (eventKey t c) (2 * cls)
  refine ⟨hupd.trans hmark.sent, hmark.pacer, ?_, ?_⟩
  · rw [quad_of_cores (markFresh_cores ..), updBank_quad]
  · rw [bank_of_cores (markFresh_cores ..), State.updBank_bank_self]

theorem endCheck_spec (fails : List CheckFail) :
    let u := s.endCheck t c m fails
    u.quad t c = s.quad t c ∧ (u.bank t c m.cls).ck = true ∧
    (∀ f ∈ fails, Charges s u (tileDA t) (ledgerRef (tileDA t) 0x01 (4 * c + f.array)) ckConfirmed 0x02
      ((failColumn f m.m).getD noRef)) ∧
    (∀ f l, fails = f :: l → m.cls < 2 →
      Reports s u (tileDA t) m.cls 0x02 (ledgerRef (tileDA t) 0x01 (4 * c + f.array)) (chkInfo fails m.m)) ∧
    (bit (chkInfo fails m.m) 2 = true → bit (u.reg (tileDA t) (pgMq c) 0x014) 0 = true) ∧
    (bit (chkInfo fails m.m) 3 = true → bit (u.reg (tileDA t) (pgMq c) 0x014) 1 = true) := by
  let s1 := s.recordCheck t c m (chkInfo fails m.m)
  let s2 := s1.raiseCk t c m.cls
  obtain ⟨h1, hbit0, hbit1⟩ := recordCheck_spec s t c m (chkInfo fails m.m)
  obtain ⟨h2, hpacer2, hquad2, hck2⟩ := raiseCk_spec s1 t c m.cls
  obtain ⟨h3, hcharges, hreports⟩ := reportCheck_spec s2 t c m fails (chkInfo fails m.m)
  have hsent : KeepsSent s s2 := h1.sent.trans h2
  have hpacer : s2.pacer = s.pacer := hpacer2.trans h1.pacer
  have hfaults : KeepsFaults s1 (s.endCheck t c m fails) := h2.faults.trans h3.sent.faults
  refine ⟨?_, ?_, fun f hf => .of_keepsSent hsent hpacer (hcharges f hf),
    fun f l hl hcls => .of_keepsSent hsent hpacer (hreports f l hl hcls), fun hb => hfaults _ _ _ (by decide) (hbit0 hb),
    fun hb => hfaults _ _ _ (by decide) (hbit1 hb)⟩
  · have hquad1 : s1.quad t c = s.quad t c := congrArg Core.quad (h1.core t c)
    exact (congrArg Core.quad (h3.core t c)).trans (hquad2.trans hquad1)
  · exact (congrArg (fun k => (Core.bank k m.cls).ck) (h3.core t c)).trans hck2
end

section
variable {s : State} {t c : Nat} {e : MulExec} {r : List MulExec} {md : MMode} {g : Geo} {fails : List CheckFail}

theorem exec_matrixCheck (h : (s.quad t c).muls = e :: r) (hg : e.cmd.geo = some (md, g)) (hskip : e.skipped = false)
    (hfails : mergeFails e.fails fails e.cmd.m ≠ []) :
    let all := mergeFails e.fails fails e.cmd.m
    exec (.matrixCheck t c fails) s =
      .next ((s.setQuad t c ((s.quad t c).checked e r md g all)).endCheck t c e.cmd all) := by
  have hgo : (e.skipped || (mergeFails e.fails fails e.cmd.m).isEmpty) = false := by
    simpa [hskip] using hfails
  show execMatrixCheck t c fails s = _
  simp only [execMatrixCheck, h, hg, hgo]
  rfl
end

/-- Settles O19: a multiply by what each part of its completion leaves (`finishMul_spec`), a load by induction over its arrays
(`fillPlanes_shadowPlane`), a check by the marks that the later multiplies keep (`checked_failedAt`) and the packets it hands over
(`endCheck_spec`). -/
theorem matrixCompletionsAndChecks : Obligations.MatrixCompletionsAndChecks := by
  refine ⟨fun s t c => ⟨fun e r h => nextDone_spec h, fun e r h hf => ⟨_, exec_multiplyComplete h hf, ?_⟩,
    fun m h => ⟨_, exec_weightLoadComplete h, ?_⟩⟩, fun s t c fails e r h md g hg hskip hfails => ?_⟩
  · obtain ⟨hquad, hastat, hout, hcount, hrefund, hmem⟩ := finishMul_spec (s.setQuad t c { s.quad t c with muls := r }) t c e
    rw [setQuad_bank] at hastat hout
    refine ⟨?_, hastat, hout, hcount, hrefund, fun o ho hsep => ?_⟩
    · rw [hquad, setQuad_quad_self]
    · rw [bytesAt_of_mem hmem]
      exact writeOuts_bytesAt _ _ _ _ _ _ hsep (.inl ho)
  · dsimp only
    rw [completeMq_quad, setQuad_quad_self, completeMq_outM, setQuad_bank, completeMq_count]
    obtain ⟨_, hframe⟩ := loadDone_frame (s.quad t c) m
    refine ⟨rfl, by rw [hframe], by rw [hframe], fun a ha hbit => ?_, fun a _ => loadDone_activePlane .., rfl, rfl⟩
    rw [loadDone_shadowPlane _ _ ha hbit]
    exact ⟨rfl, rfl, rfl, loadedPlane_clean .., rfl⟩
  · intro m all hit
    refine ⟨_, exec_matrixCheck h hg hskip hfails, ?_⟩
    let q := (s.quad t c).checked e r md g all
    have hset : KeepsSent s (s.setQuad t c q) := .of_net rfl (.of_regs rfl)
    obtain ⟨hquad, hck, hcharges, hreports, hcol, hrow⟩ := endCheck_spec (s.setQuad t c q) t c m all
    rw [setQuad_quad_self] at hquad
    obtain ⟨l, hlen, hmuls⟩ := checked_muls (s.quad t c) e r md g all
    refine ⟨hck, ?_, fun x y hxy => ?_, fun i n hi hn hhit hlater => ?_, fun f hf => .of_keepsSent hset rfl (hcharges f hf),
      fun f l hl hcls => .of_keepsSent hset rfl (hreports f l hl hcls), hcol, hrow⟩
    · rw [hquad, hmuls, h, List.length_cons, List.length_cons, hlen]
    · rw [hquad, hmuls] at hxy
      obtain ⟨rfl, -⟩ := List.cons.inj hxy
      exact ⟨rfl, rfl⟩
    · rw [hquad]
      exact checked_failedAt (s.quad t c) e r md g all hi hn hhit hlater

end Sys2Proof.Machine
end

section
/-! PROOFS. What GATE does (R119 to R121): the pending stores that its reads see, its selection, and its issue. -/

namespace Sys2Proof.Machine

/-! ### The stores that an access reads (R133) -/

/-- Two states have the same stores, with the same marks. -/
def SameMem (s u : State) : Prop := u.mem = s.mem ∧ u.poison = s.poison

section
variable {s u : State}

/-- States beside two that have the same stores have the same stores. -/
theorem SameMem.of_beside {s' u' : State} {t c t' c' : Nat} (h : SameMem s u) (hs : Beside s s' t c) (hu : Beside u u' t' c') :
    SameMem s' u' := by
  obtain ⟨-, -, -, hsm, hsp⟩ := hs
  obtain ⟨-, -, -, hum, hup⟩ := hu
  exact ⟨by rw [hum, hsm, h.1], by rw [hup, hsp, h.2]⟩

theorem writeGran_sameMem (h : SameMem s u) (sp : Sp) (unit a : Nat) (bs : List (Option Byte)) (p : Bool) :
    SameMem (s.writeGran sp unit a bs p) (u.writeGran sp unit a bs p) := by
  obtain ⟨hmem, hpoison⟩ := h
  obtain ⟨_, hs⟩ := captureOld_frame s sp unit a
  obtain ⟨_, hu⟩ := captureOld_frame u sp unit a
  unfold State.writeGran
  split
  · exact ⟨hmem, hpoison⟩
  · exact ⟨by simp only [hs, hu, hmem], by simp only [hs, hu, hpoison]⟩

theorem writePieces_sameMem (h : SameMem s u) (sp : Sp) (unit n a : Nat) (bs : List (Option Byte)) (ps : List Bool) :
    SameMem (s.writePieces sp unit n a bs ps) (u.writePieces sp unit n a bs ps) := by
  induction n generalizing s u a bs ps with
  | zero => exact h
  | succ n ih => exact ih (writeGran_sameMem h ..) ..

theorem writeAll_sameMem (h : SameMem s u) (sp : Sp) (unit a : Nat) (bs : List Byte) (p : Bool) :
    SameMem (s.writeAll sp unit a bs p) (u.writeAll sp unit a bs p) := writePieces_sameMem h ..

variable {t c cls : Nat}

theorem writeRun_sameMem (h : SameMem s u) (a : Nat) (bs : List Byte) (p : Bool) :
    SameMem (s.writeRun t c cls a bs p) (u.writeRun t c cls a bs p) := by
  obtain ⟨_, hs⟩ := writeRun_frame s t c cls a bs p
  obtain ⟨_, hu⟩ := writeRun_frame u t c cls a bs p
  rw [hs, hu]
  exact writeAll_sameMem h ..

/-- What a pipeline write leaves in the stores follows from the stores and the write alone. -/
theorem applyWrite_sameMem (h : SameMem s u) (w : PendWrite) : SameMem (s.applyWrite t c cls w) (u.applyWrite t c cls w) := by
  unfold State.applyWrite
  split
  · exact (writeRun_sameMem h ..).of_beside (sawStore_beside ..) (sawStore_beside ..)
  · exact writeAll_sameMem h ..
  · have hset : SameMem (s.updBank t c cls fun b => { b with astat := b.astat ||| w.val.val.setWidth 4 })
        (u.updBank t c cls fun b => { b with astat := b.astat ||| w.val.val.setWidth 4 }) := h
    exact hset.of_beside (mergeFlags_beside ..) (mergeFlags_beside ..)
  · exact h

theorem applyWrites_sameMem (h : SameMem s u) (l : List PendWrite) :
    SameMem (l.foldl (fun s w => s.applyWrite t c cls w) s) (l.foldl (fun s w => s.applyWrite t c cls w) u) := by
  induction l generalizing s u with
  | nil => exact h
  | cons w l ih => exact ih (applyWrite_sameMem h w)

/-- The stores that fall due come from the bank, so that nothing else of the core decides what they leave. -/
theorem commitStores_sameMem (h : Beside s u t c) (d : Nat) : SameMem (s.commitStores t c cls d) (u.commitStores t c cls d) := by
  obtain ⟨-, hbank, -, hmem, hpoison⟩ := h
  unfold State.commitStores
  rw [hbank cls]
  extract_lets b now s' u'
  have hset : SameMem s' u' := ⟨hmem, hpoison⟩
  exact applyWrites_sameMem hset _

theorem gateScores_of_beside (h : Beside s u t c) (n a e : Nat) : u.gateScores t c cls n a e = s.gateScores t c cls n a e := by
  refine List.map_congr_left fun i _ => ?_
  obtain ⟨hmem, hpoison⟩ := commitStores_sameMem (cls := cls) h (n + i / 8)
  simp only [State.moveLoad, State.word, State.psn, bytesAt_of_mem hmem, hpoison]

/-! ### An issue from a state that the fetch or a count has changed -/

theorem incReg_beside (da page off n : Nat) : Beside s (s.incReg da page off n) t c := .of_eq rfl rfl rfl

theorem capture_inWindow (w : Word64) (a n : Nat) : (s.capture t c cls w).inWindow t c cls a n = s.inWindow t c cls a n := by
  unfold State.capture
  dsimp only
  split <;> rfl

theorem framed_of_beside {v : State} (h : Beside s v t c) (hu : Framed v u t c cls) : Framed s u t c cls := by
  obtain ⟨-, hbank, htime, hmem, hpoison⟩ := h
  unfold Framed at hu ⊢
  simp only [hbank, htime] at hu
  obtain ⟨hg, hflags, hstatus, hstores, hbanks⟩ := hu
  refine ⟨hg, hflags, hstatus, fun hquiet sp unit a => ?_, hbanks⟩
  obtain ⟨hbyte, hpsn⟩ := hstores hquiet sp unit a
  exact ⟨hbyte.trans (by rw [State.byte, State.byte, hmem]), hpsn.trans (by rw [State.psn, State.psn, hpoison])⟩

theorem issued_of_beside {v : State} {ws : List PendWrite} (h : Beside s v t c) (hu : Issued v u t c cls ws) :
    Issued s u t c cls ws := by
  obtain ⟨hpipe, htime, hspent, hcores, hframed⟩ := hu
  have hframed := framed_of_beside h hframed
  obtain ⟨hothers, hbank, hnow, -⟩ := h
  rw [hnow] at hpipe htime
  rw [hbank] at hspent
  exact ⟨hpipe, htime, hspent, fun t' c' hk => (hcores t' c' hk).trans (hothers t' c' hk), hframed⟩
end

/-! ### The selection (R119, R120) -/

theorem gatePick_length_le (n : Nat) (l : List (Nat × Num)) : (gatePick n l).length ≤ n := by
  induction n generalizing l with
  | zero => exact Nat.le_refl _
  | succ n ih =>
    unfold gatePick
    split
    · exact Nat.succ_le_succ (ih _)
    · exact Nat.zero_le _

/-- Every pick is the index of a candidate. -/
theorem exists_of_mem_gatePick {n i : Nat} {l : List (Nat × Num)} (h : i ∈ gatePick n l) : ∃ x, (i, x) ∈ l := by
  induction n generalizing l with
  | zero => cases h
  | succ n ih =>
    unfold gatePick at h
    split at h
    next y hy =>
      rcases List.mem_cons.mp h with rfl | h
      · exact ⟨y.2, List.mem_of_find?_eq_some hy⟩
      · obtain ⟨x, hx⟩ := ih h
        exact ⟨x, (List.mem_filter.mp hx).1⟩
    · cases h

theorem getElem?_of_mem_zip_range {α : Type} {l : List α} {i : Nat} {x : α} (h : (i, x) ∈ (List.range l.length).zip l) :
    l[i]? = some x := by
  obtain ⟨k, hk, hx⟩ := List.getElem_of_mem h
  simp only [List.getElem_zip, List.getElem_range, Prod.mk.injEq] at hx
  obtain ⟨rfl, rfl⟩ := hx
  exact List.getElem?_eq_getElem _

theorem gateSelect_length_le (theta : Num) (xs : List Num) (kmax : Nat) : (gateSelect theta xs kmax).length ≤ kmax := by
  unfold gateSelect
  split
  · exact Nat.zero_le _
  · exact gatePick_length_le ..

/-- A selected expert is eligible. -/
theorem eligible_of_mem_gateSelect {theta : Num} {xs : List Num} {kmax i : Nat} (h : i ∈ gateSelect theta xs kmax) :
    ∃ x, xs[i]? = some x ∧ x.isNan = false ∧ x.cmpX theta ≠ -1 := by
  unfold gateSelect at h
  split at h
  · cases h
  · obtain ⟨x, hx⟩ := exists_of_mem_gatePick h
    obtain ⟨hzip, heligible⟩ := List.mem_filter.mp hx
    exact ⟨x, getElem?_of_mem_zip_range hzip, by simpa using heligible⟩

/-! ### The issue (R121) -/

/-- What GATE leaves pending beside its results: the post-modification `pm`, and NVI where a score or the threshold is a NaN. -/
def gateSideWrites (pm : PendWrite) (due : Nat) (nan : Bool) : List PendWrite :=
  pm :: if nan then [wrReg due .astatSet (flNVI.setWidth 32)] else []

theorem later_gateSideWrites (b : Bank) (n i j : Nat) {due : Nat} (hdue : due ≠ n) (nan : Bool) :
    Later n (gateSideWrites (b.postMod n i j) due nan) := by
  rintro x hx hd
  rcases List.mem_cons.mp hx with rfl | hx
  · exact ⟨fun _ h => (nomatch h), rfl, rfl, rfl⟩
  · cases nan
    · cases hx
    · exact later_cons hdue (later_nil n) x hx hd

/-- Where its operands carry no poison and its scores lie in the window, GATE counts the experts left out and issues, its results
first. -/
theorem exec_gate {s : State} {t c cls : Nat} {w : Word64} (h : SeqAt s t c cls w 3 5) :
    let n := (s.core t c).time
    let b := s.bank t c cls
    let e := iE w.toNat
    let a := b.aOf (iDai w.toNat)
    let th := (b.opView n).gOf (iGs1 w.toNat)
    let sc := s.gateScores t c cls n a e
    let theta := fFp32.decode th.val.toNat
    let xs := sc.map fun x => fFp32.decode x.val.toNat
    let sel := gateSelect theta xs (iKmax w.toNat)
    let due := n + 4 + (e + 7) / 8
    th.poison = false → (e = 0 ∨ (a % 4 = 0 ∧ s.inWindow t c cls a (4 * e) = true)) → (∀ x ∈ sc, x.poison = false) →
    exec (.gate t c w) s = .next (((s.capture t c cls w).incReg (tileDA t) (pgSeq c) 0x07C (iKmax w.toNat - sel.length)).issue t c cls
      ([wrG due (iGd w.toNat) (BitVec.ofNat 32 (gateMask sel)) false,
        wrG due (iGd w.toNat + 1) (BitVec.ofNat 32 (gateOrder sel)) false] ++
        gateSideWrites (b.postMod n (iDai w.toNat) (iDmi w.toNat)) due (theta.isNan || xs.any (·.isNan))) Bank.next) := by
  intro n b e a th sc theta xs sel due hth haddr hsc
  have hbeside := capture_beside s t c cls w
  have hscores : (s.capture t c cls w).gateScores t c cls n a e = sc := gateScores_of_beside hbeside n a e
  obtain ⟨-, hbank, htime, -, -⟩ := hbeside
  have hinside : ¬(e ≠ 0 ∧ (a % 4 ≠ 0 ∨ (!s.inWindow t c cls a (4 * e)) = true)) := by
    rintro ⟨he, hbad⟩
    obtain ⟨halign, hwin⟩ := haddr.resolve_left he
    simp [halign, hwin] at hbad
  have hclean : ¬(sc.any fun x => x.poison) = true := by simpa using hsc
  show execGate t c w s = _
  unfold execGate
  rw [seq_of_at h]
  simp only [hbank, htime, capture_inWindow]
  rw [if_neg (Bool.eq_false_iff.mp hth), if_neg hinside, hscores, if_neg hclean]
  rfl

/-- Settles O16: the scores that GATE reads are those of the state it issues from (`gateScores_of_beside`), its results fall due after
the issue cycle, and by induction over the picks each selected expert is one of the eligible (`exists_of_mem_gatePick`). -/
theorem gateSelects : Obligations.GateSelects := by
  refine ⟨?_, fun theta xs kmax => ⟨gateSelect_length_le .., fun i hi => eligible_of_mem_gateSelect hi⟩⟩
  intro s t c cls w h n b e a th sc sel due hth haddr hsc
  have hbeside := (capture_beside s t c cls w).trans (incReg_beside (tileDA t) (pgSeq c) 0x07C (iKmax w.toNat - sel.length))
  refine ⟨_, exec_gate h hth haddr hsc, issued_of_beside hbeside (issued_mono (issue_issued _ _ _ _ _ _ next_keeps ?_)
    fun x => List.mem_append_left _)⟩
  obtain ⟨-, -, htime, -⟩ := hbeside
  rw [htime]
  have hdue : due ≠ n := by omega
  exact later_cons hdue (later_cons hdue (later_gateSideWrites b n _ _ hdue _))

end Sys2Proof.Machine
end

section
/-! PROOFS. What the operations that the streamers share leave of the queues of a core, and what the end of a stream leaves (R194,
R195, R205, R206, R222). -/

namespace Sys2Proof.Machine

section
variable {s : State} {t c cls : Nat}

/-! ### The queues of a core (R194, R195) -/

theorem core_of_cores {u : State} (h : u.cores = s.cores) (t c : Nat) : u.core t c = s.core t c := by
  rw [State.core, State.core, h]

theorem running_cls {q : StrUnit} {x : Stream} (h : q.running cls = some x) : x.cls = cls := by
  simpa using List.find?_some h

/-- The stream put in the place of the running one of its class runs. -/
theorem find?_replaceFirst {l : List Stream} {x y : Stream} (h : l.find? (fun z => z.cls == cls) = some x) (hy : y.cls = cls) :
    (replaceFirst cls (some y) l).find? (fun z => z.cls == cls) = some y := by
  induction l with
  | nil => cases h
  | cons z l ih =>
    unfold replaceFirst
    by_cases hz : z.cls = cls
    · simp [hz, hy]
    · rw [if_neg hz, List.find?_cons_of_neg (by simpa using hz)]
      exact ih (by rwa [List.find?_cons_of_neg (by simpa using hz)] at h)

@[simp] theorem setRunning_streams (v : Option Stream) :
    ((s.setRunning t c cls v).core t c).str.streams = replaceFirst cls v (s.core t c).str.streams := by
  simp [State.setRunning]

@[simp] theorem setRunning_waiting (v : Option Stream) :
    ((s.setRunning t c cls v).core t c).str.waiting = (s.core t c).str.waiting := by
  simp [State.setRunning]

@[simp] theorem setRunning_mem (v : Option Stream) : (s.setRunning t c cls v).mem = s.mem := rfl

@[simp] theorem setRunning_bank (v : Option Stream) (j : Nat) : (s.setRunning t c cls v).bank t c j = s.bank t c j :=
  updCore_bank_of_banks _ t c j fun _ => by rcases j with _ | _ | _ <;> rfl

@[simp] theorem setRunning_disp (v : Option Stream) : (s.setRunning t c cls v).disp t c = s.disp t c := by
  simp [State.setRunning, State.disp]

theorem setRunning_running {x y : Stream} (h : (s.core t c).str.running cls = some x) (hy : y.cls = cls) :
    ((s.setRunning t c cls (some y)).core t c).str.running cls = some y := by
  rw [StrUnit.running, setRunning_streams]
  exact find?_replaceFirst h hy

/-- Where no stream waits for an entry, none enters. -/
theorem admitStreams_of_waiting_nil (h : (s.core t c).str.waiting = []) : s.admitStreams t c = s := by
  rw [State.admitStreams, h]
  rfl

@[simp] theorem updDisp_bank (f : Disp → Disp) (j : Nat) : (s.updDisp t c f).bank t c j = s.bank t c j :=
  updCore_bank_of_banks _ t c j fun _ => by rcases j with _ | _ | _ <;> rfl

@[simp] theorem updDisp_str (f : Disp → Disp) : ((s.updDisp t c f).core t c).str = (s.core t c).str := by
  simp [State.updDisp]
end

/-! ### Registers that no packet sent and no flag writes -/

theorem inject_regs (s : State) (p : Packet) : (s.inject p).regs = s.regs := by
  unfold State.inject
  dsimp only
  split <;> rfl

/-- The offset of a register other than FAULT, EVENT_COUNT and the NI's record of an error. -/
structure PlainOff (off : Nat) : Prop where
  lt : off < 4096
  fault : off ≠ 0x014
  events : off ≠ 0x020
  niErr : off ≠ 0x060

section
variable (s : State) {off : Nat} (h : PlainOff off) (da page : Nat)
include h

theorem flag_reg_plain (da' page' n : Nat) : (s.flag da' page' n).reg da page off = s.reg da page off :=
  flag_reg_of_off_ne s _ _ _ _ _ _ _ h.lt (by decide) h.fault h.events

theorem niError_reg_plain (da' status : Nat) (p : Packet) : (s.niError da' p status).reg da page off = s.reg da page off := by
  have hpost (s : State) (q : Packet) : (s.postRaw q).reg da page off = s.reg da page off := by
    unfold State.postRaw
    split
    · exact reg_of_regs (inject_regs ..) ..
    · exact flag_reg_plain s h da page _ _ _
  unfold State.niError
  extract_lets old info u
  have hu : u.reg da page off = s.reg da page off := by
    show (if bit old 31 = true then s else s.setReg da' pgNi 0x060 info).reg da page off = _
    split
    · rfl
    · exact setReg_reg_of_off_ne s _ _ _ _ _ _ _ _ _ (by decide) (by decide) h.lt (by decide) h.niErr
  split
  · exact (hpost u _).trans hu
  · exact hu

theorem post_reg_plain (p : Packet) : (s.post p).reg da page off = s.reg da page off := by
  unfold State.post
  split
  · exact reg_of_regs (inject_regs ..) ..
  · extract_lets u
    have hu : u.reg da page off = s.reg da page off := flag_reg_plain s h da page _ _ _
    split
    · exact (niError_reg_plain u h da page _ _ _).trans hu
    · exact hu
end

/-! ### What the end of a stream leaves -/

/-- The queues of a core, the memory and the placement stand, and so does every register other than FAULT, EVENT_COUNT and the
NI's record of an error; what was sent stays sent. -/
structure KeepsQueues (s u : State) (t c : Nat) : Prop where
  str : (u.core t c).str = (s.core t c).str
  mem : u.mem = s.mem
  place : u.place = s.place
  reg : ∀ da page {off}, PlainOff off → u.reg da page off = s.reg da page off
  sent : KeepsSent s u

section
variable {s u v : State} {t c : Nat}

theorem KeepsQueues.trans (h : KeepsQueues s u t c) (k : KeepsQueues u v t c) : KeepsQueues s v t c where
  str := k.str.trans h.str
  mem := k.mem.trans h.mem
  place := k.place.trans h.place
  reg da page _ hoff := (k.reg da page hoff).trans (h.reg da page hoff)
  sent := h.sent.trans k.sent

/-- An update of other parts of the state. -/
theorem KeepsQueues.of_eq (hstr : (u.core t c).str = (s.core t c).str) (hm : u.mem = s.mem) (hk : u.keeper = s.keeper)
    (hr : u.regs = s.regs) (hn : u.net = s.net) : KeepsQueues s u t c where
  str := hstr
  mem := hm
  place := by rw [State.place, State.place, hk]
  reg da page _ _ := reg_of_regs hr da page _ 0
  sent := .of_net hn (.of_regs hr)

theorem KeepsQueues.refl (s : State) (t c : Nat) : KeepsQueues s s t c := .of_eq rfl rfl rfl rfl rfl

theorem KeepsQueues.of_signals (h : Signals s u)
    (hr : ∀ da page {off}, PlainOff off → u.reg da page off = s.reg da page off) : KeepsQueues s u t c := by
  obtain ⟨⟨_, _, _, _, _, _, rfl⟩, hs⟩ := h
  exact ⟨rfl, rfl, rfl, hr, hs⟩
end

section
variable (s : State) (t c : Nat)

theorem updBank_keepsQueues (cls : Nat) (f : Bank → Bank) : KeepsQueues s (s.updBank t c cls f) t c :=
  .of_eq (updBank_str s t c cls f) rfl rfl rfl rfl

theorem updDisp_keepsQueues (f : Disp → Disp) : KeepsQueues s (s.updDisp t c f) t c := .of_eq (updDisp_str f) rfl rfl rfl rfl

theorem flag_keepsQueues (da page n : Nat) : KeepsQueues s (s.flag da page n) t c :=
  .of_signals (flag_signals ..) fun da' page' _ h => flag_reg_plain s h da' page' _ _ _

theorem post_keepsQueues (p : Packet) : KeepsQueues s (s.post p) t c :=
  .of_signals (post_signals ..) fun da page _ h => post_reg_plain s h da page _

theorem parkTask_keepsQueues (k : Task) : KeepsQueues s (s.parkTask t c k) t c := by
  unfold State.parkTask
  split
  · exact updDisp_keepsQueues ..
  · exact flag_keepsQueues ..

/-- The handing over of an arrival: a packet to the die that it names, or a flag where none is bound to that number (R251). -/
theorem sendArrival_cases (cls die tally : Nat) :
    (∃ p, s.sendArrival t c cls die tally = s.post p) ∨ ∃ da, s.sendArrival t c cls die tally = s.flag da pgNi 1 := by
  unfold State.sendArrival State.postLogical
  dsimp only
  split
  · exact .inl ⟨_, rfl⟩
  · split
    · exact .inl ⟨_, rfl⟩
    · exact .inr ⟨_, rfl⟩

theorem sendArrival_keepsQueues (cls die tally : Nat) : KeepsQueues s (s.sendArrival t c cls die tally) t c := by
  obtain ⟨_, h⟩ | ⟨_, h⟩ := sendArrival_cases s t c cls die tally <;> rw [h]
  · exact post_keepsQueues ..
  · exact flag_keepsQueues ..

theorem sendArrival_signals (cls die tally : Nat) : Signals s (s.sendArrival t c cls die tally) := by
  obtain ⟨_, h⟩ | ⟨_, h⟩ := sendArrival_cases s t c cls die tally <;> rw [h]
  · exact post_signals ..
  · exact flag_signals ..

theorem sendArrival_sends (cls die tally : Nat) {d : Nat} (h : (if die = 0xFF then some t else s.physDie die) = some d) :
    Sends s (s.sendArrival t c cls die tally) { arrPkt (tileDA t) c 9 cls tally with dst := BitVec.ofNat 8 (tileDA d) } := by
  unfold State.sendArrival State.postLogical
  dsimp only
  split at h
  next hown =>
    cases h
    rw [if_pos hown]
    exact post_sends ..
  next hown =>
    rw [if_neg hown, h]
    exact post_sends ..

/-! ### The completion of a stream (R205) -/

variable (st : Stream)

/-- The completion record of a stream, where its descriptor asks for one (R206). -/
def State.recordStream : State :=
  if dRec st.desc then s.writeRun t c st.runCls (dCaddr st.desc) (s.strRecord st) false else s

/-- What started a stream learns of its end: the program that issued it, the timetable, or the dispatcher (R205 step 2, R222). -/
def State.tellSource : State :=
  match st.src with
  | .sis =>
    let s := s.updBank t c st.cls fun b => { b with outS := b.outS - 1 }
    if st.xf && (s.bank t c 2).isTask && decide (st.cls = 2) then s.updDisp t c fun d => { d with xfaulted := true } else s
  | .timetable i tick => s.completeEntry i tick
  | .taskIn =>
    match (s.disp t c).staged with
    | some k =>
      if st.xf then (s.updDisp t c fun d => { d with staged := none, ready := false }).parkTask t c k
      else s.updDisp t c fun d => { d with ready := true }
    | none => s

/-- The completion up to the arrival that it sends. -/
def State.endStream : State := ((s.recordStream t c st).incReg (tileDA t) (pgStr c) 0x048).tellSource t c st

theorem finishStream_eq : s.finishStream t c st =
    if dTen st.desc then (s.endStream t c st).sendArrival t c st.cls (dTdie st.desc) (dTally st.desc) else s.endStream t c st := by
  obtain ⟨cls, src, index, desc, gateOpen⟩ := st
  cases src <;> rfl

theorem strRecord_length : (s.strRecord st).length = 32 := rfl

theorem recordStream_frame : ∃ m q z x y u, s.recordStream t c st =
    { s with mem := m, poison := q, zeroTags := z, dirty0 := x, dirty1 := y, tiles := u } := by
  unfold State.recordStream
  split
  · exact writeRun_store_frame ..
  · exact ⟨_, _, _, _, _, _, rfl⟩

theorem recordStream_bytesAt (h : dRec st.desc = true) :
    (s.recordStream t c st).bytesAt .core (coreKey t c) (dCaddr st.desc) 32 = s.strRecord st := by
  rw [State.recordStream, if_pos h, bytesAt_of_mem (writeRun_mem ..), ← strRecord_length s st]
  exact writeAll_bytesAt ..

theorem tellSource_keepsQueues : KeepsQueues s (s.tellSource t c st) t c := by
  unfold State.tellSource
  split
  · extract_lets u
    have hu : KeepsQueues s u t c := updBank_keepsQueues ..
    split
    · exact hu.trans (updDisp_keepsQueues ..)
    · exact hu
  · exact .of_eq rfl rfl rfl rfl rfl
  · split
    · split
      · exact (updDisp_keepsQueues ..).trans (parkTask_keepsQueues ..)
      · exact updDisp_keepsQueues ..
    · exact .refl ..

variable {st}

theorem tellSource_outS (h : st.src = .sis) :
    ((s.tellSource t c st).bank t c st.cls).outS = (s.bank t c st.cls).outS - 1 := by
  simp only [State.tellSource, h]
  split <;> simp

theorem tellSource_complete {i k : Nat} (h : st.src = .timetable i k) : (i, k) ∈ (s.tellSource t c st).pacer.complete := by
  simp only [State.tellSource, h]
  exact List.mem_cons_self

theorem tellSource_ready (h : st.src = .taskIn) (hx : st.xf = false) (hs : (s.disp t c).staged.isSome = true) :
    ((s.tellSource t c st).disp t c).ready = true := by
  obtain ⟨k, hk⟩ := Option.isSome_iff_exists.mp hs
  simp [State.tellSource, h, hx, hk]

variable (st)

theorem endStream_str : ((s.endStream t c st).core t c).str = (s.core t c).str := by
  obtain ⟨_, _, _, _, _, _, h⟩ := recordStream_frame s t c st
  rw [State.endStream, h]
  exact (tellSource_keepsQueues ..).str

theorem endStream_count :
    (s.endStream t c st).reg (tileDA t) (pgStr c) 0x048 = (s.reg (tileDA t) (pgStr c) 0x048 + 1) % 2 ^ 32 := by
  obtain ⟨_, _, _, _, _, _, h⟩ := recordStream_frame s t c st
  rw [State.endStream, (tellSource_keepsQueues ..).reg _ _ ⟨by decide, by decide, by decide, by decide⟩, incReg_reg_self, h]
  rfl

theorem endStream_bytesAt (h : dRec st.desc = true) :
    (s.endStream t c st).bytesAt .core (coreKey t c) (dCaddr st.desc) 32 = s.strRecord st := by
  rw [State.endStream, bytesAt_of_mem (tellSource_keepsQueues ..).mem]
  exact recordStream_bytesAt s t c st h

theorem endStream_keepsSent : KeepsSent s (s.endStream t c st) := by
  obtain ⟨_, _, _, _, _, _, h⟩ := recordStream_frame s t c st
  have hrecord : KeepsSent s (s.recordStream t c st) := by
    rw [h]
    exact .of_net rfl (.of_regs rfl)
  exact (hrecord.trans (setReg_signals _ _ _ _ _ (by decide) (by decide) (by decide)).sent).trans (tellSource_keepsQueues ..).sent

theorem endStream_physDie (n : Nat) : (s.endStream t c st).physDie n = s.physDie n := by
  obtain ⟨_, _, _, _, _, _, h⟩ := recordStream_frame s t c st
  rw [State.physDie, State.endStream, (tellSource_keepsQueues ..).place, h]
  rfl

theorem finishStream_signals : Signals (s.endStream t c st) (s.finishStream t c st) := by
  rw [finishStream_eq]
  split
  · exact sendArrival_signals ..
  · exact .refl _

theorem finishStream_str : ((s.finishStream t c st).core t c).str = (s.core t c).str := by
  rw [(finishStream_signals s t c st).core, endStream_str]

/-- The end of a stream: the count, the record, what started it, and the arrival. -/
theorem finishStream_spec :
    let u := s.finishStream t c st
    u.reg (tileDA t) (pgStr c) 0x048 = (s.reg (tileDA t) (pgStr c) 0x048 + 1) % 2 ^ 32 ∧
    (dRec st.desc = true → u.bytesAt .core (coreKey t c) (dCaddr st.desc) 32 = s.strRecord st) ∧
    (st.src = .sis → (u.bank t c st.cls).outS = (s.bank t c st.cls).outS - 1) ∧
    (∀ i k, st.src = .timetable i k → (i, k) ∈ u.pacer.complete) ∧
    (st.src = .taskIn → st.xf = false → (s.disp t c).staged.isSome = true → (u.disp t c).ready = true) ∧
    (∀ d, dTen st.desc = true → (if dTdie st.desc = 0xFF then some t else s.physDie (dTdie st.desc)) = some d →
      Sends s u { arrPkt (tileDA t) c 9 st.cls (dTally st.desc) with dst := BitVec.ofNat 8 (tileDA d) }) := by
  intro u
  have hu : Signals (s.endStream t c st) u := finishStream_signals s t c st
  have hcore : u.core t c = (s.endStream t c st).core t c := hu.core t c
  obtain ⟨_, _, _, _, _, _, hrecord⟩ := recordStream_frame s t c st
  refine ⟨?_, fun h => ?_, fun h => ?_, fun i k h => ?_, fun h hx hs => ?_, fun d hten hd => ?_⟩
  · rw [← endStream_count]
    show (s.finishStream t c st).reg _ _ _ = _
    rw [finishStream_eq]
    split
    · exact (sendArrival_keepsQueues ..).reg _ _ ⟨by decide, by decide, by decide, by decide⟩
    · rfl
  · rw [← endStream_bytesAt s t c st h]
    obtain ⟨⟨_, _, _, _, _, _, hframe⟩, -⟩ := hu
    exact bytesAt_of_mem (by rw [hframe]) ..
  · rw [State.bank, hcore]
    refine (tellSource_outS _ t c h).trans ?_
    rw [hrecord]
    rfl
  · rw [hu.pacer]
    exact tellSource_complete _ t c h
  · rw [State.disp, hcore]
    refine tellSource_ready _ t c h hx ?_
    rw [hrecord]
    exact hs
  · have hsends := sendArrival_sends (s.endStream t c st) t c st.cls (dTdie st.desc) (dTally st.desc)
      (by rwa [endStream_physDie])
    show Sends s (s.finishStream t c st) _
    rw [finishStream_eq, if_pos hten]
    exact .of_keepsSent (endStream_keepsSent s t c st) hsends
end

end Sys2Proof.Machine
end

section
/-! PROOFS. What STREAM_REQUEST does (R195, R202, R212, R215): which stream it serves, and a request between the stores of the own
core and die. -/

namespace Sys2Proof.Machine

/-! ### The bytes that delivered elements cover (R202) -/

/-- The run of bytes covers byte address `a`. -/
def Seg.Covers (g : Seg) (a : Nat) : Prop := g.addr ≤ a ∧ a < g.addr + g.bytes.length

/-- Joined runs cover no byte that the runs did not. -/
theorem covers_of_mem_joinSegs {l : List Seg} {g : Seg} {a : Nat} (hg : g ∈ joinSegs l) (ha : g.Covers a) :
    ∃ x ∈ l, x.Covers a := by
  induction l generalizing g with
  | nil => cases hg
  | cons x l ih =>
    have hlater {g : Seg} (hg : g ∈ joinSegs l) (ha : g.Covers a) : ∃ y ∈ x :: l, y.Covers a := by
      obtain ⟨y, hy, hya⟩ := ih hg ha
      exact ⟨y, List.mem_cons_of_mem _ hy, hya⟩
    unfold joinSegs at hg
    split at hg
    next => exact ⟨x, List.mem_cons_self, List.mem_singleton.mp hg ▸ ha⟩
    next y r hr =>
      split at hg
      next hadj =>
        obtain rfl | hg := List.mem_cons.mp hg
        · obtain ⟨hlo, hhi⟩ := ha
          simp only [List.length_append] at hlo hhi
          by_cases hx : a < x.addr + x.bytes.length
          · exact ⟨x, List.mem_cons_self, hlo, hx⟩
          · exact hlater (g := y) (hr ▸ List.mem_cons_self) ⟨by omega, by omega⟩
        · exact hlater (hr ▸ List.mem_cons_of_mem _ hg) ha
      next =>
        obtain rfl | hg := List.mem_cons.mp hg
        · exact ⟨g, List.mem_cons_self, ha⟩
        · exact hlater (hr ▸ hg) ha

/-- A byte that the runs of `n` elements of `e` bytes cover is a byte of one of these elements at its destination. -/
theorem covers_of_mem_destSegs {d : List Word} {first e : Nat} {els : List (List Byte × Bool)} {g : Seg} {a : Nat}
    (he : ∀ x ∈ els, x.1.length = e) (hg : g ∈ destSegs d first els) (ha : g.Covers a) :
    ∃ i k, i < els.length ∧ k < e ∧ a = (dDst d (first + i)).toNat + k := by
  obtain ⟨x, hx, hlo, hhi⟩ := covers_of_mem_joinSegs hg ha
  obtain ⟨⟨i, el⟩, hmem, rfl⟩ := List.mem_map.mp hx
  obtain ⟨hi, hel⟩ := List.of_mem_zip hmem
  have hlen : el.1.length = e := he el hel
  exact ⟨i, a - (dDst d (first + i)).toNat, List.mem_range.mp hi, by dsimp only at hlo hhi; omega, by dsimp only at hlo; omega⟩

section
variable (s : State) (t c : Nat)

/-! ### A delivery -/

theorem noteSeg_frame (st : Stream) (g : Seg) : ∃ u, s.noteSeg t c st g = { s with tiles := u } := noteRun_frame ..

/-- One run of bytes written and noted. -/
def State.putSeg (sp : Sp) (unit : Nat) (st : Stream) (g : Seg) : State :=
  (s.write sp unit g.addr (g.bytes.map some) (granMarks g.addr g.psn)).noteSeg t c st g

theorem putSeg_cores (sp : Sp) (unit : Nat) (st : Stream) (g : Seg) : (s.putSeg t c sp unit st g).cores = s.cores := by
  obtain ⟨_, h⟩ := noteSeg_frame (s.write sp unit g.addr (g.bytes.map some) (granMarks g.addr g.psn)) t c st g
  rw [State.putSeg, h]
  exact write_cores ..

theorem putSeg_out (sp : Sp) (unit : Nat) (st : Stream) (g : Seg) {k : Nat}
    (h : ∀ a, g.Covers a → k ≠ gAddr sp unit a) : memGet (s.putSeg t c sp unit st g).mem k = memGet s.mem k := by
  obtain ⟨_, hn⟩ := noteSeg_frame (s.write sp unit g.addr (g.bytes.map some) (granMarks g.addr g.psn)) t c st g
  rw [State.putSeg, hn]
  refine write_out _ _ _ _ _ _ _ (Decidable.byContradiction fun hin => ?_)
  rw [List.length_map] at hin
  refine h (k - gAddr sp unit 0) ⟨?_, ?_⟩ ?_ <;> simp only [gAddr] at hin ⊢ <;> omega

theorem putSegs_cores (sp : Sp) (unit : Nat) (st : Stream) (l : List Seg) :
    (l.foldl (fun s g => s.putSeg t c sp unit st g) s).cores = s.cores := by
  induction l generalizing s with
  | nil => rfl
  | cons g l ih => exact (ih _).trans (putSeg_cores ..)

theorem putSegs_out (sp : Sp) (unit : Nat) (st : Stream) (l : List Seg) {k : Nat}
    (h : ∀ g ∈ l, ∀ a, g.Covers a → k ≠ gAddr sp unit a) :
    memGet (l.foldl (fun s g => s.putSeg t c sp unit st g) s).mem k = memGet s.mem k := by
  induction l generalizing s with
  | nil => rfl
  | cons g l ih =>
    exact (ih _ fun g' hg' => h g' (List.mem_cons_of_mem _ hg')).trans (putSeg_out _ _ _ _ _ _ _ (h g List.mem_cons_self))

/-- The count of newly poisoned granules (R216) changes registers, their marks, and the stream's list of these granules. -/
theorem countPsn_spec (st : Stream) (gs : List Nat) : (s.countPsn t c st gs).1.cores = s.cores ∧
    (s.countPsn t c st gs).1.mem = s.mem ∧ ∃ p, (s.countPsn t c st gs).2 = { st with pgrans := p } := by
  unfold State.countPsn
  dsimp only
  split
  · exact ⟨rfl, rfl, _, rfl⟩
  · obtain ⟨⟨_, _, _, _, _, _, h⟩, -⟩ := flag_signals s (tileDA t) (pgStr c) 2
    refine ⟨?_, ?_, _, rfl⟩ <;> rw [h] <;> rfl

theorem deliver_eq (st : Stream) (first : Nat) (els : List (List Byte × Bool)) : s.deliver t c st first els =
    let side := localSide t c (dDSP st.desc)
    let segs := destSegs st.desc first els
    (segs.foldl (fun s g => s.putSeg t c side.1 side.2 st g) s).countPsn t c st
      (segs.flatMap fun g => granPsn (dDSP st.desc) g.addr g.psn) := rfl

theorem deliver_cores (st : Stream) (first : Nat) (els : List (List Byte × Bool)) :
    (s.deliver t c st first els).1.cores = s.cores := by
  rw [deliver_eq]
  exact (countPsn_spec ..).1.trans (putSegs_cores ..)

theorem deliver_stream (st : Stream) (first : Nat) (els : List (List Byte × Bool)) :
    ∃ p, (s.deliver t c st first els).2 = { st with pgrans := p } := by
  rw [deliver_eq]
  exact (countPsn_spec ..).2.2

/-- A delivery of elements of `e` bytes changes no byte outside their destinations. -/
theorem deliver_out (st : Stream) (first : Nat) {e k : Nat} {els : List (List Byte × Bool)} (he : ∀ x ∈ els, x.1.length = e)
    (h : ∀ i j, i < els.length → j < e → k ≠ gAddr (localSide t c (dDSP st.desc)).1 (localSide t c (dDSP st.desc)).2
      ((dDst st.desc (first + i)).toNat + j)) :
    memGet (s.deliver t c st first els).1.mem k = memGet s.mem k := by
  rw [deliver_eq]
  dsimp only
  rw [(countPsn_spec ..).2.1]
  refine putSegs_out _ _ _ _ _ _ _ fun g hg a ha => ?_
  obtain ⟨i, j, hi, hj, rfl⟩ := covers_of_mem_destSegs he hg ha
  exact h i j hi hj

theorem sourceElems_length (st : Stream) (first n : Nat) : (s.sourceElems t c st first n).length = n := by
  simp [State.sourceElems]

theorem length_of_mem_sourceElems {st : Stream} {first n : Nat} {x : List Byte × Bool} (h : x ∈ s.sourceElems t c st first n) :
    x.1.length = dEsz st.desc := by
  obtain ⟨i, -, rfl⟩ := List.mem_map.mp h
  simp [State.bytesAt, memGetAll]

/-! ### What a request takes (R211, R215, R421) -/

theorem spend_spec (cls amount : Nat) :
    ((s.spend t c cls amount).core t c).str = (s.core t c).str ∧ (s.spend t c cls amount).mem = s.mem := by
  unfold State.spend
  dsimp only
  split
  · exact ⟨by simp, rfl⟩
  · exact ⟨updBank_str .., rfl⟩

theorem takeTokens_frame (da i cls n : Nat) : ∃ x, s.takeTokens da i cls n = { s with tellers := x } := by
  unfold State.takeTokens
  dsimp only
  split <;> exact ⟨_, rfl⟩

theorem payRequest_spec (st : Stream) (n charge : Nat) :
    ((s.payRequest t c st n charge).core t c).str = (s.core t c).str ∧ (s.payRequest t c st n charge).mem = s.mem := by
  obtain ⟨_, h⟩ := takeTokens_frame s (tileDA t) c st.cls n
  unfold State.payRequest State.chargeStream
  rw [h]
  split
  · exact spend_spec ..
  · split
    · exact spend_spec ..
    · exact ⟨rfl, rfl⟩

theorem arbWait_frame (cls : Nat) : ∃ r f, s.arbWait t cls = { s with regs := r, free := f } := by
  unfold State.arbWait
  split <;> exact ⟨_, _, rfl⟩

/-- Requests of classes 0 and 1 are held for neither tokens nor coins (R215, R422). -/
theorem mayIssue_of_cls_ne_two {cls : Nat} (h : cls ≠ 2) (n charge : Nat) : s.mayIssue t c cls n charge = true := by
  simp [State.mayIssue, State.hasTokens, State.covers, h]

/-! ### A request between stores of the own core and die -/

/-- The stream may issue its next request, and both its sides are stores of the own core and die. -/
structure GoesLocally (st : Stream) : Prop where
  gate : st.gateOpen = true
  due : (s.core t c).reached st.due = true
  more : st.next < dTotal st.desc
  noWalk : st.walk = false
  noCursor : st.cursor = none
  noXlt : dXlt st.desc = false
  source : sideLocal st.desc (dSSP st.desc) = true
  dest : sideLocal st.desc (dDSP st.desc) = true
  psn : dPsn st.desc ≠ 1

/-- The state in which the next request of such a stream has been paid for and its beats have waited for their banks. -/
def State.paidLocal (st : Stream) : State :=
  let bytes := st.runLen * dEsz st.desc
  let s := s.payRequest t c st bytes (s.requestCharge st t c bytes none (dDst st.desc st.next).toNat)
  if dSSP st.desc == 1 || dDSP st.desc == 1 then s.arbWait t st.cls else s

theorem paidLocal_spec (st : Stream) :
    ((s.paidLocal t c st).core t c).str = (s.core t c).str ∧ (s.paidLocal t c st).mem = s.mem := by
  unfold State.paidLocal
  extract_lets bytes u
  have hu : (u.core t c).str = (s.core t c).str ∧ u.mem = s.mem := payRequest_spec ..
  split
  · obtain ⟨_, _, h⟩ := arbWait_frame u t st.cls
    rw [h]
    exact hu
  · exact hu

/-- The delivery of the next request of such a stream. -/
def State.localDelivery (st : Stream) : State × Stream :=
  (s.paidLocal t c st).deliver t c { st with next := st.next + st.runLen, own := none } st.next
    ((s.paidLocal t c st).sourceElems t c st st.next st.runLen)

/-- The stream behind that request. -/
def State.localNext (st : Stream) : Stream :=
  let r := (s.localDelivery t c st).2
  { r with psnElems := r.psnElems ++ badElems st.next ((s.paidLocal t c st).sourceElems t c st st.next st.runLen) }

theorem localNext_spec (st : Stream) :
    (s.localNext t c st).cls = st.cls ∧ (s.localNext t c st).next = st.next + st.runLen := by
  obtain ⟨_, h⟩ := deliver_stream (s.paidLocal t c st) t c { st with next := st.next + st.runLen, own := none } st.next
    ((s.paidLocal t c st).sourceElems t c st st.next st.runLen)
  rw [State.localNext, State.localDelivery, h]
  exact ⟨rfl, rfl⟩

theorem localDelivery_str (st : Stream) : ((s.localDelivery t c st).1.core t c).str = (s.core t c).str := by
  rw [State.localDelivery, core_of_cores (deliver_cores ..)]
  exact (paidLocal_spec ..).1

/-- No byte changes outside the destinations of the request's elements. -/
theorem localDelivery_out (st : Stream) {k : Nat} (h : ∀ i j, i < st.runLen → j < dEsz st.desc →
      k ≠ gAddr (localSide t c (dDSP st.desc)).1 (localSide t c (dDSP st.desc)).2 ((dDst st.desc (st.next + i)).toNat + j)) :
    memGet (s.localDelivery t c st).1.mem k = memGet s.mem k := by
  rw [← (paidLocal_spec s t c st).2]
  refine deliver_out _ _ _ _ _ (fun x hx => length_of_mem_sourceElems _ _ _ hx) fun i j hi hj => h i j ?_ hj
  rwa [sourceElems_length] at hi

variable {s t c} {st : Stream}

theorem GoesLocally.far (h : GoesLocally s t c st) : st.far = none := by
  simp [Stream.far, dFar, h.source, h.dest]

theorem deliverRead_of_no_cursor (hc : st.cursor = none) (hp : dPsn st.desc ≠ 1) (first : Nat) (els : List (List Byte × Bool)) :
    s.deliverRead t c st first els =
      let r := s.deliver t c st first els
      (r.1, { r.2 with psnElems := r.2.psnElems ++ badElems first els }) := by
  simp [State.deliverRead, hc, hp]

theorem GoesLocally.nextRequest (h : GoesLocally s t c st) (hcls : st.cls ≠ 2) :
    s.nextRequest t c st = some ((s.localDelivery t c st).1.setRunning t c st.cls (some (s.localNext t c st))) := by
  have hgo : ¬(!st.gateOpen || !(s.core t c).reached st.due || decide (dTotal st.desc ≤ st.next)) = true := by
    simp [h.gate, h.due, h.more]
  have hwalk : ¬st.walk = true := by simp [h.noWalk]
  have hcursor : ¬st.cursor.isSome = true := by simp [h.noCursor]
  have hread (u : State) := deliverRead_of_no_cursor (s := u) (t := t) (c := c)
    (st := { st with next := st.next + st.runLen, own := none }) h.noCursor h.psn
  unfold State.nextRequest
  simp only [if_neg hgo, if_neg hwalk, if_neg hcursor, h.noXlt, h.far, h.source, h.dest, mayIssue_of_cls_ne_two s t c hcls,
    Bool.false_eq_true, if_false, Option.isSome_none, Bool.false_and, Bool.true_and, Bool.not_true, Bool.or_self]
  simp only [hread, State.localNext, State.localDelivery, State.paidLocal]

/-! ### The command (R195) -/

theorem exec_streamRequest : exec (.streamRequest t c) s = .next
    (let s := s.admitStreams t c
     let request := fun cls => ((s.core t c).str.running cls).bind (s.nextRequest t c)
     (((request 0).orElse fun _ => (request 1).orElse fun _ => request 2).getD s)) := rfl

theorem streamRequest_of_goesLocally (hw : (s.core t c).str.waiting = []) (hr : (s.core t c).str.running 0 = some st)
    (h : GoesLocally s t c st) : Yields (.streamRequest t c) s fun u =>
      (∃ st', (u.core t c).str.running 0 = some st' ∧ st'.next = st.next + st.runLen) ∧
      (∀ sp unit a, (∀ i k, i < st.runLen → k < dEsz st.desc →
          gAddr sp unit a ≠ gAddr (localSide t c (dDSP st.desc)).1 (localSide t c (dDSP st.desc)).2
            ((dDst st.desc (st.next + i)).toNat + k)) → u.byte sp unit a = s.byte sp unit a) := by
  have hcls : st.cls = 0 := running_cls hr
  obtain ⟨hncls, hnext⟩ := localNext_spec s t c st
  have hrun : ((s.localDelivery t c st).1.core t c).str.running 0 = some st := by rw [localDelivery_str, hr]
  refine ⟨(s.localDelivery t c st).1.setRunning t c 0 (some (s.localNext t c st)), ?_,
    ⟨_, setRunning_running hrun (hncls.trans hcls), hnext⟩, fun sp unit a ha => ?_⟩
  · simp [exec_streamRequest, admitStreams_of_waiting_nil hw, hr, h.nextRequest (by omega), hcls]
  · rw [State.byte, State.byte, setRunning_mem]
    exact localDelivery_out s t c st ha

end

end Sys2Proof.Machine
end

section
/-! PROOFS. What GATE_OPEN, STREAM_COMPLETE and STR_CANCEL do (R205, R210, R217), and the statement about them and
STREAM_REQUEST. -/

namespace Sys2Proof.Machine

/-! ### The queues at the end of a program (R149) -/

/-- The queues of a core stand. -/
def SameQueues (s u : State) (t c : Nat) : Prop := (u.core t c).str = (s.core t c).str

section
variable {s u v : State} {t c : Nat}

theorem SameQueues.trans (h : SameQueues s u t c) (k : SameQueues u v t c) : SameQueues s v t c := Eq.trans k h

theorem SameQueues.of_cores (h : u.cores = s.cores) : SameQueues s u t c := congrArg Core.str (core_of_cores h t c)

theorem foldl_sameQueues {α : Type} {f : State → α → State} (h : ∀ s a, SameQueues s (f s a) t c) (l : List α) (s : State) :
    SameQueues s (l.foldl f s) t c := by
  induction l generalizing s with
  | nil => rfl
  | cons a l ih => exact (h s a).trans (ih _)
end

section
variable (s : State) (t c : Nat)

theorem finishStreams_sameQueues (l : List Stream) : SameQueues s (l.foldl (fun s st => s.finishStream t c st) s) t c :=
  foldl_sameQueues (fun s st => finishStream_str s t c st) l s

theorem mergeFlags_sameQueues (cls : Nat) (f : BitVec 4) : SameQueues s (s.mergeFlags t c cls f) t c :=
  .trans (updBank_str ..) (.of_cores (mergeFlags_cores ..))

theorem checkRing_sameQueues : SameQueues s (s.checkRing t c) t c := by
  unfold State.checkRing
  extract_lets bad s'
  have h : SameQueues s s' t c := updDisp_str ..
  split
  · exact h.trans (.of_cores (flag_cores ..))
  · exact h

theorem sawStore_sameQueues (a n : Nat) : SameQueues s (s.sawStore t c a n) t c := by
  unfold State.sawStore
  dsimp only
  split
  · exact .trans (updDisp_str ..) (checkRing_sameQueues ..)
  · rfl

theorem applyWrite_sameQueues (cls : Nat) (w : PendWrite) : SameQueues s (s.applyWrite t c cls w) t c := by
  unfold State.applyWrite
  split
  · exact .trans (.of_cores (writeRun_cores ..)) (sawStore_sameQueues ..)
  · exact .of_cores (writeAll_cores ..)
  · exact mergeFlags_sameQueues ..
  · exact updBank_str ..

theorem retireFrom_sameQueues (cls d n : Nat) : SameQueues s (s.retireFrom t c cls d n) t c := by
  induction n generalizing s d with
  | zero => rfl
  | succ n ih =>
    have hset (b : Bank) : SameQueues s (s.setBank t c cls b) t c := updBank_str s t c cls fun _ => b
    exact ((hset _).trans (foldl_sameQueues (fun s w => applyWrite_sameQueues s t c cls w) _ _)).trans (ih ..)

theorem deactivate_sameQueues (cls : Nat) : SameQueues s (s.deactivate t c cls) t c := by
  have hreissue (s : State) : SameQueues s (s.updCore t c fun k => k.reissueAfter cls) t c := by
    rw [SameQueues, State.updCore_core_self]
    unfold Core.reissueAfter
    split <;> rfl
  exact ((retireFrom_sameQueues ..).trans (updBank_str ..)).trans (hreissue _)

theorem endTask_sameQueues : SameQueues s (s.endTask t c) t c := by
  unfold State.endTask
  extract_lets d s'
  have h : SameQueues s s' t c := updDisp_str ..
  split
  · exact h
  · split
    · exact h.trans (parkTask_keepsQueues ..).str
    · exact h.trans (.of_cores (incReg_cores ..))

/-- The SIS streams of class 2 have left the queues when its program or task has ended (R149, R218). -/
theorem endClass2_streams : ∀ x ∈ ((s.endClass2 t c).core t c).str.streams, x.src = .sis → x.cls ≠ 2 := by
  intro x hx hsrc hcls
  have hrest : SameQueues (s.endUnits2 t c) (s.endClass2 t c) t c := by
    unfold State.endClass2
    dsimp only
    split
    · exact (deactivate_sameQueues ..).trans (endTask_sameQueues ..)
    · exact deactivate_sameQueues ..
  rw [hrest, State.endUnits2, cancelStreams_str] at hx
  simpa [hsrc, hcls] using StrUnit.not_mem_without (List.mem_append_left _ hx)

theorem parkTask_running (k : Task) : ((s.parkTask t c k).disp t c).running = (s.disp t c).running := by
  unfold State.parkTask
  split
  · rw [State.updDisp_disp_self]
  · rw [State.disp, core_of_cores (flag_cores ..), State.disp]

/-- No task runs once the running one has ended (R181). -/
theorem endTask_running : ((s.endTask t c).disp t c).running = none := by
  unfold State.endTask
  extract_lets d s'
  have h : (s'.disp t c).running = none := by rw [State.updDisp_disp_self]
  split
  · exact h
  · split
    · exact (parkTask_running ..).trans h
    · exact h

/-! ### STR_CANCEL (R217) -/

variable {s t c}

theorem strCancel_active (ha : (s.bank t c 2).active = true) (hr : s.retired (tileDA t) (pgStr c) = false) :
    Yields (.strCancel t c) s fun u => (u.bank t c 2).active = false ∧
      ((s.bank t c 2).isTask = true → (u.disp t c).running = none) ∧
      ∀ x ∈ (u.core t c).str.streams, x.src = .sis → x.cls ≠ 2 := by
  have hexec : exec (.strCancel t c) s = .next (s.endClass2 t c) := by
    show execStrCancel t c s = _
    simp [execStrCancel, ha, hr]
  refine ⟨_, hexec, endClass2_stops .., fun htask => ?_, endClass2_streams s t c⟩
  simp only [State.endClass2, htask, if_true]
  exact endTask_running ..

theorem strCancel_nothing (h : (s.bank t c 2).active = false ∨ s.retired (tileDA t) (pgStr c) = true) :
    Yields (.strCancel t c) s fun u => u = s := by
  refine ⟨s, ?_, rfl⟩
  show execStrCancel t c s = _
  obtain h | h := h <;> simp [execStrCancel, h]

/-! ### GATE_OPEN (R210) -/

/-- A stream of the class that waits for its gate, which is open. -/
def State.gateReady (s : State) (t cls : Nat) (x : Stream) : Bool := x.cls == cls && !x.gateOpen && s.gateOpen t x.desc

/-- A stream as GATE_OPEN leaves it in its queue. -/
def State.gated (s : State) (t cls : Nat) (x : Stream) : Stream :=
  if s.gateReady t cls x then { x with gateOpen := true } else x

/-- The queue behind GATE_OPEN: streams of a zero count complete, the others stay. -/
def State.gatedStreams (s : State) (t cls : Nat) (l : List Stream) : List Stream :=
  (l.filter fun x => !(s.gateReady t cls x && dTotal x.desc == 0)).map (s.gated t cls)

theorem gated_opens {cls : Nat} {l : List Stream} {x : Stream} (hx : x ∈ s.gatedStreams t cls l) (hcls : x.cls = cls)
    (hgate : s.gateOpen t x.desc = true) : x.gateOpen = true := by
  obtain ⟨y, -, rfl⟩ := List.mem_map.mp hx
  unfold State.gated at hcls hgate ⊢
  split
  · rfl
  next hready =>
    rw [if_neg hready] at hcls hgate
    simpa [State.gateReady, hcls, hgate] using hready

theorem gateReady_of_cls_ne {cls : Nat} {x : Stream} (h : x.cls ≠ cls) : s.gateReady t cls x = false := by
  simp [State.gateReady, h]

theorem gated_cls (cls : Nat) (x : Stream) : (s.gated t cls x).cls = x.cls := by
  unfold State.gated
  split <;> rfl

/-- Streams of the other classes stay as they were. -/
theorem gatedStreams_others (cls : Nat) (l : List Stream) :
    (s.gatedStreams t cls l).filter (fun x => x.cls != cls) = l.filter fun x => x.cls != cls := by
  have hcls : (fun x : Stream => x.cls != cls) ∘ s.gated t cls = fun x => x.cls != cls := funext fun x => by simp [gated_cls]
  have hfilter (x : Stream) : (x.cls != cls && !(s.gateReady t cls x && dTotal x.desc == 0)) = (x.cls != cls) := by
    by_cases hx : x.cls = cls
    · simp [hx]
    · simp [gateReady_of_cls_ne hx]
  have hstay : ∀ x ∈ l.filter fun x => x.cls != cls, s.gated t cls x = id x := fun x hx => by
    have hx : x.cls ≠ cls := by simpa using (List.mem_filter.mp hx).2
    simp [State.gated, gateReady_of_cls_ne hx]
  rw [State.gatedStreams, List.filter_map, hcls, List.filter_filter, List.filter_congr fun x _ => hfilter x,
    List.map_congr_left hstay, List.map_id]

theorem gateOpen_spec (cls : Nat) (hw : (s.core t c).str.waiting = []) : Yields (.gateOpen t c cls) s fun u =>
    (u.core t c).str.streams = s.gatedStreams t cls (s.core t c).str.streams := by
  let opened := s.updCore t c fun k => { k with str := { k.str with streams := s.gatedStreams t cls k.str.streams } }
  let done := (s.core t c).str.streams.filter fun x => s.gateReady t cls x && dTotal x.desc == 0
  let ended := done.foldl (fun s st => s.finishStream t c st) opened
  have hexec : exec (.gateOpen t c cls) s = .next (ended.admitStreams t c) := rfl
  have hopened : (opened.core t c).str = { (s.core t c).str with
      streams := s.gatedStreams t cls (s.core t c).str.streams } := by
    rw [State.updCore_core_self]
  have hended : (ended.core t c).str = (opened.core t c).str := finishStreams_sameQueues ..
  rw [hopened] at hended
  rw [admitStreams_of_waiting_nil (by rw [hended, hw])] at hexec
  exact ⟨_, hexec, congrArg StrUnit.streams hended⟩

/-! ### STREAM_COMPLETE (R205) -/

theorem exec_streamComplete {cls : Nat} {st : Stream} (hr : (s.core t c).str.running cls = some st) (hs : st.settled = true)
    (hw : (s.core t c).str.waiting = []) :
    exec (.streamComplete t c cls) s = .next ((s.setRunning t c cls none).finishStream t c st) := by
  show execStreamComplete t c cls s = _
  simp only [execStreamComplete, hr, hs, if_true]
  rw [admitStreams_of_waiting_nil]
  rw [finishStream_str, setRunning_waiting, hw]
end

/-- Settles O24: a request is the first that a running stream can issue, in order of class, and one between local stores is a
delivery whose joined runs cover no byte that its elements do not (`covers_of_mem_joinSegs`). GATE_OPEN leaves the streams of the
other classes (`gatedStreams_others`), the end of a stream leaves the queues of the core (`finishStream_str`), and the end of a
program takes the SIS streams out of them (`endClass2_streams`). -/
theorem streamRequestsAndCompletion : Obligations.StreamRequestsAndCompletion := by
  refine ⟨fun s t c => ?_, fun s t c => ⟨fun cls hw => ?_, fun cls st hr hs hw => ?_, strCancel_active, strCancel_nothing⟩⟩
  · intro s' run
    refine ⟨fun st u h0 hu => ?_, fun st u h0 h1 hu => ?_, fun st u h0 h1 h2 hu => ?_,
      fun st hw hr hgate hdue hmore hwalk hcursor hxlt hsrc hdst hpsn =>
        streamRequest_of_goesLocally hw hr ⟨hgate, hdue, hmore, hwalk, hcursor, hxlt, hsrc, hdst, hpsn⟩⟩
    · exact ⟨u, by simp [exec_streamRequest, run, s', h0, hu], rfl⟩
    · exact ⟨u, by simp [exec_streamRequest, run, s', h0, h1, hu], rfl⟩
    · exact ⟨u, by simp [exec_streamRequest, run, s', h0, h1, h2, hu], rfl⟩
  · obtain ⟨u, hexec, hstreams⟩ := gateOpen_spec (c := c) cls hw
    exact ⟨u, hexec, fun x hx => gated_opens (hstreams ▸ hx), by rw [hstreams, gatedStreams_others]⟩
  · have hcls : st.cls = cls := running_cls hr
    obtain ⟨hcount, hrecord, hsis, htt, htask, hsends⟩ := finishStream_spec (s.setRunning t c cls none) t c st
    rw [hcls] at hsends hsis
    rw [setRunning_bank] at hsis
    rw [setRunning_disp] at htask
    exact ⟨_, exec_streamComplete hr hs hw, by rw [finishStream_str, setRunning_streams], hcount, hrecord, hsis, htt, htask, hsends⟩

end Sys2Proof.Machine
end

section
/-! PROOFS. What the end of a translation walk, STR_XINV, STR_XRESUME, RESUME_PARKED and TOKEN_REFILL do (R215, R219 to R222), and
the statement about them. -/

namespace Sys2Proof.Machine

section
variable {s : State} {t c : Nat}

/-! ### The end of a walk (R220, R221) -/

theorem tile_of_tiles {u : State} (h : u.tiles = s.tiles) (t : Nat) : u.tile t = s.tile t := by
  rw [State.tile, State.tile, h]

/-- A stream as its walk leaves it. -/
def Stream.endWalk (st : Stream) : Stream := { st with walk := false, entries := [] }

/-- The state in which the end of a walk is decided: a poisoned entry has been flagged. -/
def State.walkJudged (s : State) (t : Nat) (bad : Bool) : State := if bad then s.flag (tileDA t) pgStrDie 1 else s

theorem walkJudged_signals (bad : Bool) : Signals s (s.walkJudged t bad) := by
  unfold State.walkJudged
  split
  · exact flag_signals ..
  · exact .refl s

theorem walkJudged_core (bad : Bool) (t' c : Nat) : (s.walkJudged t bad).core t' c = s.core t' c :=
  (walkJudged_signals bad).core t' c

theorem walkJudged_tile (bad : Bool) (t' : Nat) : (s.walkJudged t bad).tile t' = s.tile t' := by
  obtain ⟨⟨_, _, _, _, _, _, h⟩, -⟩ := walkJudged_signals (s := s) (t := t) bad
  exact tile_of_tiles (by rw [h]) t'

/-- A new translation is in the cache, and the cores stand (R220). -/
theorem cacheXlat_spec (s : State) (t : Nat) (x : Xlat) :
    x ∈ ((s.cacheXlat t x).tile t).xlat ∧ (s.cacheXlat t x).cores = s.cores := by
  have htile (s : State) : s.draw.tile t = s.tile t := rfl
  unfold State.cacheXlat
  dsimp only
  split
  · exact ⟨by simp, rfl⟩
  · exact ⟨by simp [htile], rfl⟩

/-- A translation fault of the next request sets the fault cursor there and marks the stream (R221). -/
theorem xlateFault_running {st x : Stream} {cls : Nat} (hr : (s.core t c).str.running cls = some x) (hcls : st.cls = cls)
    (hc : st.cursor = none) (va : Nat) (write : Bool) : ∃ st',
    ((s.xlateFault t c st va write).core t c).str.running cls = some st' ∧ st'.cursor = some st.next ∧ st'.xf = true := by
  subst hcls
  unfold State.xlateFault
  extract_lets da s1 s2 logical s3
  have h1 : Signals s s1 := flag_signals ..
  have h2 : Signals s1 s2 := by
    show Signals s1 (if bit (s1.reg da (pgStr c) 0x058) 17 = true then s1 else _)
    split
    · exact .refl s1
    · exact (setReg_signals _ _ _ _ _ (by decide) (by decide) (by decide)).trans
        (setReg_signals _ _ _ _ _ (by decide) (by decide) (by decide))
  have h3 : Signals s s3 := (h1.trans h2).trans (event_signals ..)
  have hcursor : (({ st with walk := false } : Stream).setCursor st.next true false).cls = st.cls := by
    simp [Stream.setCursor, hc]
  refine ⟨_, setRunning_running (by rw [h3.core, hr]) hcursor, ?_, ?_⟩ <;> simp [Stream.setCursor, hc]

/-- A walk that fails before any fault does so as a fault of the next request. -/
theorem walkFails_running {st : Stream} (hr : (s.core t c).str.running 2 = some st) (hc : st.cursor = none) (bad : Bool) : ∃ st',
    (((s.walkJudged t bad).walkFails t c st).core t c).str.running 2 = some st' ∧ st'.cursor = some st.next ∧ st'.xf = true := by
  have hcls : st.cls = 2 := running_cls hr
  have hrun : ((s.walkJudged t bad).core t c).str.running 2 = some st := by rw [walkJudged_core, hr]
  unfold State.walkFails
  dsimp only
  rw [if_neg (by simp [hc])]
  exact xlateFault_running (st := { st with entries := [] }) hrun hcls hc _ _

section
variable {poison : Bool} {st : Stream} (hr : (s.core t c).str.running 2 = some st) (hw : st.walked = true)
include hr hw

/-- A walk that finds a translation which allows the access lets the stream go on. -/
theorem exec_translationWalk_finds {x : Xlat} (hx : (s.walkResult st.walkVa.1 st.entries poison).1 = some x)
    (hallow : st.walkVa.2 = true ∨ x.write = true) : exec (.translationWalk t c poison) s = .next
      (let u := s.walkJudged t (s.walkResult st.walkVa.1 st.entries poison).2
       if (s.tile t).noCache.contains c then u.setRunning t c 2 (some { st.endWalk with own := some x })
       else (u.cacheXlat t x).setRunning t c 2 (some st.endWalk)) := by
  have hno : (!st.walkVa.2 && !x.write) = false := by
    obtain h | h := hallow <;> simp [h]
  rw [← walkJudged_tile (t := t) (s.walkResult st.walkVa.1 st.entries poison).2 t]
  show execTranslationWalk t c poison s = _
  simp only [execTranslationWalk, hr, hw, hx, hno]
  rfl

/-- One that finds none, or one that does not allow it, fails. -/
theorem exec_translationWalk_fails
    (h : ∀ x, (s.walkResult st.walkVa.1 st.entries poison).1 = some x → st.walkVa.2 = false ∧ x.write = false) :
    exec (.translationWalk t c poison) s = .next
      ((s.walkJudged t (s.walkResult st.walkVa.1 st.entries poison).2).walkFails t c st) := by
  show execTranslationWalk t c poison s = _
  cases hx : (s.walkResult st.walkVa.1 st.entries poison).1 with
  | none =>
    simp only [execTranslationWalk, hr, hw, hx]
    rfl
  | some x =>
    obtain ⟨hread, hwrite⟩ := h x hx
    simp only [execTranslationWalk, hr, hw, hx, hread, hwrite]
    rfl
end

theorem translationWalk_ends (poison : Bool) {st : Stream} (hr : (s.core t c).str.running 2 = some st) (hw : st.walked = true)
    (hc : st.cursor = none) :
    let va := st.walkVa
    let r := s.walkResult va.1 st.entries poison
    (∀ x, r.1 = some x → (va.2 = true ∨ x.write = true) → (s.tile t).noCache.contains c = true →
      Yields (.translationWalk t c poison) s fun u => (u.tile t).xlat = (s.tile t).xlat ∧
        (u.core t c).str.running 2 = some { st.endWalk with own := some x }) ∧
    (∀ x, r.1 = some x → (va.2 = true ∨ x.write = true) → (s.tile t).noCache.contains c = false →
      Yields (.translationWalk t c poison) s fun u => x ∈ (u.tile t).xlat ∧ (u.core t c).str.running 2 = some st.endWalk) ∧
    ((∀ x, r.1 = some x → va.2 = false ∧ x.write = false) →
      Yields (.translationWalk t c poison) s fun u => ∃ st', (u.core t c).str.running 2 = some st' ∧
        st'.cursor = some st.next ∧ st'.xf = true) := by
  intro va r
  have hcls : st.cls = 2 := running_cls hr
  have hjudged : ((s.walkJudged t r.2).core t c).str.running 2 = some st := by rw [walkJudged_core, hr]
  refine ⟨fun x hx hallow hover => ?_, fun x hx hallow hover => ?_, fun h => ?_⟩
  · refine ⟨_, exec_translationWalk_finds hr hw hx hallow, ?_⟩
    dsimp only
    rw [if_pos hover]
    exact ⟨congrArg TileUnit.xlat (walkJudged_tile ..), setRunning_running hjudged hcls⟩
  · obtain ⟨hmem, hcores⟩ := cacheXlat_spec (s.walkJudged t r.2) t x
    refine ⟨_, exec_translationWalk_finds hr hw hx hallow, ?_⟩
    dsimp only
    rw [if_neg (Bool.eq_false_iff.mp hover)]
    exact ⟨hmem, setRunning_running (by rw [core_of_cores hcores, hjudged]) hcls⟩
  · exact ⟨_, exec_translationWalk_fails hr hw h, walkFails_running hr hc _⟩

/-! ### STR_XINV, STR_XRESUME, RESUME_PARKED (R220, R222) -/

theorem strXinv_empties (hr : s.retired (tileDA t) pgStrDie = false) : Yields (.strXinv t) s fun u =>
    (u.tile t).xlat = [] ∧ (∀ c, c < 9 → (u.tile t).noCache.contains c = true) ∧ SameStores s u ∧ u.regs = s.regs ∧
    u.cores = s.cores := by
  have hexec : exec (.strXinv t) s = .next (s.setTile t { s.tile t with xlat := [], noCache := List.range 9 }) := by
    show execStrXinv t s = _
    simp [execStrXinv, hr]
  refine ⟨_, hexec, ?_, fun c hc => ?_, fun _ _ _ => ⟨rfl, rfl⟩, rfl, rfl⟩
  · simp
  · simpa using hc

theorem strXinv_retired (hr : s.retired (tileDA t) pgStrDie = true) : Yields (.strXinv t) s fun u => u = s := by
  refine ⟨s, ?_, rfl⟩
  show execStrXinv t s = _
  simp [execStrXinv, hr]

theorem strXresume_retired (hr : s.retired (tileDA t) (pgStr c) = true) : Yields (.strXresume t c) s fun u => u = s := by
  refine ⟨s, ?_, rfl⟩
  show execStrXresume t c s = _
  simp [execStrXresume, hr]

theorem strXresume_releases (hr : s.retired (tileDA t) (pgStr c) = false) : Yields (.strXresume t c) s fun u =>
    bit (u.reg (tileDA t) (pgStr c) 0x058) 17 = false ∧
    u.disp t c = { s.disp t c with resume := (s.disp t c).park.isSome } ∧ SameStores s u := by
  let cleared := s.setReg (tileDA t) (pgStr c) 0x058 (clrBit (s.reg (tileDA t) (pgStr c) 0x058) 17)
  have hexec : exec (.strXresume t c) s = .next (cleared.updDisp t c fun d => { d with resume := d.park.isSome }) := by
    show execStrXresume t c s = _
    simp [execStrXresume, hr, cleared]
  refine ⟨_, hexec, ?_, State.updDisp_disp_self .., fun _ _ _ => ⟨rfl, rfl⟩⟩
  show bit (cleared.reg (tileDA t) (pgStr c) 0x058) 17 = false
  rw [State.setReg_reg_self, bit_mod_two_pow (by decide), bit_clrBit_self]

theorem resumeParked_moves (hres : (s.disp t c).resume = true) (hret : (s.disp t c).ret = none) (hcyc : s.pacer.cycle = 0) :
    Yields (.resumeParked t c) s fun u =>
      u.disp t c = { s.disp t c with ret := (s.disp t c).park, park := none, resume := false } ∧ SameStores s u ∧
      u.regs = s.regs := by
  have hexec : exec (.resumeParked t c) s =
      .next (s.updDisp t c fun d => { d with ret := d.park, park := none, resume := false }) := by
    show execResumeParked t c s = _
    simp [execResumeParked, hres, hret, hcyc]
  exact ⟨_, hexec, State.updDisp_disp_self .., fun _ _ _ => ⟨rfl, rfl⟩, rfl⟩
end

/-! ### TOKEN_REFILL (R215) -/

/-- A bucket of a die refilled. -/
def State.refillBucket (da rate depth : Nat) (s : State) (i : Nat) : State :=
  s.setTeller da i { s.teller da i with level := min depth ((s.teller da i).level + rate) }

/-- The buckets of a list refilled. -/
def State.refillBuckets (s : State) (da rate depth : Nat) (l : List Nat) : State := l.foldl (State.refillBucket da rate depth) s

theorem initiators_le (da : Nat) : initiators da ≤ 16 := by
  unfold initiators
  split <;> decide

theorem setTeller_teller_ne {s : State} {da i da' i' : Nat} (v : Teller) (h : 16 * da' + i' ≠ 16 * da + i) :
    (s.setTeller da i v).teller da' i' = s.teller da' i' := by
  simp [State.setTeller, State.teller, tget_tput_ne _ _ _ _ _ h]

section
variable (s : State) (da rate depth : Nat) (l : List Nat)

theorem refillBuckets_frame : ∃ x, s.refillBuckets da rate depth l = { s with tellers := x } := by
  induction l generalizing s with
  | nil => exact ⟨_, rfl⟩
  | cons i l ih =>
    obtain ⟨_, h⟩ := ih (s.refillBucket da rate depth i)
    exact ⟨_, h.trans rfl⟩

theorem refillBuckets_teller_ne {da' i' : Nat} (h : ∀ i ∈ l, 16 * da' + i' ≠ 16 * da + i) :
    (s.refillBuckets da rate depth l).teller da' i' = s.teller da' i' := by
  induction l generalizing s with
  | nil => rfl
  | cons i l ih =>
    exact (ih _ fun j hj => h j (List.mem_cons_of_mem _ hj)).trans (setTeller_teller_ne _ (h i List.mem_cons_self))

/-- Each bucket of a list without repetitions is refilled once. -/
theorem refillBuckets_teller {i : Nat} (hl : l.Nodup) (hi : i ∈ l) : (s.refillBuckets da rate depth l).teller da i =
    { s.teller da i with level := min depth ((s.teller da i).level + rate) } := by
  induction l generalizing s with
  | nil => cases hi
  | cons j l ih =>
    obtain ⟨hj, hl⟩ := List.nodup_cons.mp hl
    obtain rfl | hi := List.mem_cons.mp hi
    · refine (refillBuckets_teller_ne _ da rate depth l fun k hk => ?_).trans (State.setTeller_teller_self ..)
      have : k ≠ i := fun e => hj (e ▸ hk)
      omega
    · have hne : i ≠ j := fun e => hj (e ▸ hi)
      refine (ih (s.refillBucket da rate depth j) hl hi).trans ?_
      rw [State.refillBucket, setTeller_teller_ne _ (by omega)]

variable {s da}

theorem tokenRefill_refills (hblk : (blkAt da pgTlr).isSome = true) (hen : s.pageEn da pgTlr = true) :
    Yields (.tokenRefill da) s fun u =>
      (∀ i, i < initiators da → u.teller da i = { s.teller da i with
        level := min (s.reg da pgTlr 0x048 % 2 ^ 16) ((s.teller da i).level + s.reg da pgTlr 0x044 % 2 ^ 16) }) ∧
      (∀ da' i, da' ≠ da → i < 16 → u.teller da' i = s.teller da' i) ∧ SameStores s u ∧ u.regs = s.regs := by
  have hexec : exec (.tokenRefill da) s = .next (s.refillBuckets da (s.reg da pgTlr 0x044 % 2 ^ 16)
      (s.reg da pgTlr 0x048 % 2 ^ 16) (List.range (initiators da))) := by
    have hgo : ¬((blkAt da pgTlr).isNone || !s.pageEn da pgTlr) = true := by
      simpa [hen] using Option.isSome_iff_ne_none.mp hblk
    show execTokenRefill da s = _
    rw [execTokenRefill, if_neg hgo]
    rfl
  obtain ⟨_, hframe⟩ := refillBuckets_frame s da (s.reg da pgTlr 0x044 % 2 ^ 16) (s.reg da pgTlr 0x048 % 2 ^ 16)
    (List.range (initiators da))
  refine ⟨_, hexec, fun i hi => refillBuckets_teller _ _ _ _ _ List.nodup_range (List.mem_range.mpr hi),
    fun da' i hda hi => refillBuckets_teller_ne _ _ _ _ _ fun j hj => ?_, fun _ _ _ => ?_, ?_⟩
  · have hlt : j < initiators da := List.mem_range.mp hj
    have hle := initiators_le da
    omega
  · rw [hframe]
    exact ⟨rfl, rfl⟩
  · rw [hframe]
end

/-- Settles O25: a walk either finds a translation that allows the access or fails as a fault of the next request
(`translationWalk_ends`), and each bucket is refilled once, by induction over the initiators of the die (`refillBuckets_teller`). -/
theorem translationParkingAndTokens : Obligations.TranslationParkingAndTokens :=
  ⟨⟨fun _ _ _ poison _ hr hw hc => translationWalk_ends poison hr hw hc, fun _ _ => ⟨strXinv_empties, strXinv_retired⟩⟩,
    ⟨fun _ _ _ => ⟨strXresume_retired, strXresume_releases, resumeParked_moves⟩, fun _ _ => tokenRefill_refills⟩⟩

end Sys2Proof.Machine
end

section
/-! PROOFS. What the units of the logic fabric read after an update, and what a request leaves with the network (R241, R250). -/

namespace Sys2Proof.Machine

/-! ### Regions, ports and dies of the fabric -/

section
variable {s u : State}

theorem region_of_regions (h : u.regions = s.regions) (f r : Nat) : u.region f r = s.region f r := by
  rw [State.region, State.region, h]

theorem fab_of_fabs (h : u.fabs = s.fabs) (f : Nat) : u.fab f = s.fab f := by rw [State.fab, State.fab, h]

theorem fport_of_fports (h : u.fports = s.fports) (f port : Nat) : u.fport f port = s.fport f port := by
  rw [State.fport, State.fport, h]

theorem Signals.regions (h : Signals s u) : u.regions = s.regions := by
  obtain ⟨⟨_, _, _, _, _, _, rfl⟩, -⟩ := h
  rfl

theorem Signals.fabs (h : Signals s u) : u.fabs = s.fabs := by
  obtain ⟨⟨_, _, _, _, _, _, rfl⟩, -⟩ := h
  rfl

theorem Signals.fports (h : Signals s u) : u.fports = s.fports := by
  obtain ⟨⟨_, _, _, _, _, _, rfl⟩, -⟩ := h
  rfl

/-- A flag that was set before other signals is still set behind them. -/
theorem KeepsFaults.flagged {da page n : Nat} (h : KeepsFaults (s.flag da page n) u) (hn : n < 32) :
    bit (u.reg da page 0x014) n = true :=
  h da page n hn (flag_sets_bit s da page hn)
end

/-! ### Requests handed to the network -/

section
variable (s : State)

theorem postRaw_reg_plain (p : Packet) {off : Nat} (h : PlainOff off) (da page : Nat) :
    (s.postRaw p).reg da page off = s.reg da page off := by
  unfold State.postRaw
  split
  · exact reg_of_regs (inject_regs ..) ..
  · exact flag_reg_plain s h ..

theorem setFport_keepsSent (f port : Nat) (v : FabPort) : KeepsSent s (s.setFport f port v) := .of_net rfl (.of_regs rfl)

theorem takeTokens_keepsSent (da i cls n : Nat) : KeepsSent s (s.takeTokens da i cls n) := by
  obtain ⟨_, h⟩ := takeTokens_frame s da i cls n
  exact h ▸ .of_net rfl (.of_regs rfl)

theorem setOutstanding_signals (l : List OutReq) : Signals s (s.setNet { s.net with outstanding := l }) :=
  ⟨⟨_, _, _, _, _, _, rfl⟩, rfl, rfl, rfl, fun _ h => h, fun q h => ⟨q, h, rfl⟩, .of_regs rfl⟩

theorem arrive_signals (p : Packet) : Signals s (s.arrive p) :=
  ⟨⟨_, _, _, _, _, _, rfl⟩, rfl, rfl, rfl, fun _ h => List.mem_append_left _ h, fun q h => ⟨q, h, rfl⟩, .of_regs rfl⟩

/-- A request goes out with its tag, and one without a route sets UNROUTABLE (R241, R250). -/
theorem request_spec (p : Packet) (tag : Nat) :
    Signals s (s.request p tag) ∧ Sends s (s.request p tag) { p with tag := BitVec.ofNat 10 tag } := by
  unfold State.request
  extract_lets p' da n t
  have ht : Signals s t := setOutstanding_signals s _
  refine And.imp (a := Signals t _) (b := Sends t _ p') ht.trans (.of_keepsSent ht.sent) ?_
  split
  next r hr => exact ⟨inject_signals t _, inject_sends t hr⟩
  next hr =>
    refine ⟨(flag_signals t _ _ _).trans (arrive_signals _ _), ?_⟩
    unfold Sends
    rw [show t.routeTo p'.src.toNat p'.sport.toNat p'.dst.toNat = none from hr]
    exact (arrive_signals _ _).sent.faults.flagged (by decide)
end

end Sys2Proof.Machine
end

section
/-! PROOFS. What SIG, PORT_LATE, PORT_RESPONSE and INITIATOR_REQUEST do (R292 to R296), and the statement about the ports of the logic
fabric. -/

namespace Sys2Proof.Machine

/-! ### SIG (R292) -/

section
variable {s : State} {p : Packet} {f : Nat}

theorem exec_sig (h : Arrived s p opSIG) (hf : fabricOf p.dst.toNat = some f) :
    exec (.sig p) s = .next ((s.take p).signalArrive f p) := by
  obtain ⟨hopc, harr, hform⟩ := h
  show s.arrivalOf p opSIG _ = _
  rw [State.arrivalOf, if_pos (.inl hopc), State.arrival, if_pos harr]
  simp only [hform, if_true, hf]

theorem signalArrive_owned {r : Nat} {d : PortDecl} (hp : p.addr.toNat % 256 < 64)
    (ho : s.portOwner f (p.addr.toNat % 256) = some (r, d)) :
    s.signalArrive f p = s.strobe f r 3 (p.aux.toNat % 2 ^ 16) := by
  simp only [State.signalArrive, if_pos hp, ho]

theorem signalArrive_unowned (h : s.portOwner f (p.addr.toNat % 256) = none ∨ 64 ≤ p.addr.toNat % 256) :
    s.signalArrive f p = s := by
  have hno : (if p.addr.toNat % 256 < 64 then s.portOwner f (p.addr.toNat % 256) else none) = none := by
    split
    next hlt => exact h.resolve_right (Nat.not_le.mpr hlt)
    · rfl
  unfold State.signalArrive
  extract_lets port
  rw [hno]
end

/-! ### Late requests (R295) -/

section
variable (s : State) (f r port : Nat) (q : PortReq)

/-- The port's requests with those of `q`'s tag marked late. -/
def FabPort.marked (x : FabPort) (q : PortReq) : FabPort :=
  { x with reqs := x.reqs.map fun y => if y.tag = q.tag then { y with late := true } else y }

/-- The state with the flag and the mark, before the report. -/
def State.flagLate : State :=
  let u := s.flag (fabricDA f) (pgFab r) 5
  u.setFport f port ((u.fport f port).marked q)

theorem markLate_eq : s.markLate f r port q =
    let u := s.flagLate f r port q
    if q.p.cls.toNat < 2 then u.report (fabricDA f) q.p.cls.toNat 0x08 noRef port else u := rfl

theorem flagLate_keepsSent : KeepsSent s (s.flagLate f r port q) := (flag_signals ..).sent.trans (setFport_keepsSent ..)

theorem markLate_signals : Signals (s.flagLate f r port q) (s.markLate f r port q) := by
  rw [markLate_eq]
  split
  · exact report_signals ..
  · exact .refl _

theorem markLate_keepsSent : KeepsSent s (s.markLate f r port q) :=
  (flagLate_keepsSent ..).trans (markLate_signals ..).sent

theorem markLate_flags : bit ((s.markLate f r port q).reg (fabricDA f) (pgFab r) 0x014) 5 = true :=
  ((setFport_keepsSent ..).trans (markLate_signals s f r port q).sent).faults.flagged (by decide)

theorem markLate_reports (h : q.p.cls.toNat < 2) :
    Reports s (s.markLate f r port q) (fabricDA f) q.p.cls.toNat 0x08 noRef port := by
  rw [markLate_eq, if_pos h]
  exact (report_reports (s.flagLate f r port q) ..).of_keepsSent (flagLate_keepsSent ..) (flag_signals ..).pacer

theorem markLate_fport : (s.markLate f r port q).fport f port = (s.fport f port).marked q := by
  rw [fport_of_fports (markLate_signals ..).fports, State.flagLate, State.setFport_fport_self, fport_of_fports (flag_signals ..).fports]

theorem marked_late (x : FabPort) {y : PortReq} (hy : y ∈ (x.marked q).reqs) (ht : y.tag = q.tag) : y.late = true := by
  obtain ⟨z, -, rfl⟩ := List.mem_map.mp hy
  by_cases hz : z.tag = q.tag
  · rw [if_pos hz]
  · rw [if_neg hz] at ht
    exact absurd ht hz
end

section
variable {s : State} {f port r : Nat} {d : PortDecl} {q : PortReq}

theorem exec_portLate (hf : f < 24) (hp : port < 64) (ho : s.portOwner f port = some (r, d))
    (hq : ((s.fport f port).reqs.find? fun q => s.overdue f r d q) = some q) :
    exec (.portLate f port) s = .next (s.markLate f r port q) := by
  show execPortLate f port s = _
  simp only [execPortLate, if_pos (And.intro hf hp), ho, hq]

theorem portLate_marks (hf : f < 24) (hp : port < 64) (ho : s.portOwner f port = some (r, d))
    (hq : ((s.fport f port).reqs.find? fun q => s.overdue f r d q) = some q) :
    Yields (.portLate f port) s fun u => bit (u.reg (fabricDA f) (pgFab r) 0x014) 5 = true ∧
      (∀ y ∈ (u.fport f port).reqs, y.tag = q.tag → y.late = true) ∧
      (q.p.cls.toNat < 2 → Reports s u (fabricDA f) q.p.cls.toNat 0x08 noRef port) := by
  refine ⟨_, exec_portLate hf hp ho hq, markLate_flags .., fun y hy => ?_, markLate_reports s f r port q⟩
  rw [markLate_fport] at hy
  exact marked_late q _ hy
end

/-! ### Responses of the logic (R294) -/

section
variable {s : State} {f port tag r : Nat} {d : PortDecl} {q : PortReq} {data : List Byte} {rsp : Option (List Bool)}

theorem outClamped_of_not_isolated {x : Region} (h : x.isolatedNow = false) (t : Nat) : x.outClamped t = false := by
  rw [Region.isolatedNow] at h
  rw [Region.outClamped, h, Bool.false_and]

/-- The state in which a late response has been marked. -/
def State.lateMarked (s : State) (f r port : Nat) (d : PortDecl) (q : PortReq) : State :=
  if s.overdue f r d q then s.markLate f r port q else s

theorem lateMarked_keepsSent : KeepsSent s (s.lateMarked f r port d q) := by
  unfold State.lateMarked
  split
  · exact markLate_keepsSent ..
  · exact .refl s

/-- The port without its requests of a tag. -/
def FabPort.answered (x : FabPort) (tag : Nat) : FabPort := { x with reqs := x.reqs.filter fun y => y.tag != tag }

theorem tag_ne_of_mem_answered {x : FabPort} {y : PortReq} (h : y ∈ (x.answered tag).reqs) : y.tag ≠ tag := by
  simpa using (List.mem_filter.mp h).2

/-- The state in which the request is no longer the port's. -/
def State.requestEnded (s : State) (f r port tag : Nat) (d : PortDecl) (q : PortReq) : State :=
  let u := s.lateMarked f r port d q
  u.setFport f port ((u.fport f port).answered tag)

theorem requestEnded_keepsSent : KeepsSent s (s.requestEnded f r port tag d q) :=
  lateMarked_keepsSent.trans (setFport_keepsSent ..)

/-- A response has its data in full, with one mark for each granule of them. -/
structure RightLength (q : PortReq) (data : List Byte) (rsp : Option (List Bool)) : Prop where
  bytes : data.length = (if q.p.opc = opRD ∧ rsp.isSome = true then q.p.len.toNat else 0)
  marks : (rsp.getD []).length = (if data.length = 0 then 0 else (byteAddr q.p % 32 + data.length + 31) / 32)

theorem exec_portResponse (hf : f < 24) (hp : port < 64) (ho : s.portOwner f port = some (r, d))
    (hq : ((s.fport f port).reqs.find? fun q => q.tag == tag) = some q) (hlen : RightLength q data rsp)
    (hr : (s.region f r).isolatedNow = false) :
    exec (.portResponse f port tag data rsp) s =
      .next ((s.requestEnded f r port tag d q).respond q.p (if rsp.isSome then 0 else 4) data (rsp.getD [])) := by
  show execPortResponse f port tag data rsp s = _
  simp only [execPortResponse, if_pos (And.intro hf hp), ho, hq, ← hlen.bytes, ← hlen.marks, outClamped_of_not_isolated hr,
    ne_eq, not_true_eq_false, Bool.false_eq_true, or_self, if_false]
  rfl

theorem portResponse_answers (hf : f < 24) (hp : port < 64) (ho : s.portOwner f port = some (r, d))
    (hq : ((s.fport f port).reqs.find? fun q => q.tag == tag) = some q) (hlen : RightLength q data rsp)
    (hr : (s.region f r).isolatedNow = false) :
    Yields (.portResponse f port tag data rsp) s fun u => (∀ y ∈ (u.fport f port).reqs, y.tag ≠ tag) ∧
      Sends s u { synthRsp q.p (if rsp.isSome then 0 else 4) with
        len := BitVec.ofNat 9 data.length, data := data, psn := rsp.getD [] } := by
  refine ⟨_, exec_portResponse hf hp ho hq hlen hr, fun y hy => ?_, .of_keepsSent requestEnded_keepsSent (postRaw_sends ..)⟩
  rw [State.respond, fport_of_fports (postRaw_signals ..).fports, State.requestEnded, State.setFport_fport_self] at hy
  exact tag_ne_of_mem_answered hy
end

/-! ### Requests of the logic (R296) -/

section
variable {s : State} {f port r : Nat} {d : PortDecl} {p : Packet}

/-- The logic of a region that runs has initiator port `port`. -/
structure OwnsInitiator (s : State) (f port r : Nat) (d : PortDecl) : Prop where
  die_lt : f < 24
  port_lt : port < 16
  owner : s.portOwner f (64 + port) = some (r, d)
  runs : (s.region f r).isolatedNow = false

theorem ne_posted_of_isRequest (h : p.isRequest = true) : ¬(p.opc = opARR ∨ p.opc = opSIG) := by
  rw [Packet.isRequest, Bool.or_eq_true, beq_iff_eq, beq_iff_eq] at h
  rcases h with h | h <;> rw [h] <;> decide

theorem portMayAddress_of_class2 (da : Nat) {cls : Nat} (h : cls = 2) (p : Packet) : portMayAddress da cls p = true := by
  simp [portMayAddress, h]

theorem portMayAddress_of_die_store (da cls : Nat) (hreq : p.isRequest = true) (hspace : p.space = 2) :
    portMayAddress da cls p = true := by
  simp [portMayAddress, hreq, hspace]

theorem portMayAddress_of_posted (da cls : Nat) (h : p.opc = opARR ∨ p.opc = opSIG) : portMayAddress da cls p = true := by
  rcases h with h | h <;> simp [portMayAddress, h]

theorem mayOffer_of_class2 (used : Nat) (h : d.cls = 2) : s.mayOffer d used = true := by
  simp [State.mayOffer, h]

/-- A class 0 or class 1 port may send within its window and budget, and only there. -/
theorem mayOffer_iff (used : Nat) (h : d.cls < 2) :
    s.mayOffer d used = true ↔ d.wstart ≤ s.pacer.cycle ∧ s.pacer.cycle ≤ d.wend ∧ used < d.value := by
  simp [State.mayOffer, Nat.not_le.mpr h, and_assoc]

/-- A request outside the window or the budget: the logic has its error. -/
def FabPort.refused (x : FabPort) (tag : Nat) : FabPort := { x with rsp := x.rsp ++ [(tag, [], [], true)] }

/-- The state in which the logic has that error, before the flag and the report. -/
def State.portRefused (s : State) (f port tag : Nat) : State :=
  s.setFport f (64 + port) ((s.fport f (64 + port)).refused tag)

theorem portRefused_fport (s : State) (f port tag : Nat) :
    (s.portRefused f port tag).fport f (64 + port) = (s.fport f (64 + port)).refused tag := State.setFport_fport_self ..

theorem exec_initiatorRequest_refused (h : OwnsInitiator s f port r d) (hreq : p.isRequest = true)
    (haddr : portMayAddress (fabricDA f) d.cls p = true) (hoff : s.mayOffer d (s.fport f (64 + port)).used = false) :
    exec (.initiatorRequest f port p) s =
      .next (((s.portRefused f port p.tag.toNat).flag (fabricDA f) pgFabDie 0).report (fabricDA f) d.cls 0x08 noRef port) := by
  show execInitiatorRequest f port p s = _
  simp [execInitiatorRequest, h.die_lt, h.port_lt, h.owner, h.runs, hreq, haddr, hoff, State.portRefused, FabPort.refused]

theorem exec_initiatorRequest_posted (h : OwnsInitiator s f port r d) (hpost : p.opc = opARR ∨ p.opc = opSIG) (hcls : d.cls < 3)
    (hoff : s.mayOffer d (s.fport f (64 + port)).used = true) :
    exec (.initiatorRequest f port p) s =
      .next ((s.setFport f (64 + port) { s.fport f (64 + port) with used := (s.fport f (64 + port)).used + 1 }).post
        (s.portPacket f port d.cls p)) := by
  have hcode : (p.isRequest || p.opc == opARR || p.opc == opSIG) = true := by
    rcases hpost with e | e <;> simp [e]
  have haddr := portMayAddress_of_posted (fabricDA f) d.cls hpost
  have hmod : d.cls % 4 = d.cls := Nat.mod_eq_of_lt (by omega)
  show execInitiatorRequest f port p s = _
  simp [execInitiatorRequest, h.die_lt, h.port_lt, h.owner, h.runs, hcode, haddr, hoff, hmod, hpost]

/-- The port with one more request outstanding, counted against its budget. -/
def FabPort.sent (x : FabPort) (y : PortReq) : FabPort := { x with used := x.used + 1, reqs := x.reqs ++ [y] }

/-- What the port keeps of a request that it sends with tag `t`. -/
def State.sentReq (s : State) (f port cls : Nat) (p : Packet) (t : Nat) : PortReq :=
  { tag := p.tag.toNat, p := { s.portPacket f port cls p with tag := BitVec.ofNat 10 t }, since := s.boot.time }

/-- The tag of the logic is free at its port, and tokens are there. -/
structure PortReady (s : State) (f port cls : Nat) (p : Packet) : Prop where
  tag : p.tag.toNat < 64
  free : ∀ y ∈ (s.fport f (64 + port)).reqs, y.tag ≠ p.tag.toNat
  tokens : s.hasTokens (fabricDA f) port cls p.len.toNat = true

theorem exec_initiatorRequest_sent {t : Nat} (h : OwnsInitiator s f port r d) (hreq : p.isRequest = true) (hcls : d.cls < 3)
    (haddr : portMayAddress (fabricDA f) d.cls p = true) (hoff : s.mayOffer d (s.fport f (64 + port)).used = true)
    (hready : PortReady s f port d.cls p) (ht : s.freeTag (fabricDA f) port = some t) :
    exec (.initiatorRequest f port p) s =
      .next (((s.takeTokens (fabricDA f) port d.cls p.len.toNat).setFport f (64 + port)
        ((s.fport f (64 + port)).sent (s.sentReq f port d.cls p t))).request (s.portPacket f port d.cls p) t) := by
  have hmod : d.cls % 4 = d.cls := Nat.mod_eq_of_lt (by omega)
  have hgo : ¬(64 ≤ p.tag.toNat ∨ ((s.fport f (64 + port)).reqs.any fun y => y.tag == p.tag.toNat) = true ∨
      (!s.hasTokens (fabricDA f) port d.cls p.len.toNat) = true) := by
    simpa [hready.tokens, hready.tag] using hready.free
  have hboot : (s.takeTokens (fabricDA f) port d.cls p.len.toNat).boot = s.boot := by
    obtain ⟨_, e⟩ := takeTokens_frame s (fabricDA f) port d.cls p.len.toNat
    rw [e]
  show execInitiatorRequest f port p s = _
  simp only [execInitiatorRequest, h.die_lt, h.port_lt, and_self, if_true, h.owner, h.runs, hreq, haddr, hoff, hmod,
    if_neg (ne_posted_of_isRequest hreq), if_neg hgo, ht, hboot, FabPort.sent, State.sentReq, Bool.true_or, Bool.not_true,
    Bool.false_eq_true, or_self, if_false]

theorem initiatorRequest_refuses (h : OwnsInitiator s f port r d) (hreq : p.isRequest = true)
    (haddr : portMayAddress (fabricDA f) d.cls p = true) (hoff : s.mayOffer d (s.fport f (64 + port)).used = false) :
    Yields (.initiatorRequest f port p) s fun u =>
      (u.fport f (64 + port)).rsp = (s.fport f (64 + port)).rsp ++ [(p.tag.toNat, [], [], true)] ∧
      (u.fport f (64 + port)).reqs = (s.fport f (64 + port)).reqs ∧ bit (u.reg (fabricDA f) pgFabDie 0x014) 0 = true ∧
      Reports s u (fabricDA f) d.cls 0x08 noRef port := by
  have hflag := flag_signals (s.portRefused f port p.tag.toNat) (fabricDA f) pgFabDie 0
  have hrep := report_signals ((s.portRefused f port p.tag.toNat).flag (fabricDA f) pgFabDie 0) (fabricDA f) d.cls 0x08 noRef port
  have hport := (fport_of_fports (hflag.trans hrep).fports f (64 + port)).trans (portRefused_fport ..)
  exact ⟨_, exec_initiatorRequest_refused h hreq haddr hoff, (congrArg FabPort.rsp hport :), (congrArg FabPort.reqs hport :),
    hrep.sent.faults.flagged (by decide),
    (report_reports ..).of_keepsSent ((setFport_keepsSent ..).trans hflag.sent) hflag.pacer⟩

theorem initiatorRequest_posts (h : OwnsInitiator s f port r d) (hpost : p.opc = opARR ∨ p.opc = opSIG) (hcls : d.cls < 3)
    (hoff : s.mayOffer d (s.fport f (64 + port)).used = true) :
    Yields (.initiatorRequest f port p) s fun u => Sends s u (s.portPacket f port d.cls p) ∧
      (u.fport f (64 + port)).used = (s.fport f (64 + port)).used + 1 := by
  refine ⟨_, exec_initiatorRequest_posted h hpost hcls hoff, .of_keepsSent (setFport_keepsSent ..) (post_sends ..), ?_⟩
  rw [fport_of_fports (post_signals ..).fports, State.setFport_fport_self]

theorem initiatorRequest_sends {t : Nat} (h : OwnsInitiator s f port r d) (hreq : p.isRequest = true) (hcls : d.cls < 3)
    (haddr : portMayAddress (fabricDA f) d.cls p = true) (hoff : s.mayOffer d (s.fport f (64 + port)).used = true)
    (hready : PortReady s f port d.cls p) (ht : s.freeTag (fabricDA f) port = some t) :
    Yields (.initiatorRequest f port p) s fun u =>
      Sends s u { s.portPacket f port d.cls p with tag := BitVec.ofNat 10 t } ∧
      (u.fport f (64 + port)).used = (s.fport f (64 + port)).used + 1 ∧
      ∃ y, (u.fport f (64 + port)).reqs = (s.fport f (64 + port)).reqs ++ [y] ∧ y.tag = p.tag.toNat := by
  refine ⟨_, exec_initiatorRequest_sent h hreq hcls haddr hoff hready ht, ?_⟩
  obtain ⟨hsig, hsend⟩ := request_spec ((s.takeTokens (fabricDA f) port d.cls p.len.toNat).setFport f (64 + port)
    ((s.fport f (64 + port)).sent (s.sentReq f port d.cls p t))) (s.portPacket f port d.cls p) t
  rw [fport_of_fports hsig.fports, State.setFport_fport_self]
  exact ⟨.of_keepsSent ((takeTokens_keepsSent ..).trans (setFport_keepsSent ..)) hsend, rfl, _, rfl, rfl⟩
end

/-- Settles O53: by the equation of each command at a port (`exec_sig`, `exec_portLate`, `exec_portResponse`, and one for each way
of INITIATOR_REQUEST), and by what a request, a post and a report hand to the network. -/
theorem fabricPorts : Obligations.FabricPorts := by
  refine ⟨fun s p f ha hf => ⟨fun r d hp ho => ⟨_, exec_sig ha hf, signalArrive_owned (s := s.take p) hp ho⟩,
      fun hno => ⟨_, exec_sig ha hf, signalArrive_unowned (s := s.take p) hno⟩⟩,
    fun s f port r d q hf hp ho hq => portLate_marks hf hp ho hq,
    fun s f port tag r d q data rsp hf hp ho hq hdata hmarks hr => portResponse_answers hf hp ho hq ⟨hdata, hmarks⟩ hr, ?_,
    fun s f port r d p hf hp ho hr hpost hcls hoff => initiatorRequest_posts ⟨hf, hp, ho, hr⟩ hpost hcls hoff⟩
  intro s f port r d p hf hp ho hr hreq
  have h : OwnsInitiator s f port r d := ⟨hf, hp, ho, hr⟩
  refine ⟨fun t hcls htag hfree htok ht => ?_, fun t hcls hspace hstart hend hused htag hfree htok ht => ?_,
    fun hcls hspace hout => ?_⟩
  · obtain ⟨u, hu, hsend, -, hreqs⟩ := initiatorRequest_sends h hreq (by omega) (portMayAddress_of_class2 _ hcls p)
      (mayOffer_of_class2 _ hcls) ⟨htag, hfree, hcls ▸ htok⟩ ht
    exact ⟨u, hu, hcls ▸ hsend, hreqs⟩
  · exact initiatorRequest_sends h hreq (by omega) (portMayAddress_of_die_store _ _ hreq hspace)
      ((mayOffer_iff _ hcls).mpr ⟨hstart, hend, hused⟩) ⟨htag, hfree, htok⟩ ht
  · refine initiatorRequest_refuses h hreq (portMayAddress_of_die_store _ _ hreq hspace) (Bool.eq_false_iff.mpr fun hoff => ?_)
    obtain ⟨hstart, hend, hused⟩ := (mayOffer_iff _ hcls).mp hoff
    omega

end Sys2Proof.Machine
end

section
/-! PROOFS. What the steps of a reconfiguration leave (R302 to R304): the queue of the configuration port, the phases of a region, and
the updates that touch neither. -/

namespace Sys2Proof.Machine

/-! ### Updates beside regions and queues -/

section
variable (s : State) (f r : Nat)

/-- A fold whose steps set trip cells changes trip cells only. -/
theorem foldl_trips_frame {α : Type} {g : State → α → State} (h : ∀ s a, ∃ x, g s a = { s with trips := x }) (l : List α) :
    ∃ x, l.foldl g s = { s with trips := x } := by
  induction l generalizing s with
  | nil => exact ⟨_, rfl⟩
  | cons a l ih =>
    obtain ⟨_, ha⟩ := h s a
    obtain ⟨_, hl⟩ := ih (g s a)
    exact ⟨_, by rw [List.foldl_cons, hl, ha]⟩

theorem dropCells_frame : ∃ x, s.dropCells f r = { s with trips := x } := by
  refine foldl_trips_frame s (fun s k => ?_) _
  dsimp only
  split <;> exact ⟨_, rfl⟩

theorem declareCells_frame (d : RegionDecl) : ∃ x, s.declareCells f r d = { s with trips := x } := by
  refine foldl_trips_frame s (fun s x => ?_) _
  split <;> exact ⟨_, rfl⟩

theorem dropCells_regions : (s.dropCells f r).regions = s.regions := by
  obtain ⟨_, h⟩ := dropCells_frame s f r
  rw [h]

theorem dropCells_fabs : (s.dropCells f r).fabs = s.fabs := by
  obtain ⟨_, h⟩ := dropCells_frame s f r
  rw [h]

theorem declareCells_fabs (d : RegionDecl) : (s.declareCells f r d).fabs = s.fabs := by
  obtain ⟨_, h⟩ := declareCells_frame s f r d
  rw [h]

/-- The tracks' settings are registers; a region that takes new ones forgets the changes of the old (R291). -/
theorem setTracks_frame (d : RegionDecl) :
    ∃ x, s.setTracks f r d = { s.setRegion f r { s.region f r with switched := [] } with regs := x } := by
  unfold State.setTracks
  generalize (d.tracks.take 24).zipIdx = l
  generalize s.setRegion f r _ = u
  induction l generalizing u with
  | nil => exact ⟨_, rfl⟩
  | cons x l ih =>
    rw [List.foldl_cons]
    split
    · obtain ⟨y, h⟩ := ih (u.setReg (fabricDA f) (pgFab r) 0x04C (x.1.1 % 4 + 4 * x.1.2) x.2)
      exact ⟨y, h⟩
    · exact ih u

theorem setTracks_region (d : RegionDecl) : (s.setTracks f r d).region f r = { s.region f r with switched := [] } := by
  obtain ⟨_, h⟩ := setTracks_frame s f r d
  rw [h]
  exact State.setRegion_region_self ..

/-- The ports of a region lose what they held. -/
def State.emptyPorts (s : State) (f : Nat) (l : List PortDecl) : State :=
  l.foldl (fun s d => s.setFport f d.port { s.fport f d.port with reqs := [], rsp := [] }) s

theorem emptyPorts_frame (l : List PortDecl) : ∃ x, s.emptyPorts f l = { s with fports := x } := by
  induction l generalizing s with
  | nil => exact ⟨_, rfl⟩
  | cons d l ih =>
    obtain ⟨_, h⟩ := ih (s.setFport f d.port { s.fport f d.port with reqs := [], rsp := [] })
    exact ⟨_, h⟩

theorem emptyPorts_fabs (l : List PortDecl) : (s.emptyPorts f l).fabs = s.fabs := by
  obtain ⟨_, h⟩ := emptyPorts_frame s f l
  rw [h]

theorem emptyPorts_boot (l : List PortDecl) : (s.emptyPorts f l).boot = s.boot := by
  obtain ⟨_, h⟩ := emptyPorts_frame s f l
  rw [h]
end

/-! ### The queue of the configuration port (R302, R303) -/

section
variable (s : State) (f r : Nat)

theorem serve_of_empty (h : (s.fab f).queue = []) : s.serve f = s := by
  unfold State.serve
  rw [h]

theorem serve_frame : ∃ x, s.serve f = { s with regions := x } := by
  unfold State.serve
  split <;> exact ⟨_, rfl⟩

/-- A command joins the queue, and no register changes. -/
theorem fabQueue_frame (c : Nat × Option Nat) : ∃ x, s.fabQueue f c = { s.setFab f { s.fab f with
    queue := (s.fab f).queue ++ [c] } with regions := x } := by
  unfold State.fabQueue
  extract_lets q y u
  split
  · exact serve_frame u f
  · exact ⟨_, rfl⟩

theorem fabQueue_queue (c : Nat × Option Nat) : ((s.fabQueue f c).fab f).queue = (s.fab f).queue ++ [c] := by
  obtain ⟨x, h⟩ := fabQueue_frame s f c
  rw [h]
  exact congrArg FabDie.queue (State.setFab_fab_self ..)

theorem fabQueue_regs (c : Nat × Option Nat) : (s.fabQueue f c).regs = s.regs := by
  obtain ⟨x, h⟩ := fabQueue_frame s f c
  rw [h]
  rfl

theorem fabQueue_of_waiting (c : Nat × Option Nat) (h : (s.fab f).queue ≠ []) : (s.fabQueue f c).regions = s.regions := by
  unfold State.fabQueue
  extract_lets q y u
  have hq : q.isEmpty = false := by rwa [List.isEmpty_eq_false_iff]
  rw [if_neg (Bool.eq_false_iff.mp hq)]
  rfl

theorem fabQueue_of_empty (c : Nat × Option Nat) (h : (s.fab f).queue = []) :
    s.fabQueue f c = (s.setFab f { s.fab f with queue := [c] }).serve f := by
  unfold State.fabQueue
  rw [h]
  rfl

/-- A LOAD that is first in the queue starts the verification (R304 step 1). -/
theorem fabQueue_load (v : Nat) (h : (s.fab f).queue = []) : (s.fabQueue f (r, some v)).region f r =
    { s.region f r with phase := .verifying, before := (s.region f r).phase, target := some v } := by
  rw [fabQueue_of_empty s f _ h]
  unfold State.serve
  rw [State.setFab_fab_self]
  exact State.setRegion_region_self ..

/-- Isolation begins (R304 step 2). -/
theorem isolate_region : (s.isolate f r).region f r =
    { s.region f r with phase := .isolating, isolated := s.boot.time, ran := (s.region f r).runs, drained := none } :=
  State.setRegion_region_self ..

/-- An UNLOAD that is first in the queue isolates its region at once. -/
theorem fabQueue_unload (h : (s.fab f).queue = []) : ((s.fabQueue f (r, none)).region f r).phase = .isolating ∧
    ((s.fabQueue f (r, none)).region f r).isolated = s.boot.time := by
  rw [fabQueue_of_empty s f _ h]
  unfold State.serve
  rw [State.setFab_fab_self]
  dsimp only
  rw [isolate_region]
  exact ⟨rfl, rfl⟩

/-- Behind the last command of the queue nothing is served. -/
theorem fabNext_of_last (h : (s.fab f).queue.length = 1) : s.fabNext f = s.setFab f { s.fab f with queue := [] } := by
  obtain ⟨c, hc⟩ := List.length_eq_one_iff.mp h
  rw [State.fabNext, hc]
  exact serve_of_empty _ _ (congrArg FabDie.queue (State.setFab_fab_self ..))

theorem fabNext_queue_of_last (h : (s.fab f).queue.length = 1) : ((s.fabNext f).fab f).queue = [] := by
  rw [fabNext_of_last s f h]
  exact congrArg FabDie.queue (State.setFab_fab_self ..)

theorem fabNext_region_of_last (h : (s.fab f).queue.length = 1) : (s.fabNext f).region f r = s.region f r := by
  rw [fabNext_of_last s f h]
  rfl

theorem fabNext_regs : (s.fabNext f).regs = s.regs := by
  obtain ⟨x, h⟩ := serve_frame (s.setFab f { s.fab f with queue := (s.fab f).queue.drop 1 }) f
  rw [State.fabNext, h]
  rfl
end

end Sys2Proof.Machine
end

section
/-! PROOFS. What LOAD, UNLOAD, the phases of a reconfiguration and the upsets do (R288, R301 to R304), and the statement about partial
reconfiguration. -/

namespace Sys2Proof.Machine

/-- A region whose pages are enabled. -/
structure FabricOn (s : State) (f r : Nat) : Prop where
  die_lt : f < 24
  region_lt : r < 16
  page : s.pageEn (fabricDA f) (pgFab r) = true
  diePage : s.pageEn (fabricDA f) pgFabDie = true

section
variable {s : State} {f r : Nat}

theorem FabricOn.fabStep (h : FabricOn s f r) (body : Region → State) : s.fabStep f r body = .next (body (s.region f r)) := by
  simp [State.fabStep, regionOk, h.die_lt, h.region_lt, h.page, h.diePage]

theorem last_of_fabs {u : State} (h : u.fabs = s.fabs) (hq : (s.fab f).queue.length = 1) : (u.fab f).queue.length = 1 := by
  rw [fab_of_fabs h, hq]

/-! ### Commands (R302, R303) -/

theorem fabRefuse_spec : bit ((s.fabRefuse f r).reg (fabricDA f) (pgFab r) 0x014) 0 = true ∧ (s.fabRefuse f r).regions = s.regions ∧
    (s.fabRefuse f r).fabs = s.fabs :=
  ⟨flag_sets_bit s _ _ (by decide), (flag_signals ..).regions, (flag_signals ..).fabs⟩

theorem fabLoadCmd_of_no_segment {v : Nat} (hv : s.variantSeg f r v = none) : s.fabLoadCmd f r v = s.fabRefuse f r := by
  rw [State.fabLoadCmd, hv]

theorem fabLoadCmd_of_free {v : Nat} {g : SegEnt × Nat} (hv : s.variantSeg f r v = some g) (hb : s.fabBusy f r = false)
    (hu : s.usesRetired f g = false) : s.fabLoadCmd f r v = s.fabQueue f (r, some v) := by
  simp [State.fabLoadCmd, hv, hb, hu]

theorem exec_fabLoad (h : FabricOn s f r) (v : Nat) : exec (.fabLoad f r v) s = .next (s.fabLoadCmd f r v) :=
  show execFabLoad f r v s = _ from h.fabStep _

theorem exec_fabUnload (h : FabricOn s f r) : exec (.fabUnload f r) s = .next (s.fabUnloadCmd f r) :=
  show execFabUnload f r s = _ from h.fabStep _

theorem fabLoad_refused (h : FabricOn s f r) {v : Nat} (hv : s.variantSeg f r v = none) : Yields (.fabLoad f r v) s fun u =>
    bit (u.reg (fabricDA f) (pgFab r) 0x014) 0 = true ∧ u.regions = s.regions ∧ u.fabs = s.fabs := by
  refine ⟨_, exec_fabLoad h v, ?_⟩
  rw [fabLoadCmd_of_no_segment hv]
  exact fabRefuse_spec

theorem fabLoad_queues (h : FabricOn s f r) {v : Nat} {g : SegEnt × Nat} (hv : s.variantSeg f r v = some g)
    (hb : s.fabBusy f r = false) (hu : s.usesRetired f g = false) : Yields (.fabLoad f r v) s fun u =>
      (u.fab f).queue = (s.fab f).queue ++ [(r, some v)] ∧
      ((s.fab f).queue = [] → u.region f r =
        { s.region f r with phase := .verifying, before := (s.region f r).phase, target := some v }) ∧
      ((s.fab f).queue ≠ [] → u.regions = s.regions) := by
  refine ⟨_, exec_fabLoad h v, ?_⟩
  rw [fabLoadCmd_of_free hv hb hu]
  exact ⟨fabQueue_queue .., fabQueue_load s f r v, fabQueue_of_waiting s f _⟩

theorem fabUnload_refused (h : FabricOn s f r) (hb : s.fabBusy f r = true) : Yields (.fabUnload f r) s fun u =>
    bit (u.reg (fabricDA f) (pgFab r) 0x014) 0 = true ∧ u.regions = s.regions ∧ u.fabs = s.fabs := by
  refine ⟨_, exec_fabUnload h, ?_⟩
  rw [State.fabUnloadCmd, if_pos hb]
  exact fabRefuse_spec

theorem fabUnload_queues (h : FabricOn s f r) (hb : s.fabBusy f r = false) : Yields (.fabUnload f r) s fun u =>
    (u.fab f).queue = (s.fab f).queue ++ [(r, none)] ∧
    ((s.fab f).queue = [] → (u.region f r).phase = .isolating ∧ (u.region f r).isolated = s.boot.time) := by
  refine ⟨_, exec_fabUnload h, ?_⟩
  rw [State.fabUnloadCmd, if_neg (Bool.eq_false_iff.mp hb)]
  exact ⟨fabQueue_queue .., fabQueue_unload s f r⟩

/-! ### The check of a variant (R303, R304 step 1) -/

theorem variantVerified_isolates (h : FabricOn s f r) (hin : s.servingIn f r .verifying = true) {v : Nat} {g : SegEnt × Nat}
    {d : RegionDecl × List Byte} (ht : (s.region f r).target = some v) (hv : s.variantSeg f r v = some g)
    (hd : s.variantDecl g = some d) (hk : s.keepsUse f r d.1 = true) : Yields (.variantVerified f r true) s fun u =>
      (u.region f r).phase = .isolating ∧ (u.region f r).next = d.1 ∧ (u.region f r).nextCfg = d.2 := by
  refine ⟨(s.setRegion f r { s.region f r with phase := (s.region f r).before, next := d.1, nextCfg := d.2 }).isolate f r, ?_, ?_⟩
  · refine (show execVariantVerified f r true s = _ from h.fabStep _).trans ?_
    simp [hin, ht, hv, hd, Option.filter_some, hk]
  · dsimp only
    rw [isolate_region, State.setRegion_region_self]
    exact ⟨rfl, rfl, rfl⟩

/-- The state in which a failed check is flagged and the region is as it was before. -/
def State.checkFailed (s : State) (f r : Nat) : State :=
  (s.flag (fabricDA f) (pgFab r) 1).setRegion f r { s.region f r with phase := (s.region f r).before, target := none }

theorem variantVerified_fails (h : FabricOn s f r) (hin : s.servingIn f r .verifying = true) {v : Nat} {g : SegEnt × Nat}
    (ht : (s.region f r).target = some v) (hv : s.variantSeg f r v = some g) (hd : s.variantDecl g = none)
    (hq : (s.fab f).queue.length = 1) : Yields (.variantVerified f r true) s fun u =>
      (u.region f r).phase = (s.region f r).before ∧ bit (u.reg (fabricDA f) (pgFab r) 0x014) 1 = true ∧ (u.fab f).queue = [] := by
  have hlast : ((s.checkFailed f r).fab f).queue.length = 1 :=
    last_of_fabs (flag_signals s (fabricDA f) (pgFab r) 1).fabs hq
  refine ⟨(s.checkFailed f r).fabNext f, ?_, ?_, ?_, fabNext_queue_of_last _ _ hlast⟩
  · refine (show execVariantVerified f r true s = _ from h.fabStep _).trans ?_
    simp [hin, ht, hv, hd, State.checkFailed]
  · rw [fabNext_region_of_last _ _ _ hlast, State.checkFailed, State.setRegion_region_self]
  · rw [reg_of_regs (fabNext_regs ..)]
    exact flag_sets_bit s _ _ (by decide)

/-! ### Drain and isolation (R304) -/

/-- Nothing of the region's initiator ports is outstanding, or NI_TIMEOUT has passed since the drain began. -/
def State.drainOver (s : State) (f r : Nat) : Prop :=
  (∀ p ∈ (s.region f r).initiators, (s.fport f p).reqs = []) ∨
    (s.region f r).isolated + 2 + s.niTimeout (fabricDA f) ≤ s.boot.time

theorem drainEnd_drains (h : FabricOn s f r) (hin : s.servingIn f r .isolating = true) (hd : (s.region f r).drained = none)
    (ht : (s.region f r).isolated + 2 ≤ s.boot.time) (hover : s.drainOver f r) : Yields (.drainEnd f r) s fun u =>
      u.region f r = { s.region f r with drained := some s.boot.time } ∧ u.fabs = s.fabs := by
  have hidle : (((s.region f r).initiators.all fun p => (s.fport f p).reqs.isEmpty) ||
      decide ((s.region f r).isolated + 2 + s.niTimeout (fabricDA f) ≤ s.boot.time)) = true := by
    simpa [State.drainOver] using hover
  refine ⟨(s.emptyPorts f (s.region f r).decl.ports).setRegion f r
    { s.region f r with drained := some (s.emptyPorts f (s.region f r).decl.ports).boot.time }, ?_, ?_, emptyPorts_fabs ..⟩
  · refine (show execDrainEnd f r s = _ from h.fabStep _).trans ?_
    simp only [hin, hd, ht, hidle, Option.isNone_none, decide_true, Bool.and_self, if_true]
    rfl
  · rw [State.setRegion_region_self, emptyPorts_boot]

theorem isolationDone_loads (ht : (s.region f r).target ≠ none) : ((s.isolationDone f r).region f r).phase = .loading ∧
    ((s.isolationDone f r).region f r).loading = s.boot.time := by
  obtain ⟨v, hv⟩ := Option.ne_none_iff_exists'.mp ht
  rw [State.isolationDone, hv]
  dsimp only
  rw [State.setRegion_region_self]
  exact ⟨rfl, rfl⟩

/-- A region that has been unloaded. -/
def Region.removed (x : Region) : Region := { x with phase := .absent, strobes := [], drained := none }

theorem isolationDone_of_no_target (ht : (s.region f r).target = none) :
    s.isolationDone f r = ((s.setRegion f r (s.region f r).removed).dropCells f r).fabNext f := by
  unfold State.isolationDone
  extract_lets x
  split
  next v hv => cases ht.symm.trans hv
  next => rfl

theorem isolationDone_removes (ht : (s.region f r).target = none) (hq : (s.fab f).queue.length = 1) :
    ((s.isolationDone f r).region f r).phase = .absent ∧ ((s.isolationDone f r).fab f).queue = [] := by
  have hlast := last_of_fabs ((dropCells_fabs (s.setRegion f r (s.region f r).removed) f r).trans (State.setRegion_fabs ..)) hq
  rw [isolationDone_of_no_target ht, fabNext_region_of_last _ _ _ hlast, region_of_regions (dropCells_regions ..),
    State.setRegion_region_self]
  exact ⟨rfl, fabNext_queue_of_last _ _ hlast⟩

/-! ### Loading and release (R304) -/

/-- A region whose segment is written. -/
def Region.loaded (x : Region) (t : Nat) : Region := { x with phase := .releasing, releasing := t }

theorem exec_loadingDone (h : FabricOn s f r) (hin : s.servingIn f r .loading = true)
    (hlong : (s.region f r).loading + loadCycles (s.targetLen f r) ≤ s.boot.time)
    (hlimit : s.boot.time ≤ (s.region f r).loading + loadLimit) : exec (.loadingDone f r) s =
      .next (((s.setRegion f r ((s.region f r).loaded s.boot.time)).setLogic f r
        { sampled := (s.regionLogic f r).sampled }).setTracks f r (s.region f r).next) := by
  refine (show execLoadingDone f r s = _ from h.fabStep _).trans ?_
  simp only [hin, hlong, hlimit, decide_true, Bool.and_self, if_true]
  rfl

theorem loadingDone_releases (h : FabricOn s f r) (hin : s.servingIn f r .loading = true)
    (hlong : (s.region f r).loading + loadCycles (s.targetLen f r) ≤ s.boot.time)
    (hlimit : s.boot.time ≤ (s.region f r).loading + loadLimit) : Yields (.loadingDone f r) s fun u =>
      (u.region f r).phase = .releasing ∧ (u.region f r).releasing = s.boot.time := by
  have hregion (u : State) (y : Logic) : (u.setLogic f r y).region f r = u.region f r := rfl
  refine ⟨_, exec_loadingDone h hin hlong hlimit, ?_⟩
  dsimp only
  rw [setTracks_region, hregion, State.setRegion_region_self]
  exact ⟨rfl, rfl⟩

/-- The state in which a load that took too long is flagged. -/
def State.loadFailed (s : State) (f r : Nat) : State :=
  ((s.setRegion f r { s.region f r with phase := .failed }).dropCells f r).flag (fabricDA f) (pgFab r) 2

theorem loadFailed_fabs : (s.loadFailed f r).fabs = s.fabs := (flag_signals ..).fabs.trans (dropCells_fabs ..)

theorem loadFailed_region : (s.loadFailed f r).region f r = { s.region f r with phase := .failed } := by
  rw [State.loadFailed, region_of_regions (flag_signals ..).regions, region_of_regions (dropCells_regions ..),
    State.setRegion_region_self]

theorem loadTimeout_fails (h : FabricOn s f r) (hin : s.servingIn f r .loading = true)
    (hlimit : (s.region f r).loading + loadLimit < s.boot.time) (hq : (s.fab f).queue.length = 1) :
    Yields (.loadTimeout f r) s fun u =>
      (u.region f r).phase = .failed ∧ bit (u.reg (fabricDA f) (pgFab r) 0x014) 2 = true ∧ (u.fab f).queue = [] := by
  have hlast := last_of_fabs (loadFailed_fabs (s := s) (f := f) (r := r)) hq
  refine ⟨(s.loadFailed f r).fabNext f, ?_, ?_, ?_, fabNext_queue_of_last _ _ hlast⟩
  · refine (show execLoadTimeout f r s = _ from h.fabStep _).trans ?_
    simp only [hin, hlimit, decide_true, Bool.and_self, if_true]
    rfl
  · rw [fabNext_region_of_last _ _ _ hlast, loadFailed_region]
  · rw [reg_of_regs (fabNext_regs ..)]
    exact flag_sets_bit _ _ _ (by decide)

/-- A region that runs what has been loaded. -/
def Region.released (x : Region) : Region :=
  { x with phase := .running, variant := x.target.getD 0, target := none, decl := x.next, cfg := x.nextCfg }

/-- The state in which a region runs and the time of its reconfiguration is recorded. -/
def State.released (s : State) (f r : Nat) : State :=
  let x := s.region f r
  ((((s.dropCells f r).declareCells f r x.next).setReg (fabricDA f) (pgFab r) 0x050 (prTime (s.boot.time - x.isolated))).setRegion f r
    x.released)

theorem released_fabs : (s.released f r).fabs = s.fabs := (declareCells_fabs ..).trans (dropCells_fabs ..)

theorem released_region : (s.released f r).region f r = (s.region f r).released := State.setRegion_region_self ..

theorem released_time : (s.released f r).reg (fabricDA f) (pgFab r) 0x050 = prTime (s.boot.time - (s.region f r).isolated) :=
  setReg_reg_word _ (by unfold prTime; omega)

theorem exec_releaseWait (h : FabricOn s f r) (hin : s.servingIn f r .releasing = true)
    (hlong : (s.region f r).releasing + s.releaseCycles f r ≤ s.boot.time) :
    exec (.releaseWait f r) s = .next ((s.released f r).fabNext f) := by
  obtain ⟨_, hd⟩ := dropCells_frame s f r
  obtain ⟨_, hc⟩ := declareCells_frame (s.dropCells f r) f r (s.region f r).next
  have hboot : ((s.dropCells f r).declareCells f r (s.region f r).next).boot = s.boot := by rw [hc, hd]
  refine (show execReleaseWait f r s = _ from h.fabStep _).trans ?_
  simp only [hin, hlong, decide_true, Bool.and_self, if_true, hboot]
  rfl

theorem releaseWait_runs (h : FabricOn s f r) (hin : s.servingIn f r .releasing = true)
    (hlong : (s.region f r).releasing + s.releaseCycles f r ≤ s.boot.time) (hq : (s.fab f).queue.length = 1) :
    Yields (.releaseWait f r) s fun u => (u.region f r).phase = .running ∧ (u.region f r).decl = (s.region f r).next ∧
      (u.region f r).variant = (s.region f r).target.getD 0 ∧ (u.fab f).queue = [] ∧
      u.reg (fabricDA f) (pgFab r) 0x050 = prTime (s.boot.time - (s.region f r).isolated) := by
  have hlast := last_of_fabs (released_fabs (s := s) (f := f) (r := r)) hq
  have hregion : ((s.released f r).fabNext f).region f r = (s.region f r).released := by
    rw [fabNext_region_of_last _ _ _ hlast, released_region]
  refine ⟨_, exec_releaseWait h hin hlong, ?_⟩
  dsimp only
  rw [hregion, reg_of_regs (fabNext_regs ..)]
  exact ⟨rfl, rfl, rfl, fabNext_queue_of_last _ _ hlast, released_time⟩

/-! ### Upsets (R288, R301) -/

/-- The state in which a corrected bit of the configuration is counted. -/
def State.countUpset (s : State) (f r : Nat) : State := s.incReg (fabricDA f) (pgFab r) 0x054

theorem countUpset_signals (s : State) (f r : Nat) : Signals s (s.countUpset f r) :=
  setReg_signals s _ _ _ _ (by decide) (by decide) (by decide)

theorem configScrub_corrects (h : FabricOn s f r) (hrun : (s.region f r).runs = true) (word : Nat) :
    Yields (.configScrub f r word 1) s fun u => bit (u.reg (fabricDA f) (pgFab r) 0x014) 3 = true ∧
      u.reg (fabricDA f) (pgFab r) 0x054 = (s.reg (fabricDA f) (pgFab r) 0x054 + 1) % 2 ^ 32 ∧
      Charges s u (fabricDA f) (ledgerRef (fabricDA f) 0x0B r) 2 0 word := by
  have hplain : PlainOff 0x054 := ⟨by decide, by decide, by decide, by decide⟩
  have hsig : Signals s ((s.countUpset f r).flag (fabricDA f) (pgFab r) 3) := (countUpset_signals s f r).trans (flag_signals ..)
  refine ⟨((s.countUpset f r).flag (fabricDA f) (pgFab r) 3).charge (fabricDA f) (ledgerRef (fabricDA f) 0x0B r) ckCorrected 0 word, ?_,
    (charge_signals ..).sent.faults.flagged (by decide), ?_, (charge_charges ..).of_keepsSent hsig.sent hsig.pacer⟩
  · refine (show execConfigScrub f r word 1 s = _ from h.fabStep _).trans ?_
    simp [hrun, State.countUpset]
  · rw [State.charge, postRaw_reg_plain _ _ hplain, flag_reg_plain _ hplain, State.countUpset, incReg_reg_self]

theorem configScrub_reports (h : FabricOn s f r) (hrun : (s.region f r).runs = true) (word : Nat) {errs : Nat} (he : 2 ≤ errs) :
    Yields (.configScrub f r word errs) s fun u => bit (u.reg (fabricDA f) (pgFab r) 0x014) 4 = true ∧
      ((s.region f r).fixed = true → Reports s u (fabricDA f) 0 0x0C noRef r) ∧
      ((s.region f r).fixed = false → (u.fab f).queue = (s.fab f).queue ++ [(r, none)]) := by
  have hflag := flag_signals s (fabricDA f) (pgFab r) 4
  have hexec : exec (.configScrub f r word errs) s = .next (if (s.region f r).fixed then
      (s.flag (fabricDA f) (pgFab r) 4).report (fabricDA f) 0 0x0C noRef r
      else (s.flag (fabricDA f) (pgFab r) 4).fabQueue f (r, none)) := by
    refine (show execConfigScrub f r word errs s = _ from h.fabStep _).trans ?_
    simp [hrun, show errs ≠ 0 by omega, show errs ≠ 1 by omega]
  refine ⟨_, hexec, ?_⟩
  cases hfixed : (s.region f r).fixed with
  | true => exact ⟨(report_signals ..).sent.faults.flagged (by decide),
      fun _ => (report_reports ..).of_keepsSent hflag.sent hflag.pacer, nofun⟩
  | false =>
    refine ⟨?_, nofun, fun _ => (fabQueue_queue ..).trans ?_⟩
    · rw [if_neg Bool.false_ne_true, reg_of_regs (fabQueue_regs ..)]
      exact flag_sets_bit s _ _ (by decide)
    · rw [fab_of_fabs hflag.fabs]

/-- A row of a block memory that the logic reads with ECC. -/
structure EccRow (x : Region) (b row : Nat) : Prop where
  runs : x.runs = true
  block_lt : b < 150
  row_lt : row < 512
  simple : (Config.ramCfg x.logicCfg b).simple = true
  ecc : (Config.ramCfg x.logicCfg b).ecc = true

theorem blockMemoryRead_corrects (h : FabricOn s f r) {b row : Nat} (hrow : EccRow (s.region f r) b row) :
    Yields (.blockMemoryRead f r b row 1) s fun u =>
      Charges s u (fabricDA f) (ledgerRef (fabricDA f) 0x0A (150 * r + b)) 2 0 row ∧
      bit (u.reg (fabricDA f) pgFabDie 0x014) 1 = true := by
  have hflag := flag_signals s (fabricDA f) pgFabDie 1
  refine ⟨(s.flag (fabricDA f) pgFabDie 1).charge (fabricDA f) (ledgerRef (fabricDA f) 0x0A (150 * r + b)) ckCorrected 0 row, ?_,
    (charge_charges ..).of_keepsSent hflag.sent hflag.pacer, (charge_signals ..).sent.faults.flagged (by decide)⟩
  refine (show execBlockMemoryRead f r b row 1 s = _ from h.fabStep _).trans ?_
  simp [hrow.runs, hrow.simple, hrow.ecc, Nat.not_le.mpr hrow.block_lt, Nat.not_le.mpr hrow.row_lt]

/-- The block memory that gives the word of a row with two wrong bits, and says so (R288). -/
def State.doubleError (s : State) (f r b row : Nat) : Bram :=
  let m := tget (s.regionLogic f r).rams b {}
  { m with ded := true, outB := doubleBit s.free (s.ramRead f r b m 72 row) }

theorem blockMemoryRead_detects (h : FabricOn s f r) {b row errs : Nat} (hrow : EccRow (s.region f r) b row) (he : 2 ≤ errs) :
    Yields (.blockMemoryRead f r b row errs) s fun u => bit (u.reg (fabricDA f) pgFabDie 0x014) 2 = true ∧
      (tget (u.regionLogic f r).rams b {}).ded = true := by
  refine ⟨{ (s.flag (fabricDA f) pgFabDie 2).setLogic f r { s.regionLogic f r with
    rams := tput (s.regionLogic f r).rams b (s.doubleError f r b row) } with free := s.free + 2 }, ?_,
    flag_sets_bit s _ _ (by decide), ?_⟩
  · refine (show execBlockMemoryRead f r b row errs s = _ from h.fabStep _).trans ?_
    simp [hrow.runs, hrow.simple, hrow.ecc, Nat.not_le.mpr hrow.block_lt, Nat.not_le.mpr hrow.row_lt,
      show errs ≠ 0 by omega, show errs ≠ 1 by omega, State.doubleError]
  · rw [State.regionLogic]
    dsimp only [State.setLogic]
    rw [tget_tput_self, tget_tput_self]
    rfl
end

/-- Settles O52: by the equation of each command where its guard holds, the queue's lemmas (`fabQueue_queue`, `fabNext_of_last`), and
the frames of what a phase does beside its region (`dropCells_frame`, `declareCells_frame`, `setTracks_frame`, `emptyPorts_frame`). -/
theorem partialReconfiguration : Obligations.PartialReconfiguration := by
  intro s f r hf hr hp hd
  have h : FabricOn s f r := ⟨hf, hr, hp, hd⟩
  exact ⟨fun v => ⟨fun hv => fabLoad_refused h hv, fun g hv hb hu => fabLoad_queues h hv hb hu⟩,
    fabUnload_refused h, fabUnload_queues h,
    fun hin => ⟨fun v g d ht hv hd hk => variantVerified_isolates h hin ht hv hd hk,
      fun v g ht hv hd hq => variantVerified_fails h hin ht hv hd hq⟩,
    drainEnd_drains h, isolationDone_loads, isolationDone_removes,
    fun hin => ⟨loadingDone_releases h hin, loadTimeout_fails h hin⟩,
    releaseWait_runs h,
    fun hrun => ⟨configScrub_corrects h hrun, fun word errs he => configScrub_reports h hrun word he,
      fun b row hb hrow hsimple hecc => ⟨blockMemoryRead_corrects h ⟨hrun, hb, hrow, hsimple, hecc⟩,
        fun errs he => blockMemoryRead_detects h ⟨hrun, hb, hrow, hsimple, hecc⟩ he⟩⟩⟩

end Sys2Proof.Machine
end
